-- ==== Sys2Proof/Word.lean ====
section
/-! DEFINITION. Words of the Fjaryar and the finite table that memories and register files are held in. -/

namespace Sys2Proof

/-- A byte of memory (R11). -/
abbrev Byte := BitVec 8

/-- A halfword: the unit of instruction fetch (R15). -/
abbrev Half := BitVec 16

/-- A lane value: one lane of a vector register (R64). -/
abbrev Word := BitVec 32

/-- A scalar register, an address or a 64-bit lane mask (R110, R147). -/
abbrev DWord := BitVec 64

/-- A finite table: keys strictly rising, an absent key reads as what the reader of the table says. -/
abbrev Tbl (α : Type) := List (Nat × α)

/-- A memory: its listed bytes, keys strictly rising, no listed byte equal to what an unlisted address reads as. -/
abbrev Memory := List Host.Cell

/-- A Dzingewin message (R167): its sender and the fields of the 32-byte header, and the payload. -/
structure Msg where
  /-- IPv6 address of the sender, or of the receiver in the outbox -/
  peer    : BitVec 128
  kind    : Byte
  flags   : Byte
  context : Byte
  status  : Byte
  /-- the header's length field -/
  length  : BitVec 32
  seq     : DWord
  address : DWord
  operand : DWord
  payload : List Byte
  deriving DecidableEq, Repr

end Sys2Proof
end

