-- ==== Sys2Proof/Machine/Tbl.lean ====
section
/-! DEFINITION. Reading and writing the finite tables, the byte memories and the fields of words. -/

namespace Sys2Proof.Machine

/-- The entry at `k`. -/
def tblGet? {α : Type} : Tbl α → Nat → Option α
  | [], _ => none
  | (i, a) :: r, k => if k = i then some a else tblGet? r k

/-- The entry at `k`, or `d`. -/
def tblGet {α : Type} (t : Tbl α) (k : Nat) (d : α) : α := (tblGet? t k).getD d

/-- Writes the entry at `k`. -/
def tblSet {α : Type} : Tbl α → Nat → α → Tbl α
  | [], k, a => [(k, a)]
  | (i, b) :: r, k, a =>
    if k < i then (k, a) :: (i, b) :: r
    else if k = i then (k, a) :: r
    else (i, b) :: tblSet r k a

/-- Removes the entry at `k`. -/
def tblErase {α : Type} : Tbl α → Nat → Tbl α
  | [], _ => []
  | (i, b) :: r, k => if k = i then tblErase r k else (i, b) :: tblErase r k

/-- Changes the entry at `k` where there is one. -/
def tblMod {α : Type} (f : α → α) : Tbl α → Nat → Tbl α
  | [], _ => []
  | (i, b) :: r, k => if k = i then (i, f b) :: r else (i, b) :: tblMod f r k

/-- Changes every entry. -/
def tblMap {α β : Type} (f : Nat → α → β) (t : Tbl α) : Tbl β := t.map fun (k, a) => (k, f k a)

/-- The entries that satisfy `p`. -/
def tblFilter {α : Type} (p : Nat → α → Bool) (t : Tbl α) : Tbl α := t.filter fun (k, a) => p k a

/-- One more than the largest key. -/
def tblNext {α : Type} (t : Tbl α) : Nat := t.foldl (fun n (k, _) => max n (k + 1)) 0

/-- Keys strictly rising, each above `lo`. -/
def tblSortedFrom {α : Type} : Nat → Tbl α → Bool
  | _, [] => true
  | lo, (k, _) :: r => decide (lo ≤ k) && tblSortedFrom (k + 1) r

/-- Keys strictly rising: the one form in which equal tables are equal data. -/
def tblSorted {α : Type} (t : Tbl α) : Bool := tblSortedFrom 0 t

/-- What an address that a memory does not list reads as: scratch and private bytes read 0 before the first
write (R193, R399); HBM after power-on reads 0 by DESIGN CHOICE (log 3; unsafe). -/
def unlistedByte : Byte := 0

/-- Reads a byte. -/
def memRead (m : Memory) (a : Nat) : Byte := tblGet m a unlistedByte

/-- Writes a byte, keeping the canonical form. -/
def memWrite (m : Memory) (a : Nat) (v : Byte) : Memory :=
  if v = unlistedByte then tblErase m a else tblSet m a v

/-- The canonical form: addresses strictly rising, and no entry equal to what an unlisted address reads as. -/
def memWf (m : Memory) : Bool := tblSorted m && m.all fun c => decide (c.2 ≠ unlistedByte)

/-- `n` bytes from `a` on, lowest address first. -/
def memReadBytes (m : Memory) (a : Nat) : Nat → List Byte
  | 0 => []
  | n + 1 => memRead m a :: memReadBytes m (a + 1) n

/-- Writes bytes from `a` on. -/
def memWriteBytes (m : Memory) (a : Nat) : List Byte → Memory
  | [] => m
  | b :: r => memWriteBytes (memWrite m a b) (a + 1) r

/-- Little-endian value of bytes (R11). -/
def leNat : List Byte → Nat
  | [] => 0
  | b :: r => b.toNat + 256 * leNat r

/-- The low `n` bytes of a value, little-endian (R11). -/
def leBytes (v : Nat) : Nat → List Byte
  | 0 => []
  | n + 1 => BitVec.ofNat 8 v :: leBytes (v / 256) n

/-- Bits `hi` down to `lo` of a natural number. -/
def natBits (v hi lo : Nat) : Nat := (v / 2 ^ lo) % 2 ^ (hi + 1 - lo)

/-- Bit `n` of a natural number. -/
def natBit (v n : Nat) : Bool := Nat.testBit v n

/-- `n` bytes of a list from offset `a`, 0 beyond its end. -/
def bytesAt (l : List Byte) (a n : Nat) : List Byte :=
  let t := (l.drop a).take n
  t ++ List.replicate (n - t.length) 0

/-- Little-endian field of `n` bytes at offset `a` of a byte list. -/
def fieldAt (l : List Byte) (a n : Nat) : Nat := leNat ((l.drop a).take n)

/-- The lanes 0 to 63 of a mask, ascending. -/
def lanesOf (m : DWord) : List Nat := (List.range 64).filter fun i => m.getLsbD i

/-- The mask that holds lane `l` alone. -/
def laneBit (l : Nat) : DWord := (1 : DWord) <<< l

/-- The mask of the lanes of a list. -/
def maskOf (l : List Nat) : DWord := l.foldl (fun m i => m ||| laneBit i) 0

/-- The lanes 0 to `w` - 1. -/
def fullMask (w : Nat) : DWord := BitVec.ofNat 64 (2 ^ w - 1)

/-- One-bit word of a truth value. -/
def bit64 (b : Bool) : DWord := if b then 1 else 0

/-- The index and value of the first element that satisfies `p`. -/
def findIdxVal {α : Type} (p : α → Bool) : List α → Option (Nat × α)
  | [] => none
  | a :: r => if p a then some (0, a) else (findIdxVal p r).map fun (i, b) => (i + 1, b)

/-- A list without its element `i`. -/
def eraseAt {α : Type} : List α → Nat → List α
  | [], _ => []
  | _ :: r, 0 => r
  | a :: r, i + 1 => a :: eraseAt r i

end Sys2Proof.Machine
end

