-- ==== Sys2Proof/Machine/Float.lean ====
section
/-! DEFINITION. Floating-point formats and the FP32 arithmetic of the vector path (03_number_formats.md, R84 to R94),
on exact integers: a finite value is a sign, a natural magnitude and a power of two. -/

namespace Sys2Proof.Machine

/-- A floating-point format (R62). -/
structure Fmt where
  /-- exponent bits -/
  eb   : Nat
  /-- mantissa bits -/
  mb   : Nat
  bias : Nat
  /-- whether the format has an infinity; E4M3 has none -/
  hasInf : Bool
  /-- whether a NaN with a clear top mantissa bit is signalling (R63) -/
  hasSig : Bool
  deriving DecidableEq, Repr

def fp32 : Fmt := { eb := 8, mb := 23, bias := 127, hasInf := true, hasSig := true }
def bf16 : Fmt := { eb := 8, mb := 7, bias := 127, hasInf := true, hasSig := true }
def fp16 : Fmt := { eb := 5, mb := 10, bias := 15, hasInf := true, hasSig := true }
def e4m3 : Fmt := { eb := 4, mb := 3, bias := 7, hasInf := false, hasSig := false }
def e5m2 : Fmt := { eb := 5, mb := 2, bias := 15, hasInf := true, hasSig := false }
/-- binary64, the format of accumulator pairs (R254, R262). -/
def fp64 : Fmt := { eb := 11, mb := 52, bias := 1023, hasInf := true, hasSig := true }

/-- An unpacked value: `num neg m e` is (-1)^neg * m * 2^e, a signed zero where m = 0. -/
inductive FV where
  | nan (signalling : Bool)
  | inf (neg : Bool)
  | num (neg : Bool) (m : Nat) (e : Int)
  deriving DecidableEq, Repr

/-- Status bits of `%gstat` that a lane instruction raises (R134). -/
abbrev Flags := Byte

def fIV : Flags := 1
def fOF : Flags := 2
def fUF : Flags := 4
def fIX : Flags := 8

/-- The canonical quiet NaN of a format (R63, R262). -/
def Fmt.canonNan (f : Fmt) : Nat :=
  if f.hasInf then (2 ^ f.eb - 1) * 2 ^ f.mb + 2 ^ (f.mb - 1) else 2 ^ (f.eb + f.mb) - 1

/-- The magnitude pattern of infinity. -/
def Fmt.infMag (f : Fmt) : Nat := (2 ^ f.eb - 1) * 2 ^ f.mb

/-- The magnitude pattern of the largest finite value (R62). -/
def Fmt.maxMag (f : Fmt) : Nat := if f.hasInf then f.infMag - 1 else 2 ^ (f.eb + f.mb) - 2

/-- The sign bit in place. -/
def Fmt.signBit (f : Fmt) (neg : Bool) : Nat := if neg then 2 ^ (f.eb + f.mb) else 0

/-- The exponent of one unit in the last place of the subnormals. -/
def Fmt.qmin (f : Fmt) : Int := 1 - (f.bias : Int) - (f.mb : Int)

/-- Reads a bit pattern (R62, R63). -/
def unpack (f : Fmt) (bits : Nat) : FV :=
  let neg := natBit bits (f.eb + f.mb)
  let e := natBits bits (f.eb + f.mb - 1) f.mb
  let m := bits % 2 ^ f.mb
  if e = 2 ^ f.eb - 1 then
    if f.hasInf then
      if m = 0 then .inf neg else .nan (f.hasSig && !natBit m (f.mb - 1))
    else if m = 2 ^ f.mb - 1 then .nan false
    else .num neg (m + 2 ^ f.mb) ((e : Int) - f.bias - f.mb)
  else if e = 0 then .num neg m f.qmin
  else .num neg (m + 2 ^ f.mb) ((e : Int) - f.bias - f.mb)

/-- Number of significant bits; 0 for 0. -/
def bitLen (n : Nat) : Nat := if n = 0 then 0 else Nat.log2 n + 1

/-- Rounds (m + s) * 2^e, 0 < s < 1 where `sticky` and s = 0 otherwise, to a multiple of 2^q: the multiple, and whether
it differs. `rnd` is `%fm.rnd` (R84): 0 nearest even, 1 toward zero, 2 toward -inf, 3 toward +inf. A caller that
sets `sticky` gives e at least two below q. -/
def roundAt (rnd : Nat) (neg : Bool) (m : Nat) (e : Int) (sticky : Bool) (q : Int) : Nat × Bool :=
  if q ≤ e then (m <<< (e - q).toNat, sticky)
  else
    let sh := (q - e).toNat
    let y := m >>> sh
    let rem := m - (y <<< sh)
    let half := 1 <<< (sh - 1)
    let inexact := sticky || decide (rem ≠ 0)
    let up :=
      match rnd with
      | 0 => decide (rem > half) || (decide (rem = half) && (sticky || y % 2 == 1))
      | 1 => false
      | 2 => neg && inexact
      | _ => !neg && inexact
    (if up then y + 1 else y, inexact)

/-- The pattern of y * 2^q, q no smaller than the format's `qmin` and y below 2^(mb+1) + 1. -/
def Fmt.packMag (f : Fmt) (y : Nat) (q : Int) : Nat :=
  if y < 2 ^ f.mb then y
  else if y < 2 ^ (f.mb + 1) then (q - f.qmin + 1).toNat * 2 ^ f.mb + (y - 2 ^ f.mb)
  else (q - f.qmin + 2).toNat * 2 ^ f.mb

/-- Rounds a nonzero or zero exact value once to a format with the rules of R84: overflow by mode, tininess after
rounding with an unbounded exponent, and the `%fm.ftz` output rule. -/
def roundArith (f : Fmt) (rnd : Nat) (ftz : Bool) (neg : Bool) (m : Nat) (e : Int) (sticky : Bool) : Nat × Flags :=
  if m = 0 && !sticky then (f.signBit neg, 0)
  else
    let top : Int := e + (Nat.log2 m : Int)
    let qu : Int := top - f.mb
    let q : Int := if m = 0 then f.qmin else max qu f.qmin
    let (y, ix) := roundAt rnd neg m e sticky q
    let mag := f.packMag y q
    if f.maxMag < mag then
      let toMax := match rnd with
        | 0 => false
        | 1 => true
        | 2 => !neg
        | _ => neg
      (f.signBit neg + (if toMax || !f.hasInf then f.maxMag else f.infMag), fOF ||| fIX)
    else
      let (yu, _) := roundAt rnd neg m e sticky qu
      -- the value rounded with an unbounded exponent lies below the smallest normal
      let tiny := m = 0 || decide (qu + (bitLen yu : Int) ≤ f.qmin + f.mb)
      if ftz && decide (0 < y) && decide (mag < 2 ^ f.mb) then (f.signBit neg, fUF ||| fIX)
      else (f.signBit neg + mag, if ix then (if tiny then fUF ||| fIX else fIX) else 0)

/-- Rounds with the saturating rule of R65: nearest even, finite overflow to the largest finite value. -/
def roundSat (f : Fmt) (neg : Bool) (m : Nat) (e : Int) (sticky : Bool) : Nat × Flags :=
  if m = 0 && !sticky then (f.signBit neg, 0)
  else
    let q : Int := if m = 0 then f.qmin else max (e + (Nat.log2 m : Int) - f.mb) f.qmin
    let (y, ix) := roundAt 0 neg m e sticky q
    let mag := f.packMag y q
    if f.maxMag < mag then (f.signBit neg + f.maxMag, fOF ||| fIX)
    else (f.signBit neg + mag, if ix then (if mag < 2 ^ f.mb then fUF ||| fIX else fIX) else 0)

/-- Unpacks an FP32 operand; `%fm.ftz` replaces a denormal by a zero of its sign (R84). -/
def inF32 (ftz : Bool) (w : Word) : FV :=
  match unpack fp32 w.toNat with
  | .num neg m e => if ftz && decide (m < 2 ^ 23) then .num neg 0 fp32.qmin else .num neg m e
  | v => v

def FV.isNan : FV → Bool
  | .nan _ => true
  | _ => false

def FV.isSig : FV → Bool
  | .nan s => s
  | _ => false

def nan32 : Word := 0x7FC00000#32

/-- An FP32 result and the flags it raises. -/
abbrev FRes := Word × Flags

def toRes (r : Nat × Flags) : FRes := (BitVec.ofNat 32 r.1, r.2)

/-- The signed integer of a sign and magnitude. -/
def sgnInt (neg : Bool) (m : Nat) : Int := if neg then -(m : Int) else (m : Int)

/-- The NaN result of an operation, FPIV where an operand is signalling (R84). -/
def nanRes (vs : List FV) : FRes := (nan32, if vs.any FV.isSig then fIV else 0)

/-- The canonical NaN of an invalid operation (R84). -/
def invalidRes : FRes := (nan32, fIV)

/-- Sum of two exact numbers as a signed mantissa and an exponent. -/
def addExact (s1 : Int) (e1 : Int) (s2 : Int) (e2 : Int) : Int × Int :=
  let e := min e1 e2
  (s1 * 2 ^ (e1 - e).toNat + s2 * 2 ^ (e2 - e).toNat, e)

/-- Rounds an exact sum: an exact zero is +0, or -0 toward -inf, unless both addends carry the same sign (R84). -/
def roundSum (f : Fmt) (rnd : Nat) (ftz : Bool) (n1 n2 : Bool) (s : Int × Int) : Nat × Flags :=
  if s.1 = 0 then (f.signBit (if n1 == n2 then n1 else rnd == 2), 0)
  else roundArith f rnd ftz (decide (s.1 < 0)) s.1.natAbs s.2 false

/-- a + b in a format, every NaN canonical (R84). -/
def fvAdd (f : Fmt) (rnd : Nat) (ftz : Bool) (a b : FV) : Nat × Flags :=
  match a, b with
  | .num n1 m1 e1, .num n2 m2 e2 =>
    if m1 = 0 && m2 = 0 then (f.signBit (if n1 == n2 then n1 else rnd == 2), 0)
    else roundSum f rnd ftz n1 (if m1 = 0 || m2 = 0 then n1 else n2) (addExact (sgnInt n1 m1) e1 (sgnInt n2 m2) e2)
  | .inf n1, .inf n2 => if n1 == n2 then (f.signBit n1 + f.infMag, 0) else (f.canonNan, fIV)
  | .inf n1, .num .. => (f.signBit n1 + f.infMag, 0)
  | .num .., .inf n2 => (f.signBit n2 + f.infMag, 0)
  | a, b => (f.canonNan, if a.isSig || b.isSig then fIV else 0)

/-- The value with its sign inverted. -/
def FV.neg : FV → FV
  | .nan s => .nan s
  | .inf n => .inf !n
  | .num n m e => .num (!n) m e

/-- a * b in a format (R84). -/
def fvMul (f : Fmt) (rnd : Nat) (ftz : Bool) (a b : FV) : Nat × Flags :=
  match a, b with
  | .num n1 m1 e1, .num n2 m2 e2 => roundArith f rnd ftz (n1 != n2) (m1 * m2) (e1 + e2) false
  | .inf n1, .inf n2 => (f.signBit (n1 != n2) + f.infMag, 0)
  | .inf n1, .num n2 m _ => if m = 0 then (f.canonNan, fIV) else (f.signBit (n1 != n2) + f.infMag, 0)
  | .num n1 m _, .inf n2 => if m = 0 then (f.canonNan, fIV) else (f.signBit (n1 != n2) + f.infMag, 0)
  | a, b => (f.canonNan, if a.isSig || b.isSig then fIV else 0)

/-- a * b + c with one rounding; 0 * inf is invalid even beside a quiet NaN addend (R85). -/
def fvFma (rnd : Nat) (ftz : Bool) (a b c : FV) : FRes :=
  let invalidProduct := match a, b with
    | .inf _, .num _ m _ => m == 0
    | .num _ m _, .inf _ => m == 0
    | _, _ => false
  if invalidProduct then invalidRes
  else if a.isNan || b.isNan || c.isNan then nanRes [a, b, c]
  else
    match a, b with
    | .num n1 m1 e1, .num n2 m2 e2 =>
      match c with
      | .num .. => toRes (fvAdd fp32 rnd ftz (.num (n1 != n2) (m1 * m2) (e1 + e2)) c)
      | .inf n => toRes (fp32.signBit n + fp32.infMag, 0)
      | .nan s => nanRes [.nan s]
    | _, _ =>
      let n := (match a with | .inf n => n | .num n _ _ => n | .nan _ => false) !=
        (match b with | .inf n => n | .num n _ _ => n | .nan _ => false)
      match c with
      | .inf nc => if nc == n then toRes (fp32.signBit n + fp32.infMag, 0) else invalidRes
      | _ => toRes (fp32.signBit n + fp32.infMag, 0)

def f32Add (rnd : Nat) (ftz : Bool) (a b : Word) : FRes := toRes (fvAdd fp32 rnd ftz (inF32 ftz a) (inF32 ftz b))
def f32Sub (rnd : Nat) (ftz : Bool) (a b : Word) : FRes := toRes (fvAdd fp32 rnd ftz (inF32 ftz a) (inF32 ftz b).neg)
def f32Mul (rnd : Nat) (ftz : Bool) (a b : Word) : FRes := toRes (fvMul fp32 rnd ftz (inF32 ftz a) (inF32 ftz b))
/-- round(a * b + d) (R85). -/
def f32Fma (rnd : Nat) (ftz : Bool) (a b d : Word) : FRes := fvFma rnd ftz (inF32 ftz a) (inF32 ftz b) (inF32 ftz d)
/-- round(d - a * b) (R85). -/
def f32Fms (rnd : Nat) (ftz : Bool) (a b d : Word) : FRes := fvFma rnd ftz (inF32 ftz a).neg (inF32 ftz b) (inF32 ftz d)

/-- Orders two values that are not NaN, -0 below +0: whether a is smaller (R86). -/
def fvLessSigned (a b : FV) : Bool :=
  match a, b with
  | .inf true, .inf true => false
  | .inf true, _ => true
  | .inf false, _ => false
  | .num .., .inf n => !n
  | .num n1 m1 e1, .num n2 m2 e2 =>
    let d := (addExact (sgnInt n1 m1) e1 (-(sgnInt n2 m2)) e2).1
    decide (d < 0) || (decide (d = 0) && n1 && !n2)
  | _, _ => false

/-- Orders two values that are not NaN, -0 equal to +0 (R122). -/
def fvLess (a b : FV) : Bool :=
  match a, b with
  | .num n1 m1 e1, .num n2 m2 e2 => decide ((addExact (sgnInt n1 m1) e1 (-(sgnInt n2 m2)) e2).1 < 0)
  | a, b => fvLessSigned a b

/-- An operand as fmin and fmax return it: unchanged, but for a flushed denormal (R86). -/
def flushWord (ftz : Bool) (w : Word) : Word :=
  match inF32 ftz w with
  | .num neg 0 _ => BitVec.ofNat 32 (fp32.signBit neg)
  | _ => w

/-- fmin and fmax (R86). -/
def f32MinMax (isMax ftz : Bool) (a b : Word) : FRes :=
  let u := inF32 ftz a
  let v := inF32 ftz b
  let fl : Flags := if u.isSig || v.isSig then fIV else 0
  if u.isNan && v.isNan then (nan32, fl)
  else if u.isNan then (flushWord ftz b, fl)
  else if v.isNan then (flushWord ftz a, fl)
  else
    let aFirst := if isMax then fvLessSigned v u else fvLessSigned u v
    (if aFirst then flushWord ftz a else flushWord ftz b, fl)

/-- Rounds (m * 2^e) to an integer: 0 nearest even, 1 toward zero, 2 down, 3 up; the signed integer and whether it
differs. -/
def roundInt (rnd : Nat) (neg : Bool) (m : Nat) (e : Int) : Int × Bool :=
  let (y, ix) := roundAt rnd neg m e false 0
  (sgnInt neg y, ix)

/-- fscale: round(a * 2^n), n the truncated and clamped scale t (R87). With a quiet-NaN t a signalling-NaN a sets no FPIV, since R87
ties the flag to t there: DESIGN CHOICE (log 33), R84 can be read otherwise. -/
def f32Scale (rnd : Nat) (ftz : Bool) (a t : Word) : FRes :=
  match unpack fp32 t.toNat with
  | .nan s => (nan32, if s then fIV else 0)
  | tv =>
    let n : Int := match tv with
      | .inf neg => if neg then -300 else 300
      | .num neg m e => max (-300) (min 300 (roundInt 1 neg m e).1)
      | .nan _ => 0
    match inF32 ftz a with
    | .nan s => nanRes [.nan s]
    | .inf neg => toRes (fp32.signBit neg + fp32.infMag, 0)
    | .num neg m e => if m = 0 then toRes (fp32.signBit neg, 0) else toRes (roundArith fp32 rnd ftz neg m (e + n) false)

/-- Conversion of FP32 to a narrower format, the result in the low bits (R64, R65). -/
def narrowF (f : Fmt) (v : FV) : Nat × Flags :=
  match v with
  | .nan s => (f.canonNan, if s then fIV else 0)
  | .inf neg => if f.hasInf then (f.signBit neg + f.infMag, 0) else (f.signBit neg + f.maxMag, fOF ||| fIX)
  | .num neg m e => roundSat f neg m e false

def f32Narrow (f : Fmt) (ftz : Bool) (w : Word) : FRes := toRes (narrowF f (inF32 ftz w))

/-- Conversion to FP32 of the narrow value in the low bits of `bits` (R66). -/
def f32Widen (f : Fmt) (ftz : Bool) (bits : Nat) : FRes :=
  match unpack f (bits % 2 ^ (1 + f.eb + f.mb)) with
  | .nan s => (nan32, if s then fIV else 0)
  | .inf neg => toRes (fp32.signBit neg + fp32.infMag, 0)
  | .num neg m e => toRes (roundArith fp32 0 ftz neg m e false)

/-- pack.bf16x2 (R88). -/
def f32Pack (ftz : Bool) (a b : Word) : FRes :=
  let (x, fx) := narrowF bf16 (inF32 ftz a)
  let (y, fy) := narrowF bf16 (inF32 ftz b)
  (BitVec.ofNat 32 (x + y * 65536), fx ||| fy)

/-- Integer to FP32, nearest even (R67). -/
def intToF32 (v : Int) : FRes := toRes (roundArith fp32 0 false (decide (v < 0)) v.natAbs 0 false)

/-- FP32 to an integer in [lo, hi] with saturation (R67). -/
def f32ToInt (rnd : Nat) (ftz : Bool) (lo hi : Int) (w : Word) : FRes :=
  match inF32 ftz w with
  | .nan _ => (0, fIV)
  | .inf neg => (BitVec.ofInt 32 (if neg then lo else hi), fIV)
  | .num neg m e =>
    let (v, ix) := roundInt rnd neg m e
    if v < lo then (BitVec.ofInt 32 lo, fIV)
    else if hi < v then (BitVec.ofInt 32 hi, fIV)
    else (BitVec.ofInt 32 v, if ix then fIX else 0)

def f32Abs (ftz : Bool) (a : Word) : FRes :=
  match inF32 ftz a with
  | .nan s => nanRes [.nan s]
  | _ => (flushWord ftz a &&& 0x7FFFFFFF#32, 0)

def f32Neg (ftz : Bool) (a : Word) : FRes :=
  match inF32 ftz a with
  | .nan s => nanRes [.nan s]
  | _ => (flushWord ftz a ^^^ 0x80000000#32, 0)

/-- ffloor, fceil, ftrunc and frint: rounding to an integral value, the sign of a kept on a zero (R91). -/
def f32RoundInt (rnd : Nat) (ftz : Bool) (a : Word) : FRes :=
  match inF32 ftz a with
  | .nan s => nanRes [.nan s]
  | .inf neg => toRes (fp32.signBit neg + fp32.infMag, 0)
  | .num neg m e =>
    let (y, _) := roundAt rnd neg m e false 0
    ((BitVec.ofNat 32 (roundArith fp32 1 false neg y 0 false).1, 0) : FRes)

/-- ffract: round(a - floor a) under the rounding mode; 1.0 is replaced (R91). -/
def f32Fract (rnd : Nat) (ftz : Bool) (a : Word) : FRes :=
  match inF32 ftz a with
  | .nan s => nanRes [.nan s]
  | .inf _ => invalidRes
  | .num neg m e =>
    if m = 0 then (0, 0)
    else
      let (fl, _) := roundInt 2 neg m e
      let (w, g) := toRes (roundSum fp32 rnd ftz neg (!neg) (addExact (sgnInt neg m) e (-fl) 0))
      if w = 0x3F800000#32 then (0x3F7FFFFF#32, g ||| fIX) else (w, g)

/-- fsat: min(max(a, +0), 1.0) (R91). -/
def f32Sat (ftz : Bool) (a : Word) : FRes :=
  match inF32 ftz a with
  | .nan s => (0, if s then fIV else 0)
  | .inf neg => (if neg then 0 else 0x3F800000#32, 0)
  | .num neg m e =>
    if neg || m == 0 then (0, 0)
    else if fvLess (.num false 1 0) (.num neg m e) then (0x3F800000#32, 0)
    else (flushWord ftz a, 0)

/-- Integer square root, `n` bits of result from the top. -/
def isqrtFrom (x : Nat) : Nat → Nat → Nat
  | r, 0 => r
  | r, n + 1 => let c := r + 2 ^ n; if c * c ≤ x then isqrtFrom x c n else isqrtFrom x r n

/-- Floor of the square root. -/
def isqrt (x : Nat) : Nat := isqrtFrom x 0 (bitLen x / 2 + 1)

/-- frcp (R92). -/
def f32Rcp (rnd : Nat) (ftz : Bool) (a : Word) : FRes :=
  match inF32 ftz a with
  | .nan s => nanRes [.nan s]
  | .inf neg => toRes (fp32.signBit neg, 0)
  | .num neg m e =>
    if m = 0 then toRes (fp32.signBit neg + fp32.infMag, 0)
    else
      let q := 2 ^ 80 / m
      toRes (roundArith fp32 rnd ftz neg q (-80 - e) (decide (q * m ≠ 2 ^ 80)))

/-- fsqrt (R92). -/
def f32Sqrt (rnd : Nat) (ftz : Bool) (a : Word) : FRes :=
  match inF32 ftz a with
  | .nan s => nanRes [.nan s]
  | .inf neg => if neg then invalidRes else toRes (fp32.infMag, 0)
  | .num neg m e =>
    if m = 0 then toRes (fp32.signBit neg, 0)
    else if neg then invalidRes
    else
      -- an even exponent, and at least 80 bits under the root
      let odd := e % 2 ≠ 0
      let n := (if odd then 2 * m else m) * 2 ^ 80
      let e2 := (if odd then e - 1 else e) - 80
      let r := isqrt n
      toRes (roundArith fp32 rnd ftz false r (e2 / 2) (decide (r * r ≠ n)))

/-- frsq, nearest even (R92). -/
def f32Rsq (ftz : Bool) (a : Word) : FRes :=
  match inF32 ftz a with
  | .nan s => nanRes [.nan s]
  | .inf neg => if neg then invalidRes else (0, 0)
  | .num neg m e =>
    if m = 0 then toRes (fp32.signBit neg + fp32.infMag, 0)
    else if neg then invalidRes
    else
      let odd := e % 2 ≠ 0
      let m2 := if odd then 2 * m else m
      let e2 := if odd then e - 1 else e
      let n := 2 ^ 120 / m2
      let r := isqrt n
      toRes (roundArith fp32 0 ftz false r (-60 - e2 / 2) (decide (m2 * r * r ≠ 2 ^ 120)))

/-! Transcendental functions (R92, R93): the exact value is enclosed between two fixed-point numbers of `fixP` bits,
and both ends round to the same FP32 value. -/

/-- Fraction bits of the fixed-point enclosures. -/
def fixP : Nat := 480

/-- Width of an enclosure to each side, in units of 2^-fixP: more than every truncation below adds up to. -/
def fixErr : Int := 2 ^ 60

/-- Sum of the series with terms t * z^2 / (2k+1), the arctangent or its hyperbolic kin at 1/n: `sgn` alternates. -/
def atanSum (alternate : Bool) (nn : Nat) : Nat → Nat → Int → Nat → Int
  | _, _, acc, 0 => acc
  | t, k, acc, fuel + 1 =>
    if t = 0 then acc
    else
      let term : Int := ((t / (2 * k + 1) : Nat) : Int)
      atanSum alternate nn (t / nn) (k + 1) (if alternate && k % 2 == 1 then acc - term else acc + term) fuel

/-- pi at `fixP` bits, by Machin's formula. -/
def fixPi : Int :=
  16 * atanSum true 25 (2 ^ fixP / 5) 0 0 240 - 4 * atanSum true 57121 (2 ^ fixP / 239) 0 0 80

/-- ln 2 at `fixP` bits: twice the hyperbolic arctangent of 1/3. -/
def fixLn2 : Int := 2 * atanSum false 9 (2 ^ fixP / 3) 0 0 180

/-- exp x for x ≥ 0 in fixed point. -/
def fixExp (x : Nat) : Nat → Nat → Nat → Nat → Nat
  | _, _, acc, 0 => acc
  | t, k, acc, fuel + 1 =>
    if t = 0 then acc else fixExp x (t * x / (k * 2 ^ fixP)) (k + 1) (acc + t) fuel

/-- The series of sine (first term x) and cosine (first term 1): terms alternate, each the last times x^2. -/
def fixSinCos (x : Int) : Int → Nat → Int → Nat → Int
  | _, _, acc, 0 => acc
  | t, k, acc, fuel + 1 =>
    if t = 0 then acc
    else fixSinCos x (-((t * x / 2 ^ fixP) * x / 2 ^ fixP) / ((k + 1) * (k + 2) : Nat)) (k + 2) (acc + t) fuel

/-- Hyperbolic arctangent of z, 0 ≤ z < 1/2, in fixed point. -/
def fixAtanh (z2 : Nat) : Nat → Nat → Nat → Nat → Nat
  | _, _, acc, 0 => acc
  | t, k, acc, fuel + 1 =>
    if t = 0 then acc else fixAtanh z2 (t * z2 / 2 ^ fixP) (k + 1) (acc + t / (2 * k + 1)) fuel

/-- The FP32 value of a fixed-point enclosure around `v`, scaled by 2^sc, nearest even, always inexact (R93). -/
def roundEnclosure (ftz : Bool) (v : Int) (sc : Int) : FRes :=
  let lo := v - fixErr
  let hi := v + fixErr
  let r (x : Int) := roundArith fp32 0 ftz (decide (x < 0)) x.natAbs (sc - fixP) true
  let (b, g) := if (r lo).1 = (r hi).1 then r hi else r v
  (BitVec.ofNat 32 b, g ||| fIX)

/-- The fixed-point value of m * 2^e, rounded down. -/
def fixOf (neg : Bool) (m : Nat) (e : Int) : Int :=
  let k := e + fixP
  sgnInt neg (if 0 ≤ k then m <<< k.toNat else m >>> (-k).toNat)

/-- fexp2 (R92). -/
def f32Exp2 (ftz : Bool) (a : Word) : FRes :=
  match inF32 ftz a with
  | .nan s => nanRes [.nan s]
  | .inf neg => (if neg then 0 else 0x7F800000#32, 0)
  | .num neg m e =>
    if m = 0 then (0x3F800000#32, 0)
    else
      let (n, ix) := roundInt 2 neg m e
      if 128 ≤ n then (0x7F800000#32, fOF ||| fIX)
      else if n < -150 || (n = -150 && !ix) then (0, fUF ||| fIX)
      else if !ix then toRes (roundArith fp32 0 ftz false 1 n false)
      else
        let frac := (fixOf neg m e - n * 2 ^ fixP).toNat
        let y := frac * fixLn2.toNat / 2 ^ fixP
        roundEnclosure ftz (fixExp y (2 ^ fixP) 1 0 200) n

/-- flog2 (R92). -/
def f32Log2 (ftz : Bool) (a : Word) : FRes :=
  match inF32 ftz a with
  | .nan s => nanRes [.nan s]
  | .inf neg => if neg then invalidRes else (0x7F800000#32, 0)
  | .num neg m e =>
    if m = 0 then (0xFF800000#32, 0)
    else if neg then invalidRes
    else
      let k := Nat.log2 m
      let n : Int := e + k
      if m = 2 ^ k then toRes (roundArith fp32 0 false (decide (n < 0)) n.natAbs 0 false)
      else
        -- m / 2^k lies in (1, 2); its logarithm is twice the hyperbolic arctangent of (x-1)/(x+1)
        let z := (m - 2 ^ k) * 2 ^ fixP / (m + 2 ^ k)
        let l := 2 * fixAtanh (z * z / 2 ^ fixP) z 0 0 260
        roundEnclosure ftz (n * 2 ^ fixP + (l * 2 ^ fixP : Nat) / fixLn2) 0

/-- fsin and fcos of 2 pi a (R92): a is reduced by its nearest integer. -/
def f32SinCos (isCos ftz : Bool) (a : Word) : FRes :=
  match inF32 ftz a with
  | .nan s => nanRes [.nan s]
  | .inf _ => invalidRes
  | .num neg m e =>
    if m = 0 then (if isCos then (0x3F800000#32, 0) else toRes (fp32.signBit neg, 0))
    else
      -- 4a modulo 4 when 4a is an integer
      let (q, ix) := roundInt 2 neg m (e + 2)
      if !ix then
        let r := (q % 4).toNat
        let r := if isCos then (r + 1) % 4 else r
        (match r with
          | 1 => 0x3F800000#32
          | 3 => 0xBF800000#32
          | _ => 0, 0)
      else
        let (n, _) := roundInt 0 neg m e
        let r := fixOf neg m e - n * 2 ^ fixP
        let x := 2 * r * fixPi / 2 ^ fixP
        roundEnclosure ftz (if isCos then fixSinCos x (2 ^ fixP) 0 0 120 else fixSinCos x x 1 0 120) 0

/-- ftanh (R92). -/
def f32Tanh (ftz : Bool) (a : Word) : FRes :=
  match inF32 ftz a with
  | .nan s => nanRes [.nan s]
  | .inf neg => (if neg then 0xBF800000#32 else 0x3F800000#32, 0)
  | .num neg m e =>
    if m = 0 then toRes (fp32.signBit neg, 0)
    else if fvLess (.num false m e) (.num false 9 0) then
      let x := (2 * fixOf false m e).toNat
      let ex := fixExp x (2 ^ fixP) 1 0 320
      let one : Nat := 2 ^ fixP
      let t := (ex - one) * 2 ^ fixP / (ex + one)
      roundEnclosure ftz (sgnInt neg t) 0
    else (if neg then 0xBF800000#32 else 0x3F800000#32, fIX)

/-- The relation of CMPF (R35, R122): eq, lt, le, un; FPIV for a signalling NaN. -/
def f32Cmp (cond : Nat) (ftz : Bool) (a b : Word) : Bool × Flags :=
  let u := inF32 ftz a
  let v := inF32 ftz b
  let fl : Flags := if u.isSig || v.isSig then fIV else 0
  if u.isNan || v.isNan then (cond == 3, fl)
  else
    (match cond with
      | 0 => !fvLess u v && !fvLess v u
      | 1 => fvLess u v
      | 2 => !fvLess v u
      | _ => false, fl)

/-- The fixed summation tree of redf (R120), nearest even. -/
def f32TreeLevel (ftz : Bool) : List Word → List Word × Flags
  | a :: b :: r =>
    let (s, g) := f32Add 0 ftz a b
    let (l, h) := f32TreeLevel ftz r
    (s :: l, g ||| h)
  | l => (l, 0)

def f32Tree (ftz : Bool) : Nat → List Word → Word × Flags
  | 0, l => (l.headD 0, 0)
  | n + 1, l =>
    let (l', g) := f32TreeLevel ftz l
    let (w, h) := f32Tree ftz n l'
    (w, g ||| h)

end Sys2Proof.Machine
end

