-- ==== Sys2Proof/Config.lean ====
section
/-! DEFINITION. What the part fixes: the data of final test and the values that the manual leaves open. An `opaque`
constant has no value that Lean can see: a statement that mentions it holds whatever the value is. -/

namespace Sys2Proof.Config

/-- Physical cores of a compute reticle (R3). -/
def coresPerReticle : Nat := 15

/-- Bytes of HBM (R9, R281). -/
def hbmBytes : Nat := 0x30000000000

/-- ISA level of the device (R137, R153). -/
def isaLevel : Nat := 0x0100

/-- Nanoseconds that pass in a step (log 2): a free value. -/
opaque stepNs : Nat → Nat

/-- Cycles of a core that pass beyond the counted one when its cycle ends (log 2): a free value. -/
opaque stallCycles : Nat → Nat

/-- Mesh cycles that pass in a step (log 2): a free value. -/
opaque meshCycles : Nat → Nat

/-- The bank hash of a physical line, PA[51:7] (R288; log 5): a free value, read modulo 64. -/
opaque bankHash : Nat → Nat

/-- The set hash of a physical line within its bank (R288; log 5): a free value, read modulo 3,072. -/
opaque setHash : Nat → Nat

/-- Directory entries beyond 64 that the reserved part of a bank holds (R289; log 5): a free value. -/
opaque entryStorage : Nat

/-- The anchor hash of a physical line (R288; log 5): a free value, read modulo the size of the map. -/
opaque anchorHash : Nat → Nat

/-- Base, length and a number that gives the use of a reserved physical area (R281, R400; log 5): a free value of the area's number.
-/
opaque reservedArea : Nat → DWord × DWord × Nat

/-- Number of reserved physical areas (R400; log 5): a free value. -/
opaque reservedCount : Nat

/-- Bytes of HBM left for contexts (R400; log 5): a free value. -/
opaque bytesLeft : DWord

/-- A provisioned host key, a point of P-521 (R173, R183; log 12): a free value of the key's index. -/
opaque hostKey : Nat → Nat × Nat

/-- The wafer's private P-521 identity key (R180, R184; log 12): a free value. -/
opaque identityKey : Nat

/-- The nonce with which the wafer signs bytes (R180, R184; log 12): a free value of the model's tick and the bytes. -/
opaque nonce : Nat → List Byte → Nat

/-- Number of provisioned host keys (R183; log 12): a free value. -/
opaque keyCount : Nat

/-- The firmware image that runs after device reset (R179, R181; log 12): a free value. -/
opaque firmwareImage : List Byte

/-- The key that signs firmware, a point of P-521 (R179; log 12): a free value. -/
opaque firmwareKey : Nat × Nat

/-- What the signature of a firmware image covers, and the signature that the image carries (R179; log 12): a free value of the
image's bytes. -/
opaque firmwareParts : List Byte → List Byte × List Byte

/-- The version of a firmware image, of two the older lower (R179; log 12): a free value of the image's bytes. -/
opaque firmwareVersion : List Byte → Nat

/-- Device identity in an attestation quote (R180; log 12): a free value. -/
opaque deviceIdentity : List Byte

/-- Whether the partner of a port comes up at 800GBASE-R at bring-up (R165; log 24): a free value of the port. -/
opaque partnerUp : Nat → Bool

/-- Acknowledgement frames that the wafer sends as a frame arrives (R170, R400; log 24): a free value of the model's tick, since one
acknowledgement may name several sequence numbers. -/
opaque ackFrames : Nat → Nat

/-- Whether the wafer holds back priority 3 at the partner of a port under flow control, once a frame has arrived (R166; log 24): a
free value of the model's tick. -/
opaque holdsPartner : Nat → Bool

/-- Power in watts before the cap of 30 kW is applied (R181, R400; log 6): a free value of the model's tick. -/
opaque power : Nat → Word

/-- Address of a group's private area in its context's private range, in units of 128 bytes from its base, before the
areas already allocated are avoided (R399; log 13): a free value of the group's number. -/
opaque privateHint : Nat → Nat

/-- Whether an acquire load at ret or wider is served by the replica of its reticle where there is one (R335; log 9): a free value
of the model's tick. -/
opaque replicaServes : Nat → Bool

/-- Bytes of the private pool (R399; log 5): a free value. -/
opaque poolBytes : Nat

/-- Sign of the maximum that `msmx` forms where it is a zero and zeros of both signs are among its operands (R269; log 20): a free
value of the model's tick and the row. -/
opaque zeroSign : Nat → Nat → Bool

/-- The port, among the live ones, that a message is sprayed over or arrives at (R169, R400; log 24): a free value of the model's
tick and the message's sequence number. -/
opaque sprayPort : Nat → Nat

/-- Whether the difference-form path executes its next unit before the dense array does, where both have one (R375; log 26): a free
value of the model's tick. -/
opaque differenceTurn : Nat → Bool

/-- Whether a write of a killed context is performed before the quiesce token returns (R392; log 26): a free value of the model's
tick and the aligned 8 bytes. -/
opaque survives : Nat → Nat → Bool

end Sys2Proof.Config
end

