-- ==== Sys2Proof/Syntax.lean ====
section
/-! DEFINITION. The instructions of the Fjaryar and the steps of its other agents: one constructor for each row of the
opcode table, the steps of the other agents first. The fields of an encoded instruction keep the table's letters and widths;
`g` is the guard. -/

namespace Sys2Proof

/-- An instruction or a step of another agent. -/
inductive Instr where
  /-- A Dzingewin read request checked against windows and page tables and answered with data (R176). -/
  | dzwRead (m : Msg)
  /-- A Dzingewin write request performed inside the context's windows (R176). -/
  | dzwWrite (m : Msg)
  /-- A Dzingewin atomic add performed at sys scope, returning the old value (R168). -/
  | dzwAtomicAdd (m : Msg)
  /-- A Dzingewin compare-and-swap performed at sys scope (R168). -/
  | dzwCas (m : Msg)
  /-- A completion message answering an outstanding request, including the host's acknowledgement of an event (R168). -/
  | dzwCompletion (m : Msg)
  /-- A message with an unknown kind or reserved flag is dropped and answered with status 1 (R167). -/
  | malformedMessage (m : Msg)
  /-- A doorbell write that sets a launch queue's post word (R185). -/
  | postWord (m : Msg)
  /-- A selective acknowledgement of received sequence numbers (R170). -/
  | dzwAcknowledgement (peer : BitVec 128) (seqs : List Nat)
  /-- The sender retransmits missing sequence numbers (R170). -/
  | retransmission (peer : BitVec 128) (seq : Nat)
  /-- An operation to a peer in recovery fails with status 6 when the window ends (R170). -/
  | recoveryWindowExpiry (peer : BitVec 128) (seq : Nat)
  /-- A received priority flow control pause frame pauses transmission on its priority (R166). -/
  | pauseFrame (port : Nat) (classes : Byte)
  /-- A port comes up at 800GBASE-R or goes down, reported to the owner (R165). -/
  | linkStateChange (port : Nat) (up : Bool)
  /-- Management command 0x0001 claiming ownership on a 30 s lease (R173). -/
  | claim (m : Msg)
  /-- Management command 0x0002 renewing the owner's lease (R184). -/
  | renew (m : Msg)
  /-- Management command 0x0003 giving up ownership (R184). -/
  | releaseOwnership (m : Msg)
  /-- Management command 0x0004 naming a successor key with a 5 s grace period (R173). -/
  | nameSuccessor (m : Msg)
  /-- Management command 0x0010 creating a context with its table, share and event ring (R184). -/
  | createContext (m : Msg)
  /-- Management command 0x0011 tearing a context down (R391). -/
  | resetContext (m : Msg)
  /-- Management command 0x0012 resuming a faulted or halted context (R386). -/
  | resumeContext (m : Msg)
  /-- Management command 0x0013 halting a whole context for the debugger (R389). -/
  | haltContext (m : Msg)
  /-- Management command 0x0014 resuming a debug-halted group (R389). -/
  | resumeGroup (m : Msg)
  /-- Management command 0x0015 setting a context's dispatch share (R216). -/
  | setShare (m : Msg)
  /-- Management command 0x0016 setting or removing a memory window (R175). -/
  | setWindow (m : Msg)
  /-- Management command 0x0017 admitting or revoking a host (R175). -/
  | admitHost (m : Msg)
  /-- Management command 0x0018 setting a launch queue's ring base and depth (R162). -/
  | setQueue (m : Msg)
  /-- Management command 0x0019 writing a region register after settling its old range (R299). -/
  | setRegion (m : Msg)
  /-- Management command 0x001A setting a peer table slot (R171). -/
  | setPeer (m : Msg)
  /-- Management command 0x001B writing back, dropping TLB and L1 entries for a range (R286). -/
  | shootdown (m : Msg)
  /-- Management command 0x001C writing physical memory (R184). -/
  | writePhysical (m : Msg)
  /-- Management command 0x001D reading physical memory (R184). -/
  | readPhysical (m : Msg)
  /-- Management command 0x001E loading and mapping an ELF code object (R153). -/
  | loadObject (m : Msg)
  /-- Management command 0x001F answering a page request, resuming or failing held accesses (R102). -/
  | pageReply (m : Msg)
  /-- Management command 0x0020 setting the watchdog window and park limit (R390). -/
  | setWatchdog (m : Msg)
  /-- Management command 0x0021 setting the recovery window (R170). -/
  | setRecoveryWindow (m : Msg)
  /-- Management command 0x0022 setting a port's address and flow control (R166). -/
  | setPort (m : Msg)
  /-- Management command 0x0023 verifying and installing a firmware image (R179). -/
  | updateFirmware (m : Msg)
  /-- Management command 0x0030 returning a port, context, clock or reserved-area record (R400). -/
  | readState (m : Msg)
  /-- Management command 0x0031 returning the violation ring and counter (R176). -/
  | readViolations (m : Msg)
  /-- Management command 0x0032 returning a signed attestation quote (R180). -/
  | attest (m : Msg)
  /-- Management command 0x0033 returning part of a context's event log (R184). -/
  | readEventLog (m : Msg)
  /-- The owner's lease expires and the wafer has no owner (R173). -/
  | leaseLapse
  /-- The 5 s grace for a named successor ends (R173). -/
  | successorGraceExpiry
  /-- Device reset bring-up sequence through to accepting claims (R181). -/
  | bringUp
  /-- The innkeeper lowers or restores the common clock near the power cap (R182). -/
  | clockChange (mhz : Nat)
  /-- The dispatcher copies a posted waybill, advances the take count and checks it (R160). -/
  | waybillTake (ctx queue : Nat)
  /-- A taken waybill's tickets are satisfied and its parameters are read (R215). -/
  | waybillReady (launch : Nat)
  /-- The dispatcher opens the next ready waybill by priority and share rounds (R216). -/
  | openLaunch (launch : Nat)
  /-- A crew of an open launch is placed on a core of its placement set (R217). -/
  | crewPlacement (launch core : Nat)
  /-- A crew is halted at instruction boundaries for pre-emption (R387). -/
  | preemptionHalt (crew : Nat)
  /-- A halted crew's on-core state moves to shadow storage (R387). -/
  | shadowSwap (crew : Nat)
  /-- A pre-empted crew is readmitted and restored (R388). -/
  | crewResume (crew : Nat)
  /-- An aggregator batch closes 2 µs after opening and becomes a waybill (R224). -/
  | aggregatorBatchClose (ctx : Nat)
  /-- The wired-AND tree completes a phase, reloads counters and releases waiters (R221). -/
  | tollgatePhaseCompletion (tree : Nat)
  /-- A group's final exit counts its completion once its engine operations have completed (R130). -/
  | groupCompletion (group : Nat)
  /-- After the last group ends, weir deltas drain, the completion word is written, tickets satisfied and the provisional event
  posted (R228). -/
  | launchCompletion (launch : Nat)
  /-- A live split that ran 1,024 instructions without an acting join is rotated out for a spilled split (R202). -/
  | splitRotation (group : Nat) (slotB : Bool)
  /-- A waiting group's registers are written to the swap area to serve a stalled allocation (R209). -/
  | swapOut (group : Nat)
  /-- A swapped group's registers are restored on wake (R209). -/
  | swapIn (group : Nat)
  /-- A long-latency producer's data arrives and fills its destination lanes (R99). -/
  | loadDataArrival (group tag : Nat)
  /-- Every anchor halves every requester count at the common 4,096-cycle instant (R292). -/
  | countHalving
  /-- An anchor carries out a decided move of a line one hop under a tombstone (R293). -/
  | droverMove (line : Nat)
  /-- An invalidation arrives at a replica and drops it (R295). -/
  | replicaInvalidation (line reticle core : Nat)
  /-- A lodged line is evicted: replicas invalidated, dirty data written, entry freed (R297). -/
  | waferCacheEviction (lines : List Nat)
  /-- A recorded releaser core drains its dirty lines of the context and acknowledges (R340). -/
  | drainDemand (core ctx line group : Nat)
  /-- A drain is acknowledged after its collapse invalidations arrive, completing the waiting release or acquire (R324). -/
  | drainAcknowledgement (core ctx line group : Nat)
  /-- An exclusive grant is recalled, sending dirty bytes to the lodging bank (R235). -/
  | recall (line group : Nat)
  /-- The innkeeper retires a bank in service and rebuilds its entries at a substitute (R298). -/
  | bankRetirement (bank : Nat)
  /-- The anchor grants a core min(free, B/4) of a weir line's crest (R361). -/
  | shareRequest (core ctx line : Nat) (crest : Word)
  /-- A core receives a grant and applies its waiting weir additions (R357). -/
  | shareGrant (core ctx line : Nat) (share : Word)
  /-- The lodging bank adds a run of touched element deltas (R359). -/
  | weirRun (core ctx line : Nat) (isFloat : Bool) (adds : List (Nat × Word)) (ack : Bool)
  /-- The bank acknowledges a spill, letting the core reset its delta line and hold the next addition (R358). -/
  | spillAcknowledgement (core ctx line : Nat)
  /-- A core receives a sluice, spills its delta line and returns its share (R362). -/
  | sluice (core ctx line : Nat)
  /-- The anchor restores a returned share to free and removes the holder (R361). -/
  | returnNotice (core ctx line : Nat)
  /-- The anchor sets a holder's dirty bit again after a drain spill (R361). -/
  | resumeNotice (core ctx line : Nat)
  /-- A holder core spills its weir delta line on a wdrain request (R247). -/
  | drainRequest (core ctx line group : Nat)
  /-- A copy engine executes a queued command unit by unit (R307). -/
  | copyCommandExecute (core : Nat)
  /-- The matrix engine executes a queued operation unit by unit (R262). -/
  | matrixOperationExecute (core : Nat)
  /-- A write, invalidation or eviction of a watched line wakes mwait with reason 0 (R241). -/
  | monitorWake (group reason : Nat)
  /-- An mwait timeout expires with reason 1 (R241). -/
  | mwaitTimeout (group : Nat)
  /-- A watched remote line is re-read every 2 µs and compared (R241). -/
  | remoteWatchPoll (group : Nat)
  /-- An unacknowledged event past the recovery window halts the context (R178). -/
  | eventAckTimeout (ctx : Nat)
  /-- A hung context faults when a watchdog window passes without progress (R390). -/
  | watchdogExpiry (ctx : Nat)
  /-- A context whose groups stay externally parked past the limit faults (R390). -/
  | parkLimitExpiry (ctx : Nat)
  /-- After halted groups' stores are performed, the kind-5 fault event posts (R145). -/
  | faultEventPost (ctx : Nat)
  /-- A consumed UCE or SOFT inside a region restarts the group at %ire after settling its operations (R385). -/
  | idempotentRestart (group : Nat)
  /-- A debug-halted group's engine operations end and its state is exposed (R389). -/
  | debugHaltSettled (group : Nat)
  /-- The reset quiesce token returns, areas are freed and the report is due (R391). -/
  | quiesceTokenReturn (ctx : Nat)
  /-- Dressing pre-empts a core's crews and starts its scan patterns (R393). -/
  | dressingPass (core : Nat)
  /-- After 1.5 ms the scan passes or fails and the crews resume or move (R394). -/
  | dressingResult (core : Nat) (pass : Bool)
  /-- A fetched pattern that is not an instruction (unassigned minor code, nonzero trap-class field, bad register rule) traps
  ILLEGAL precisely, before its guard is read (R46). -/
  | illegalEncoding (word : Word)
  /-- A halfword at the pc cannot be fetched, giving a held translation fault or a precise ADDR, PERM or UCE fetch trap with the
  fetched halfwords in the record (R16). -/
  | instructionFetchFault (cause : Nat) (halfword : DWord) (fetched : Word)
  /-- 16-bit mov: copies vector register b into d in every active lane (R96). -/
  | shortMov (d : BitVec 6) (b : BitVec 5)
  /-- 16-bit add.i32: d := d + b in every active lane, wrapping modulo 2^32 (R96). -/
  | shortAddI32 (d : BitVec 6) (b : BitVec 5)
  /-- 16-bit sub.i32: d := d - b in every active lane (R96). -/
  | shortSubI32 (d : BitVec 6) (b : BitVec 5)
  /-- 16-bit bitwise and of d with b (R96). -/
  | shortAnd (d : BitVec 6) (b : BitVec 5)
  /-- 16-bit bitwise or of d with b (R96). -/
  | shortOr (d : BitVec 6) (b : BitVec 5)
  /-- 16-bit bitwise xor of d with b (R96). -/
  | shortXor (d : BitVec 6) (b : BitVec 5)
  /-- 16-bit shift left of d by b[4:0] (R96). -/
  | shortShl (d : BitVec 6) (b : BitVec 5)
  /-- 16-bit logical shift right of d by b[4:0] (R96). -/
  | shortShrN32 (d : BitVec 6) (b : BitVec 5)
  /-- 16-bit arithmetic shift right of d by b[4:0] (R96). -/
  | shortShrS32 (d : BitVec 6) (b : BitVec 5)
  /-- Writes the sign-extended imm5 into d in every active lane without reading a register (R96). -/
  | movi (d : BitVec 6) (i : BitVec 5)
  /-- 16-bit addi: d := d + sext(imm5) (R96). -/
  | shortAddi (d : BitVec 6) (i : BitVec 5)
  /-- 16-bit shli: d := d << imm5 (R96). -/
  | shortShli (d : BitVec 6) (i : BitVec 5)
  /-- 16-bit FP32 add of b into d under the slot's rounding mode (R96). -/
  | shortFaddF32 (d : BitVec 6) (b : BitVec 5)
  /-- 16-bit FP32 multiply of d by b (R96). -/
  | shortFmulF32 (d : BitVec 6) (b : BitVec 5)
  /-- 16-bit FP32 maximum of d and b (R96). -/
  | shortFmaxF32 (d : BitVec 6) (b : BitVec 5)
  /-- 16-bit FP32 minimum of d and b (R96). -/
  | shortFminF32 (d : BitVec 6) (b : BitVec 5)
  /-- IA add: a + b per acting lane, wrapping (R82). -/
  | addI32 (g : BitVec 3) (d a b : BitVec 6) (x y : BitVec 1)
  /-- IA sub: a - b per acting lane (R82). -/
  | subI32 (g : BitVec 3) (d a b : BitVec 6) (x y : BitVec 1)
  /-- IA mul: low 32 bits of a × b (R82). -/
  | mulI32 (g : BitVec 3) (d a b : BitVec 6) (x y : BitVec 1)
  /-- IA signed high multiply (R82). -/
  | mulhS32 (g : BitVec 3) (d a b : BitVec 6) (x y : BitVec 1)
  /-- IA unsigned high multiply (R82). -/
  | mulhN32 (g : BitVec 3) (d a b : BitVec 6) (x y : BitVec 1)
  /-- IA signed minimum (R82). -/
  | minS32 (g : BitVec 3) (d a b : BitVec 6) (x y : BitVec 1)
  /-- IA signed maximum (R82). -/
  | maxS32 (g : BitVec 3) (d a b : BitVec 6) (x y : BitVec 1)
  /-- IA multiply-add: d + a × b, reading d as a source (R82). -/
  | madI32 (g : BitVec 3) (d a b : BitVec 6) (x y : BitVec 1)
  /-- IB bitwise and (R82). -/
  | and (g : BitVec 3) (d a b : BitVec 6) (x y : BitVec 1)
  /-- IB bitwise or (R82). -/
  | or (g : BitVec 3) (d a b : BitVec 6) (x y : BitVec 1)
  /-- IB bitwise xor (R82). -/
  | xor (g : BitVec 3) (d a b : BitVec 6) (x y : BitVec 1)
  /-- IB shift left by b[4:0] (R82). -/
  | shl (g : BitVec 3) (d a b : BitVec 6) (x y : BitVec 1)
  /-- IB logical shift right (R82). -/
  | shrN32 (g : BitVec 3) (d a b : BitVec 6) (x y : BitVec 1)
  /-- IB arithmetic shift right (R82). -/
  | shrS32 (g : BitVec 3) (d a b : BitVec 6) (x y : BitVec 1)
  /-- IB unsigned minimum (R82). -/
  | minN32 (g : BitVec 3) (d a b : BitVec 6) (x y : BitVec 1)
  /-- IB unsigned maximum (R82). -/
  | maxN32 (g : BitVec 3) (d a b : BitVec 6) (x y : BitVec 1)
  /-- IC add of a scalar's low 32 bits to each lane (R82). -/
  | addI32Ic (g : BitVec 3) (d a b : BitVec 6) (x : BitVec 1)
  /-- IC subtract of a scalar from each lane (a - s) (R82). -/
  | subI32Ic (g : BitVec 3) (d a b : BitVec 6) (x : BitVec 1)
  /-- IC multiply by a scalar (R82). -/
  | mulI32Ic (g : BitVec 3) (d a b : BitVec 6) (x : BitVec 1)
  /-- IC bitwise and with a scalar (R82). -/
  | andIc (g : BitVec 3) (d a b : BitVec 6) (x : BitVec 1)
  /-- IC bitwise or with a scalar (R82). -/
  | orIc (g : BitVec 3) (d a b : BitVec 6) (x : BitVec 1)
  /-- IC shift left by a scalar count (R82). -/
  | shlIc (g : BitVec 3) (d a b : BitVec 6) (x : BitVec 1)
  /-- IC multiply-add with a scalar multiplier (R82). -/
  | madI32Ic (g : BitVec 3) (d a b : BitVec 6) (x : BitVec 1)
  /-- Writes the 64-bit sum of a scalar and the zero-extended lane value to a register pair (R83). -/
  | addw (g : BitVec 3) (d a b : BitVec 6) (x : BitVec 1)
  /-- FA FP32 add under the slot's rounding (R85). -/
  | faddF32 (g : BitVec 3) (d a b : BitVec 6) (x y : BitVec 1)
  /-- FA FP32 subtract (R85). -/
  | fsubF32 (g : BitVec 3) (d a b : BitVec 6) (x y : BitVec 1)
  /-- FA FP32 multiply (R85). -/
  | fmulF32 (g : BitVec 3) (d a b : BitVec 6) (x y : BitVec 1)
  /-- FA fused multiply-add a × b + d with one rounding (R85). -/
  | ffmaF32 (g : BitVec 3) (d a b : BitVec 6) (x y : BitVec 1)
  /-- FA fused d - a × b with one rounding (R85). -/
  | ffmsF32 (g : BitVec 3) (d a b : BitVec 6) (x y : BitVec 1)
  /-- FA FP32 minimum with NaN-dropping rules (R86). -/
  | fminF32 (g : BitVec 3) (d a b : BitVec 6) (x y : BitVec 1)
  /-- FA FP32 maximum with NaN-dropping rules (R86). -/
  | fmaxF32 (g : BitVec 3) (d a b : BitVec 6) (x y : BitVec 1)
  /-- Converts a and b to BF16 with RNE and packs them into one lane word (R88). -/
  | packBf16x2 (g : BitVec 3) (d a b : BitVec 6) (x y : BitVec 1)
  /-- FB FP32 add of a scalar operand (R85). -/
  | faddF32Fb (g : BitVec 3) (d a b : BitVec 6) (x : BitVec 1)
  /-- FB FP32 subtract of a scalar operand (R85). -/
  | fsubF32Fb (g : BitVec 3) (d a b : BitVec 6) (x : BitVec 1)
  /-- FB FP32 multiply by a scalar operand (R85). -/
  | fmulF32Fb (g : BitVec 3) (d a b : BitVec 6) (x : BitVec 1)
  /-- FB fused multiply-add with a scalar multiplier (R85). -/
  | ffmaF32Fb (g : BitVec 3) (d a b : BitVec 6) (x : BitVec 1)
  /-- FB fused multiply-subtract with a scalar multiplier (R85). -/
  | ffmsF32Fb (g : BitVec 3) (d a b : BitVec 6) (x : BitVec 1)
  /-- FB FP32 minimum with a scalar operand (R86). -/
  | fminF32Fb (g : BitVec 3) (d a b : BitVec 6) (x : BitVec 1)
  /-- FB FP32 maximum with a scalar operand (R86). -/
  | fmaxF32Fb (g : BitVec 3) (d a b : BitVec 6) (x : BitVec 1)
  /-- Computes a × 2^n with n the clamped truncation of a scalar FP32 (R87). -/
  | fscaleF32 (g : BitVec 3) (d a b : BitVec 6) (x : BitVec 1)
  /-- VU mov: copies a bit for bit (R90). -/
  | mov (g : BitVec 3) (d a : BitVec 6) (x : BitVec 1)
  /-- VU bitwise complement (R90). -/
  | not (g : BitVec 3) (d a : BitVec 6) (x : BitVec 1)
  /-- VU integer negate (R90). -/
  | negI32 (g : BitVec 3) (d a : BitVec 6) (x : BitVec 1)
  /-- VU integer absolute value (R90). -/
  | absI32 (g : BitVec 3) (d a : BitVec 6) (x : BitVec 1)
  /-- VU population count (R90). -/
  | popc (g : BitVec 3) (d a : BitVec 6) (x : BitVec 1)
  /-- VU count leading zeros (R90). -/
  | clz (g : BitVec 3) (d a : BitVec 6) (x : BitVec 1)
  /-- VU bit reverse (R90). -/
  | brev (g : BitVec 3) (d a : BitVec 6) (x : BitVec 1)
  /-- VU sign-extend the low 8 bits (R90). -/
  | sext8 (g : BitVec 3) (d a : BitVec 6) (x : BitVec 1)
  /-- VU sign-extend the low 16 bits (R90). -/
  | sext16 (g : BitVec 3) (d a : BitVec 6) (x : BitVec 1)
  /-- VU FP32 absolute value (R91). -/
  | fabs (g : BitVec 3) (d a : BitVec 6) (x : BitVec 1)
  /-- VU FP32 negate (R91). -/
  | fneg (g : BitVec 3) (d a : BitVec 6) (x : BitVec 1)
  /-- VU correctly rounded reciprocal (R92). -/
  | frcp (g : BitVec 3) (d a : BitVec 6) (x : BitVec 1)
  /-- VU reciprocal square root, RNE (R92). -/
  | frsq (g : BitVec 3) (d a : BitVec 6) (x : BitVec 1)
  /-- VU square root (R92). -/
  | fsqrt (g : BitVec 3) (d a : BitVec 6) (x : BitVec 1)
  /-- VU base-2 exponential, RNE (R92). -/
  | fexp2 (g : BitVec 3) (d a : BitVec 6) (x : BitVec 1)
  /-- VU base-2 logarithm, RNE (R92). -/
  | flog2 (g : BitVec 3) (d a : BitVec 6) (x : BitVec 1)
  /-- VU sin(2πa), RNE (R92). -/
  | fsin (g : BitVec 3) (d a : BitVec 6) (x : BitVec 1)
  /-- VU cos(2πa), RNE (R92). -/
  | fcos (g : BitVec 3) (d a : BitVec 6) (x : BitVec 1)
  /-- VU hyperbolic tangent (R92). -/
  | ftanh (g : BitVec 3) (d a : BitVec 6) (x : BitVec 1)
  /-- VU floor to integer (R91). -/
  | ffloor (g : BitVec 3) (d a : BitVec 6) (x : BitVec 1)
  /-- VU ceiling to integer (R91). -/
  | fceil (g : BitVec 3) (d a : BitVec 6) (x : BitVec 1)
  /-- VU round toward zero to integer (R91). -/
  | ftrunc (g : BitVec 3) (d a : BitVec 6) (x : BitVec 1)
  /-- VU round to nearest integer, ties to even (R91). -/
  | frint (g : BitVec 3) (d a : BitVec 6) (x : BitVec 1)
  /-- VU fractional part a - floor(a) (R91). -/
  | ffract (g : BitVec 3) (d a : BitVec 6) (x : BitVec 1)
  /-- Converts a signed integer to FP32, RNE (R94). -/
  | cvtF32S32 (g : BitVec 3) (d a : BitVec 6) (x : BitVec 1)
  /-- Converts an unsigned integer to FP32, RNE (R94). -/
  | cvtF32N32 (g : BitVec 3) (d a : BitVec 6) (x : BitVec 1)
  /-- Converts FP32 to signed integer toward zero, saturating (R67). -/
  | cvtS32F32Rz (g : BitVec 3) (d a : BitVec 6) (x : BitVec 1)
  /-- Converts FP32 to signed integer to nearest even, saturating (R67). -/
  | cvtS32F32Rn (g : BitVec 3) (d a : BitVec 6) (x : BitVec 1)
  /-- Converts FP32 to unsigned integer toward zero, saturating (R67). -/
  | cvtN32F32Rz (g : BitVec 3) (d a : BitVec 6) (x : BitVec 1)
  /-- Narrows FP32 to BF16 with RNE and saturation (R65). -/
  | cvtBf16F32 (g : BitVec 3) (d a : BitVec 6) (x : BitVec 1)
  /-- Widens the low BF16 half to FP32 (R66). -/
  | cvtF32Bf16Lo (g : BitVec 3) (d a : BitVec 6) (x : BitVec 1)
  /-- Widens the high BF16 half to FP32 (R66). -/
  | cvtF32Bf16Hi (g : BitVec 3) (d a : BitVec 6) (x : BitVec 1)
  /-- Narrows FP32 to F16 (R65). -/
  | cvtF16F32 (g : BitVec 3) (d a : BitVec 6) (x : BitVec 1)
  /-- Widens the low F16 half to FP32 (R66). -/
  | cvtF32F16Lo (g : BitVec 3) (d a : BitVec 6) (x : BitVec 1)
  /-- Widens the high F16 half to FP32 (R66). -/
  | cvtF32F16Hi (g : BitVec 3) (d a : BitVec 6) (x : BitVec 1)
  /-- Narrows FP32 to E4M3 (R65). -/
  | cvtE4m3F32 (g : BitVec 3) (d a : BitVec 6) (x : BitVec 1)
  /-- Widens E4M3 to FP32 (R66). -/
  | cvtF32E4m3 (g : BitVec 3) (d a : BitVec 6) (x : BitVec 1)
  /-- Narrows FP32 to E5M2 (R65). -/
  | cvtE5m2F32 (g : BitVec 3) (d a : BitVec 6) (x : BitVec 1)
  /-- Widens E5M2 to FP32 (R66). -/
  | cvtF32E5m2 (g : BitVec 3) (d a : BitVec 6) (x : BitVec 1)
  /-- Clamps an FP32 value to [+0, 1.0] (R91). -/
  | fsat (g : BitVec 3) (d a : BitVec 6) (x : BitVec 1)
  /-- Signed 32-bit lane compare, combining the result into a predicate pair per ctype (R123). -/
  | cmps (g p q : BitVec 3) (a b : BitVec 6) (t : BitVec 3) (c : BitVec 2)
  /-- Unsigned 32-bit lane compare into a predicate pair (R123). -/
  | cmpn (g p q : BitVec 3) (a b : BitVec 6) (t : BitVec 3) (c : BitVec 2)
  /-- FP32 lane compare into a predicate pair (R123). -/
  | cmpf (g p q : BitVec 3) (a b : BitVec 6) (t : BitVec 3) (c : BitVec 2)
  /-- 64-bit scalar compare into a group-predicate pair (R123). -/
  | cmpq (g p q : BitVec 3) (a b : BitVec 6) (t : BitVec 3) (c : BitVec 2)
  /-- VI add of a sign-extended imm8 (R82). -/
  | addi (g : BitVec 3) (d a : BitVec 6) (i : BitVec 8)
  /-- VI and with a zero-extended imm8 (R82). -/
  | andi (g : BitVec 3) (d a : BitVec 6) (i : BitVec 8)
  /-- VI or with a zero-extended imm8 (R82). -/
  | ori (g : BitVec 3) (d a : BitVec 6) (i : BitVec 8)
  /-- VI xor with a zero-extended imm8 (R82). -/
  | xori (g : BitVec 3) (d a : BitVec 6) (i : BitVec 8)
  /-- VI shift left by imm8[4:0] (R82). -/
  | shli (g : BitVec 3) (d a : BitVec 6) (i : BitVec 5)
  /-- VI logical shift right by an immediate (R82). -/
  | shriN32 (g : BitVec 3) (d a : BitVec 6) (i : BitVec 5)
  /-- VI arithmetic shift right by an immediate (R82). -/
  | shriS32 (g : BitVec 3) (d a : BitVec 6) (i : BitVec 5)
  /-- VI multiply by a sign-extended imm8 (R82). -/
  | muli (g : BitVec 3) (d a : BitVec 6) (i : BitVec 8)
  /-- Scalar 64-bit add (R113). -/
  | addSr (g : BitVec 3) (d a b : BitVec 6)
  /-- Scalar 64-bit subtract (R113). -/
  | subSr (g : BitVec 3) (d a b : BitVec 6)
  /-- Scalar 64-bit multiply, low half (R113). -/
  | mulSr (g : BitVec 3) (d a b : BitVec 6)
  /-- Scalar signed high multiply (R113). -/
  | mulhSSr (g : BitVec 3) (d a b : BitVec 6)
  /-- Scalar unsigned high multiply (R113). -/
  | mulhNSr (g : BitVec 3) (d a b : BitVec 6)
  /-- Scalar bitwise and (R113). -/
  | andSr (g : BitVec 3) (d a b : BitVec 6)
  /-- Scalar bitwise or (R113). -/
  | orSr (g : BitVec 3) (d a b : BitVec 6)
  /-- Scalar bitwise xor (R113). -/
  | xorSr (g : BitVec 3) (d a b : BitVec 6)
  /-- Scalar a & ~b (R113). -/
  | andnSr (g : BitVec 3) (d a b : BitVec 6)
  /-- Scalar shift left by b[5:0] (R113). -/
  | shlSr (g : BitVec 3) (d a b : BitVec 6)
  /-- Scalar logical shift right (R113). -/
  | shrNSr (g : BitVec 3) (d a b : BitVec 6)
  /-- Scalar arithmetic shift right (R113). -/
  | shrSSr (g : BitVec 3) (d a b : BitVec 6)
  /-- Scalar signed minimum (R113). -/
  | minSSr (g : BitVec 3) (d a b : BitVec 6)
  /-- Scalar signed maximum (R113). -/
  | maxSSr (g : BitVec 3) (d a b : BitVec 6)
  /-- Scalar unsigned minimum (R113). -/
  | minNSr (g : BitVec 3) (d a b : BitVec 6)
  /-- Scalar unsigned maximum (R113). -/
  | maxNSr (g : BitVec 3) (d a b : BitVec 6)
  /-- Scalar signed division toward zero, never trapping (R114). -/
  | divSSr (g : BitVec 3) (d a b : BitVec 6)
  /-- Scalar unsigned division (R114). -/
  | divNSr (g : BitVec 3) (d a b : BitVec 6)
  /-- Scalar signed remainder (R114). -/
  | remSSr (g : BitVec 3) (d a b : BitVec 6)
  /-- Scalar unsigned remainder (R114). -/
  | remNSr (g : BitVec 3) (d a b : BitVec 6)
  /-- Scalar count leading zeros (R113). -/
  | clzSr (g : BitVec 3) (d a : BitVec 6)
  /-- Scalar population count (R113). -/
  | popcSr (g : BitVec 3) (d a : BitVec 6)
  /-- Scalar move (R113). -/
  | movSr (g : BitVec 3) (d a : BitVec 6)
  /-- Extracts a bit field of a scalar, zero- or sign-extended (R115). -/
  | bfx (g : BitVec 3) (d a b : BitVec 6)
  /-- Scalar add of a sign-extended imm8 (R116). -/
  | addiSi (g : BitVec 3) (d a : BitVec 6) (i : BitVec 8)
  /-- Scalar and with an immediate (R116). -/
  | andiSi (g : BitVec 3) (d a : BitVec 6) (i : BitVec 8)
  /-- Scalar or with an immediate (R116). -/
  | oriSi (g : BitVec 3) (d a : BitVec 6) (i : BitVec 8)
  /-- Scalar xor with an immediate (R116). -/
  | xoriSi (g : BitVec 3) (d a : BitVec 6) (i : BitVec 8)
  /-- Scalar shift left by imm8[5:0] (R116). -/
  | shliSi (g : BitVec 3) (d a i : BitVec 6)
  /-- Scalar logical shift right by an immediate (R116). -/
  | shriNSi (g : BitVec 3) (d a i : BitVec 6)
  /-- Scalar arithmetic shift right by an immediate (R116). -/
  | shriSSi (g : BitVec 3) (d a i : BitVec 6)
  /-- Scalar multiply by a sign-extended immediate (R116). -/
  | muliSi (g : BitVec 3) (d a : BitVec 6) (i : BitVec 8)
  /-- Loads a sign-extended imm15 into a scalar (R117). -/
  | li (g : BitVec 3) (d : BitVec 6) (i : BitVec 15)
  /-- Shifts a scalar left by 15 and ors in imm15 (R117). -/
  | lis (g : BitVec 3) (d : BitVec 6) (i : BitVec 15)
  /-- Adds sext(imm15) << 15 to a scalar (R117). -/
  | addis (g : BitVec 3) (d : BitVec 6) (i : BitVec 15)
  /-- Writes a scalar's low 32 bits into every acting lane (R118). -/
  | bcast (g : BitVec 3) (d a : BitVec 6)
  /-- Reads one lane of a vector register into a scalar, marking it empty until the value arrives (R119). -/
  | rdlane (g : BitVec 3) (d a b : BitVec 6) (x : BitVec 1)
  /-- Writes a scalar into one named lane of a vector register (R118). -/
  | wrlane (g : BitVec 3) (d a b : BitVec 6)
  /-- Lane shuffle by index from a vector register (R118). -/
  | shfl (g : BitVec 3) (d a b : BitVec 6) (x y : BitVec 1)
  /-- Lane shuffle by xor of the lane index (R118). -/
  | shflX (g : BitVec 3) (d a b : BitVec 6) (x y : BitVec 1)
  /-- Collects a lane predicate of the active lanes into a scalar mask (R118). -/
  | ballot (g : BitVec 3) (d : BitVec 6) (a : BitVec 3)
  /-- Exact 64-bit sum of the active lanes' signed values into a scalar (R120). -/
  | redi (g : BitVec 3) (d a : BitVec 6) (x : BitVec 1)
  /-- FP32 sum over a fixed width-dependent tree into a scalar (R120). -/
  | redf (g : BitVec 3) (d a : BitVec 6) (x : BitVec 1)
  /-- Selects a or b per lane by a selector predicate (R95). -/
  | sel (g : BitVec 3) (d a b : BitVec 6) (x y : BitVec 1) (s : BitVec 3)
  /-- Branch on a lane predicate that must be uniform over active lanes, else BRDIV (R124). -/
  | braP (g : BitVec 3) (o : BitVec 22)
  /-- Branch on a group predicate (R124). -/
  | braC (g : BitVec 3) (o : BitVec 22)
  /-- Splits the executing split by a predicate, pushing a rejoin record (R126). -/
  | brx (g : BitVec 3) (o : BitVec 12) (j : BitVec 11)
  /-- Marks arrival at a rejoin point and reunites the halves when the record is complete (R128). -/
  | join
  /-- Jumps to the address in a scalar; ends handler mode (R125). -/
  | jmpr (g : BitVec 3) (a : BitVec 6)
  /-- Calls the address in a scalar, writing the return address to s62 (R125). -/
  | callr (g : BitVec 3) (a : BitVec 6)
  /-- Returns to the address in s62 (R125). -/
  | ret (g : BitVec 3)
  /-- Register form of brx with target and rejoin taken from scalars (R126). -/
  | brxr (g : BitVec 3) (a b : BitVec 6)
  /-- Ends the acting lanes, performing their outstanding stores at the named scope (R130). -/
  | exit (g s : BitVec 3)
  /-- Traps with cause BRK and the immediate code (R131). -/
  | trap (g : BitVec 3) (i : BitVec 8)
  /-- Moves the split behind every other ready split of its priority (R132). -/
  | yield (g : BitVec 3) (i : BitVec 8)
  /-- PC-relative call, writing the return address to s62 (R125). -/
  | call (g : BitVec 3) (o : BitVec 22)
  /-- Global load of an unsigned byte (R99). -/
  | ldgN8 (g : BitVec 3) (p : BitVec 2) (d o : BitVec 6) (s : BitVec 5) (r : BitVec 1)
  /-- Global load of a signed byte (R99). -/
  | ldgS8 (g : BitVec 3) (p : BitVec 2) (d o : BitVec 6) (s : BitVec 5) (r : BitVec 1)
  /-- Global load of an unsigned halfword (R99). -/
  | ldgN16 (g : BitVec 3) (p : BitVec 2) (d o : BitVec 6) (s : BitVec 5) (r : BitVec 1)
  /-- Global load of a signed halfword (R99). -/
  | ldgS16 (g : BitVec 3) (p : BitVec 2) (d o : BitVec 6) (s : BitVec 5) (r : BitVec 1)
  /-- Global load of 32 bits per lane (R99). -/
  | ldgB32 (g : BitVec 3) (p : BitVec 2) (d o : BitVec 6) (s : BitVec 5) (r : BitVec 1)
  /-- Global load of 64 bits into a register pair (R99). -/
  | ldgB64 (g : BitVec 3) (p : BitVec 2) (d o : BitVec 6) (s : BitVec 5) (r : BitVec 1)
  /-- Global load of 128 bits into a register quad (R99). -/
  | ldgB128 (g : BitVec 3) (p : BitVec 2) (d o : BitVec 6) (s : BitVec 5) (r : BitVec 1)
  /-- Global store of a byte per lane (R100). -/
  | stgB8 (g : BitVec 3) (p : BitVec 2) (d o : BitVec 6) (s : BitVec 5) (r : BitVec 1)
  /-- Global store of a halfword per lane (R100). -/
  | stgB16 (g : BitVec 3) (p : BitVec 2) (d o : BitVec 6) (s : BitVec 5) (r : BitVec 1)
  /-- Global store of 32 bits per lane (R100). -/
  | stgB32 (g : BitVec 3) (p : BitVec 2) (d o : BitVec 6) (s : BitVec 5) (r : BitVec 1)
  /-- Global store of a register pair per lane (R100). -/
  | stgB64 (g : BitVec 3) (p : BitVec 2) (d o : BitVec 6) (s : BitVec 5) (r : BitVec 1)
  /-- Global store of a register quad per lane (R100). -/
  | stgB128 (g : BitVec 3) (p : BitVec 2) (d o : BitVec 6) (s : BitVec 5) (r : BitVec 1)
  /-- Scratch load of an unsigned byte (R99). -/
  | ldsN8 (g : BitVec 3) (d a : BitVec 6) (i : BitVec 8)
  /-- Scratch load of a signed byte (R99). -/
  | ldsS8 (g : BitVec 3) (d a : BitVec 6) (i : BitVec 8)
  /-- Scratch load of an unsigned halfword (R99). -/
  | ldsN16 (g : BitVec 3) (d a : BitVec 6) (i : BitVec 8)
  /-- Scratch load of a signed halfword (R99). -/
  | ldsS16 (g : BitVec 3) (d a : BitVec 6) (i : BitVec 8)
  /-- Scratch load of 32 bits (R99). -/
  | ldsB32 (g : BitVec 3) (d a : BitVec 6) (i : BitVec 8)
  /-- Scratch load of 64 bits (R99). -/
  | ldsB64 (g : BitVec 3) (d a : BitVec 6) (i : BitVec 8)
  /-- Scratch load of 128 bits (R99). -/
  | ldsB128 (g : BitVec 3) (d a : BitVec 6) (i : BitVec 8)
  /-- Scratch store of a byte (R100). -/
  | stsB8 (g : BitVec 3) (d a : BitVec 6) (i : BitVec 8)
  /-- Scratch store of a halfword (R100). -/
  | stsB16 (g : BitVec 3) (d a : BitVec 6) (i : BitVec 8)
  /-- Scratch store of 32 bits (R100). -/
  | stsB32 (g : BitVec 3) (d a : BitVec 6) (i : BitVec 8)
  /-- Scratch store of 64 bits (R100). -/
  | stsB64 (g : BitVec 3) (d a : BitVec 6) (i : BitVec 8)
  /-- Scratch store of 128 bits (R100). -/
  | stsB128 (g : BitVec 3) (d a : BitVec 6) (i : BitVec 8)
  /-- Private-space load of 32 bits (R109). -/
  | ldpB32 (g : BitVec 3) (d a : BitVec 6) (i : BitVec 8)
  /-- Private-space load of 64 bits (R109). -/
  | ldpB64 (g : BitVec 3) (d a : BitVec 6) (i : BitVec 8)
  /-- Private-space load of 128 bits (R109). -/
  | ldpB128 (g : BitVec 3) (d a : BitVec 6) (i : BitVec 8)
  /-- Private-space store of 32 bits (R109). -/
  | stpB32 (g : BitVec 3) (d a : BitVec 6) (i : BitVec 8)
  /-- Private-space store of 64 bits (R109). -/
  | stpB64 (g : BitVec 3) (d a : BitVec 6) (i : BitVec 8)
  /-- Private-space store of 128 bits (R109). -/
  | stpB128 (g : BitVec 3) (d a : BitVec 6) (i : BitVec 8)
  /-- Global atomic add (red.add when nr = 1), lanes on one address performed in ascending order (R231). -/
  | atomAdd (g : BitVec 3) (d a : BitVec 6) (o : BitVec 2) (s : BitVec 3) (n w : BitVec 1)
  /-- Global atomic signed minimum (R231). -/
  | atomMinS (g : BitVec 3) (d a : BitVec 6) (o : BitVec 2) (s : BitVec 3) (n w : BitVec 1)
  /-- Global atomic signed maximum (R231). -/
  | atomMaxS (g : BitVec 3) (d a : BitVec 6) (o : BitVec 2) (s : BitVec 3) (n w : BitVec 1)
  /-- Global atomic unsigned minimum (R231). -/
  | atomMinN (g : BitVec 3) (d a : BitVec 6) (o : BitVec 2) (s : BitVec 3) (n w : BitVec 1)
  /-- Global atomic unsigned maximum (R231). -/
  | atomMaxN (g : BitVec 3) (d a : BitVec 6) (o : BitVec 2) (s : BitVec 3) (n w : BitVec 1)
  /-- Global atomic and (R231). -/
  | atomAnd (g : BitVec 3) (d a : BitVec 6) (o : BitVec 2) (s : BitVec 3) (n w : BitVec 1)
  /-- Global atomic or (R231). -/
  | atomOr (g : BitVec 3) (d a : BitVec 6) (o : BitVec 2) (s : BitVec 3) (n w : BitVec 1)
  /-- Global atomic xor (R231). -/
  | atomXor (g : BitVec 3) (d a : BitVec 6) (o : BitVec 2) (s : BitVec 3) (n w : BitVec 1)
  /-- Global atomic exchange (R231). -/
  | atomXchg (g : BitVec 3) (d a : BitVec 6) (o : BitVec 2) (s : BitVec 3) (n w : BitVec 1)
  /-- Global compare-and-swap, needing write permission whether or not it succeeds (R232). -/
  | atomCas (g : BitVec 3) (d a : BitVec 6) (o : BitVec 2) (s : BitVec 3) (n w : BitVec 1)
  /-- Global FP32 atomic add with RNE; the weir path when it is a reduction on a weir line (R231). -/
  | atomFaddF32 (g : BitVec 3) (d a : BitVec 6) (o : BitVec 2) (s : BitVec 3) (n : BitVec 1)
  /-- Global FP32 atomic minimum (R231). -/
  | atomFminF32 (g : BitVec 3) (d a : BitVec 6) (o : BitVec 2) (s : BitVec 3) (n : BitVec 1)
  /-- Global FP32 atomic maximum (R231). -/
  | atomFmaxF32 (g : BitVec 3) (d a : BitVec 6) (o : BitVec 2) (s : BitVec 3) (n : BitVec 1)
  /-- Global atomic load, with acquire drain demands at ret or wider (R236). -/
  | atomLd (g : BitVec 3) (d a : BitVec 6) (o : BitVec 2) (s : BitVec 3) (w : BitVec 1)
  /-- Global atomic store, recording a releaser for a lazy release (R236). -/
  | atomSt (g : BitVec 3) (d a : BitVec 6) (o : BitVec 2) (s : BitVec 3) (n w : BitVec 1)
  /-- Scratch atomic add (R237). -/
  | atomsAdd (g : BitVec 3) (d a : BitVec 6) (o : BitVec 2) (s : BitVec 3) (n w : BitVec 1)
  /-- Scratch atomic signed minimum (R237). -/
  | atomsMinS (g : BitVec 3) (d a : BitVec 6) (o : BitVec 2) (s : BitVec 3) (n w : BitVec 1)
  /-- Scratch atomic signed maximum (R237). -/
  | atomsMaxS (g : BitVec 3) (d a : BitVec 6) (o : BitVec 2) (s : BitVec 3) (n w : BitVec 1)
  /-- Scratch atomic unsigned minimum (R237). -/
  | atomsMinN (g : BitVec 3) (d a : BitVec 6) (o : BitVec 2) (s : BitVec 3) (n w : BitVec 1)
  /-- Scratch atomic unsigned maximum (R237). -/
  | atomsMaxN (g : BitVec 3) (d a : BitVec 6) (o : BitVec 2) (s : BitVec 3) (n w : BitVec 1)
  /-- Scratch atomic and (R237). -/
  | atomsAnd (g : BitVec 3) (d a : BitVec 6) (o : BitVec 2) (s : BitVec 3) (n w : BitVec 1)
  /-- Scratch atomic or (R237). -/
  | atomsOr (g : BitVec 3) (d a : BitVec 6) (o : BitVec 2) (s : BitVec 3) (n w : BitVec 1)
  /-- Scratch atomic xor (R237). -/
  | atomsXor (g : BitVec 3) (d a : BitVec 6) (o : BitVec 2) (s : BitVec 3) (n w : BitVec 1)
  /-- Scratch atomic exchange (R237). -/
  | atomsXchg (g : BitVec 3) (d a : BitVec 6) (o : BitVec 2) (s : BitVec 3) (n w : BitVec 1)
  /-- Scratch compare-and-swap (R237). -/
  | atomsCas (g : BitVec 3) (d a : BitVec 6) (o : BitVec 2) (s : BitVec 3) (n w : BitVec 1)
  /-- Scratch FP32 atomic add (R237). -/
  | atomsFaddF32 (g : BitVec 3) (d a : BitVec 6) (o : BitVec 2) (s : BitVec 3) (n : BitVec 1)
  /-- Scratch FP32 atomic minimum (R237). -/
  | atomsFminF32 (g : BitVec 3) (d a : BitVec 6) (o : BitVec 2) (s : BitVec 3) (n : BitVec 1)
  /-- Scratch FP32 atomic maximum (R237). -/
  | atomsFmaxF32 (g : BitVec 3) (d a : BitVec 6) (o : BitVec 2) (s : BitVec 3) (n : BitVec 1)
  /-- Scratch atomic load (R237). -/
  | atomsLd (g : BitVec 3) (d a : BitVec 6) (o : BitVec 2) (s : BitVec 3) (w : BitVec 1)
  /-- Scratch atomic store (R237). -/
  | atomsSt (g : BitVec 3) (d a : BitVec 6) (o : BitVec 2) (s : BitVec 3) (n w : BitVec 1)
  /-- Range fence ordering and, at ret or wider, draining or invalidating L1 lines in its range (R240). -/
  | fence (g : BitVec 3) (a b : BitVec 6) (o : BitVec 2) (s : BitVec 3) (k : BitVec 2)
  /-- Arms a watch on a global line (R241). -/
  | marm (g : BitVec 3) (a : BitVec 6)
  /-- Sleeps until the watched line is written, a timeout passes or the watch is lost (R241). -/
  | mwait (g : BitVec 3) (a b : BitVec 6)
  /-- Closes and numbers the group's open copy batch (R242). -/
  | bsealCopy (g : BitVec 3) (a : BitVec 6)
  /-- Closes and numbers the group's open matrix batch (R242). -/
  | bsealMat (g : BitVec 3) (a : BitVec 6)
  /-- Sleeps until copy batches up to a number complete, trapping on failures under ASYNCTRAP (R243). -/
  | bwaitCopy (g : BitVec 3) (a : BitVec 6)
  /-- Sleeps until matrix batches up to a number complete (R243). -/
  | bwaitMat (g : BitVec 3) (a : BitVec 6)
  /-- Arrives at a crew barrier and sleeps until the phase completes (R244). -/
  | bar (g : BitVec 3) (b : BitVec 6) (k : BitVec 3)
  /-- Masked lane synchronisation within the group (R245). -/
  | barLanes (g : BitVec 3) (a : BitVec 6)
  /-- Arrives at the tollgate and waits for the phase (R221). -/
  | tgateArriveWait (g : BitVec 3)
  /-- Arrives at the tollgate without waiting (R221). -/
  | tgateArrive (g : BitVec 3)
  /-- Waits for the next tollgate phase completion (R221). -/
  | tgateWait (g : BitVec 3)
  /-- Spills weir delta lines in a range from the holders its scope reaches (R247). -/
  | wdrain (g : BitVec 3) (a b : BitVec 6) (s : BitVec 3)
  /-- Appends to a crew queue, sleeping while it is full; a crew-scope release (R249). -/
  | qpush (g : BitVec 3) (q : BitVec 4) (d : BitVec 6)
  /-- Removes the oldest entry, sleeping while empty; a crew-scope acquire (R249). -/
  | qpop (g : BitVec 3) (q : BitVec 4) (d : BitVec 6)
  /-- Tries to push, reporting success in a group predicate (R249). -/
  | qtpush (g : BitVec 3) (q : BitVec 4) (d : BitVec 6) (c : BitVec 3)
  /-- Tries to pop, reporting success in a group predicate (R249). -/
  | qtpop (g : BitVec 3) (q : BitVec 4) (d : BitVec 6) (c : BitVec 3)
  /-- Initialises a queue's base and depth and empties it (R250). -/
  | qinit (g : BitVec 3) (q : BitVec 4) (d : BitVec 6) (i : BitVec 7)
  /-- Returns a queue's occupancy and free space (R249). -/
  | qstat (g : BitVec 3) (q : BitVec 4) (d : BitVec 6)
  /-- Queues a plain copy command (R305). -/
  | xcpCopy (g : BitVec 3) (a b : BitVec 6) (e : BitVec 4) (r : BitVec 2)
  /-- Queues a strided multi-dimensional copy (R312). -/
  | xcpStrided (g : BitVec 3) (a b : BitVec 6) (e : BitVec 4) (r : BitVec 2)
  /-- Queues a copy with scratch swizzle modes (R313). -/
  | xcpSwizzle (g : BitVec 3) (a b : BitVec 6) (e : BitVec 4) (r : BitVec 2)
  /-- Queues a codebook expansion to BF16 (R314). -/
  | xcpCbexp (g : BitVec 3) (a b : BitVec 6) (e : BitVec 4) (r : BitVec 2)
  /-- Queues a TXB4 compression (R315). -/
  | xcpTxb4c (g : BitVec 3) (a b : BitVec 6) (e : BitVec 4) (r : BitVec 2)
  /-- Queues a TXB4 expansion (R315). -/
  | xcpTxb4x (g : BitVec 3) (a b : BitVec 6) (e : BitVec 4) (r : BitVec 2)
  /-- Queues a sign-bitmap pack (R316). -/
  | xcpSgnpk (g : BitVec 3) (a b : BitVec 6) (e : BitVec 4) (r : BitVec 2)
  /-- Queues a sign-bitmap unpack (R316). -/
  | xcpSgnun (g : BitVec 3) (a b : BitVec 6) (e : BitVec 4) (r : BitVec 2)
  /-- Queues a sheaf encode (R318). -/
  | xcpShenc (g : BitVec 3) (a b : BitVec 6) (e : BitVec 4) (r : BitVec 2)
  /-- Queues a sheaf decode (R319). -/
  | xcpShdec (g : BitVec 3) (a b : BitVec 6) (e : BitVec 4) (r : BitVec 2)
  /-- Queues a row gather by index array (R320). -/
  | xcpGather (g : BitVec 3) (a b : BitVec 6) (e : BitVec 4) (r : BitVec 2)
  /-- Queues a fill with an 8-byte pattern (R320). -/
  | xcpFill (g : BitVec 3) (a b : BitVec 6) (e : BitVec 4) (r : BitVec 2)
  /-- Issues a dense matrix multiply-accumulate per issuing octet (R262). -/
  | mma (g : BitVec 3) (z : BitVec 4) (a b : BitVec 6) (r : BitVec 3)
  /-- Dense multiply-accumulate with B read transposed (R262). -/
  | mmaBt (g : BitVec 3) (z : BitVec 4) (a b : BitVec 6) (r : BitVec 3)
  /-- Rescales tile rows by rsc, then multiply-accumulates (R263). -/
  | mmaRs (g : BitVec 3) (z : BitVec 4) (a b : BitVec 6) (r : BitVec 3)
  /-- Difference-form product with dense records (R267). -/
  | mdf (g : BitVec 3) (z : BitVec 4) (a b : BitVec 6) (r : BitVec 3)
  /-- Difference-form product with sparse records (R267). -/
  | mdfSp (g : BitVec 3) (z : BitVec 4) (a b : BitVec 6) (r : BitVec 3)
  /-- Online softmax step writing P and updating side registers (R269). -/
  | msmx (g : BitVec 3) (z : BitVec 4) (a b : BitVec 6)
  /-- Zeroes a tile and resets its side registers (R270). -/
  | mzero (g : BitVec 3) (z : BitVec 4)
  /-- Loads a tile from memory (R270). -/
  | mld (g : BitVec 3) (z : BitVec 4) (a : BitVec 6)
  /-- Stores a tile, optionally narrowed and normalised (R271). -/
  | mst (g : BitVec 3) (z : BitVec 4) (a : BitVec 6) (r : BitVec 3)
  /-- Stores a tile's side registers (R270). -/
  | mside (g : BitVec 3) (z : BitVec 4) (a : BitVec 6)
  /-- Reads a special register into a scalar (R133). -/
  | gsr (g : BitVec 3) (d i : BitVec 6)
  /-- Write-one-to-clear of %gstat bits (R135). -/
  | ssrGstat (g : BitVec 3) (b : BitVec 6)
  /-- Writes %gc, trapping on reserved bits or unpermitted DEBUG (R135). -/
  | ssrGc (g : BitVec 3) (b : BitVec 6)
  /-- Writes the slot's %fm, trapping on reserved bits (R135). -/
  | ssrFm (g : BitVec 3) (b : BitVec 6)
  /-- Write-one-to-clear of %mst bits (R135). -/
  | ssrMst (g : BitVec 3) (b : BitVec 6)
  /-- Writes a work-identifier field into each acting lane (R136). -/
  | wid (g : BitVec 3) (d k : BitVec 6)
  /-- Returns a wafer topology value (R137). -/
  | topo (g : BitVec 3) (d k : BitVec 6)
  /-- Sets a predicate from whether a lane register is empty, never waiting (R138). -/
  | chk (g p : BitVec 3) (a : BitVec 6)
  /-- Opens an idempotent region and sets %ire (R139). -/
  | idem (g : BitVec 3)
  /-- Closes the idempotent region (R139). -/
  | idemx (g : BitVec 3)
  /-- Debug halt under the debug flag, otherwise a BRK trap (R140). -/
  | brk (g : BitVec 3) (h l : BitVec 6)
  /-- Posts a device-side child launch to the aggregator and returns its ticket (R223). -/
  | launch (g : BitVec 3) (d a b : BitVec 6)
  /-- Posts a kernel event record to the context's event channel (R227). -/
  | evpost (g : BitVec 3) (a : BitVec 6)
  /-- Weir load with a tolerance that sluices holders until their shares fit (R349). -/
  | ldw (g : BitVec 3) (d a b : BitVec 6)
  /-- Queries where a line lodges in the wafer cache (R141). -/
  | lodge (g : BitVec 3) (d a : BitVec 6)
  /-- Prefetches a line into L1 without faulting (R142). -/
  | pfg (g : BitVec 3) (a : BitVec 6)
  /-- Scalar 8-byte global load (R143). -/
  | lq (g : BitVec 3) (d a b : BitVec 6)
  deriving DecidableEq, Repr

end Sys2Proof
end

