-- ==== Sys2Proof/Machine/State.lean ====
section
/-! DEFINITION. The state of the Fjaryar: every register, memory, queue and record that the manual names, as plain data,
and the state right after device reset. A table (`Tbl`) lists its entries by ascending key. -/

namespace Sys2Proof.Machine

/-- Why a step stops with a fault. -/
inductive Fault where
  /-- Raised by an instruction that no split executes: `exec` was called without a cursor, or the cursor names no live
  split. No step of a run raises it. Safe: the machine stops where the hardware has no such step. -/
  | noSplit
  deriving DecidableEq, Repr

/-- Why a step is refused. -/
inductive Refusal where
  /-- Raised by the dispatch of an instruction that has no meaning yet, with its mnemonic. Safe: no state results. -/
  | notModelled (mnemonic : String)
  deriving DecidableEq, Repr

/-- What stands in a lane of an allocated register, or in a scalar (R79, R111). -/
inductive CellSt where
  | full
  /-- the destination of outstanding access `tag` (R99, R208) -/
  | empty (tag : Nat)
  /-- poisoned with UCE, or with DZW where `dzw`, by a failed access to remote address `addr` (R104) -/
  | poisoned (dzw : Bool) (addr : DWord)
  /-- damaged by a soft error of the register file: a read traps SOFT (R384) -/
  | damaged
  deriving DecidableEq, Repr

/-- One lane of a vector register (R79). -/
structure LaneCell where
  val : Word
  st  : CellSt
  deriving DecidableEq, Repr

/-- One scalar register (R110, R111). -/
structure Scalar where
  val : DWord
  st  : CellSt
  deriving DecidableEq, Repr

/-- What a split waits for (R195). -/
inductive Wait where
  | none
  /-- an empty source, or an earlier access that has not arrived (R79, R111, R103) -/
  | source
  /-- allocation of this many octet-registers (R208) -/
  | alloc (n : Nat)
  /-- a translation fault (R102); `woken` once the host has answered, and until the split executes again -/
  | hold (woken : Bool)
  /-- acknowledgements of drains, invalidations, sluices, spills or recalls (R236, R240, R340, R349) -/
  | ack
  /-- `wdrain`: the cores and lines whose spills have not been performed (R247) -/
  | drains (todo : List (Nat × Nat))
  /-- a Dzingewin transaction (R170) -/
  | remote
  /-- an acquire that has issued: no later access of the split is performed before the answers of its remote pages have arrived and
  its additions to these weir lines have been performed (R236, R351) -/
  | acquired (weirs : List Nat)
  /-- room in an engine queue (R256, R304) -/
  | engine
  /-- `bwait`: the engine operations it covers (R243) -/
  | batch
  /-- the group's final `exit`: its engine operations (R130) -/
  | final
  /-- `mwait`: the watch, or a timeout at the nanosecond named (R241) -/
  | monitor (deadline : Option DWord) (dst : Nat)
  /-- `marm` on a remote line, until its bytes are known (R241) -/
  | arming
  /-- `bar` (R244) -/
  | bar (id : Nat)
  /-- `bar.lanes` (R245) -/
  | lanes
  /-- `tgate` (R221): whether the arrival itself still waits for the phase to end (R222) -/
  | tgate (again : Bool) (stay : Bool)
  /-- `qpush` or `qpop` on a queue (R249) -/
  | queue (q : Nat)
  /-- `evpost` (R227) -/
  | event
  deriving DecidableEq, Repr

/-- A page that a held access needs (R102): the addresses `va` with `va / 2 ^ bits = num`. -/
structure PageRef where
  num  : Nat
  bits : Nat
  deriving DecidableEq, Repr

/-- A split: a live slot, or a spilled split (R191, R200 to R202). -/
structure Split where
  pc   : DWord
  mask : DWord
  /-- the `%fm` of the slot (R133) -/
  fm   : Word
  /-- the innermost rejoin record that it must reach (R200) -/
  link : Option Nat
  /-- instructions issued since it took its slot or executed a `join` that acts (R202) -/
  run  : Nat
  /-- consecutive cycles in which it was ready and did not issue (R195) -/
  waitCount : Nat
  wait : Wait
  /-- since when it has waited at its instruction, none while it has not: the kind of wait (`Wait.kind`) and the core's cycle
  (R209, R210) -/
  since : Option (Nat × DWord)
  /-- index of its split-stack entry while it is spilled (R200, R202) -/
  entry : Nat
  /-- pages of a held instruction that the host answered with a refusal, and whether it is the refusal of a copy-on-write copy
  (R102) -/
  verdicts : List (PageRef × Bool)
  /-- a soft error stands in it: the next instruction that it executes traps SOFT (R384) -/
  soft : Bool
  deriving DecidableEq, Repr

/-- A rejoin record (R126, R200, R201). -/
structure Rejoin where
  j       : DWord
  union   : DWord
  arrived : DWord
  fm      : Word
  outer   : Option Nat
  /-- the record index by which split-stack entries name it: the lowest that no open record had (R201) -/
  index   : Nat
  /-- index of its split-stack entry while two older records are kept on the core (R200) -/
  entry   : Nat
  /-- a soft error stands in it (R384) -/
  soft    : Bool
  deriving DecidableEq, Repr

/-- The idempotent region that is open (R139, R385). -/
structure Region where
  mask     : DWord
  fm       : Word
  restarts : Nat
  /-- the first engine operation issued in the region -/
  firstOp  : Nat
  deriving DecidableEq, Repr

/-- A watch armed by `marm` (R241). -/
structure Watch where
  /-- virtual line -/
  vline  : Nat
  /-- physical line, or the peer line of a remote page -/
  pline  : Nat
  remote : Bool
  /-- the line's page parks externally (R241, R390) -/
  parks  : Bool
  fired  : Bool
  lost   : Bool
  /-- the bytes of a remote line at `marm` -/
  bytes  : List Byte
  deriving DecidableEq, Repr

/-- A phase of `bar.lanes` (R245). -/
structure LanePhase where
  members : DWord
  arrived : DWord
  deriving DecidableEq, Repr

/-- An engine operation that failed (R243, R311, R382). -/
structure Failure where
  /-- matrix operation, else copy command -/
  matrix : Bool
  num    : Nat
  batch  : Nat
  /-- status code of R311, or 5, 6, 7, 10 of R382 -/
  code   : Nat
  addr   : DWord
  deriving DecidableEq, Repr

/-- Whether a group runs (R387, R389, R386). -/
inductive Halt where
  | running
  /-- stopped at an instruction boundary for pre-emption -/
  | preempted
  /-- stopped by the `brk` of a slot for the debugger, with `kept` failures pending; `settled` once its engine operations have
  ended; the batches that have completed since, each with whether it is of matrix operations, and the code of the earliest of its
  operations that failed meanwhile, or 0 -/
  | debug (settled slotB : Bool) (kept : Nat) (batches : List (Bool × Nat × Nat))
  deriving DecidableEq, Repr

/-- Handler mode (R383). -/
structure Handler where
  /-- slot B runs the handler -/
  slotB : Bool
  /-- the other slot was live, and is frozen -/
  other : Bool
  /-- the lanes of the handler split -/
  lanes : DWord
  deriving DecidableEq, Repr

/-- A value that is on its way to a register (R99, R208): lane 64 names a scalar. -/
structure Arriving where
  reg    : Nat
  lane   : Nat
  val    : DWord
  /-- 0 intact, 1 uncorrectable, 2 failed remote access (R104) -/
  poison : Nat
  deriving DecidableEq, Repr

/-- A group (R191). -/
structure Group where
  crew    : Nat
  /-- work-identifier field 1 (R194) -/
  f1      : Nat
  /-- residence index on its core (R197, R398) -/
  index   : Nat
  /-- log2 of the width (R155) -/
  w0      : Nat
  slotA   : Option Split
  slotB   : Option Split
  spilled : List Split
  records : Tbl Rejoin
  exited  : DWord
  scalars : Tbl Scalar
  /-- c0 to c7 (R110) -/
  c       : BitVec 8
  /-- p0 to p6, one mask of lanes each (R23) -/
  preds   : Tbl DWord
  /-- allocated vector registers and their written lanes (R205) -/
  vregs   : Tbl (Tbl LaneCell)
  gstat   : DWord
  gc      : DWord
  mst     : DWord
  prog    : DWord
  bnc     : DWord
  bnm     : DWord
  ire     : DWord
  region  : Option Region
  /-- in handler mode (R383) -/
  handler : Option Handler
  /-- the 64-byte trap record (R147) -/
  trapRec : List Byte
  /-- it has trapped in a context that then faulted: its private area is kept until the context is reset (R399) -/
  keep    : Bool
  /-- the private area behind the L1s, by offset: the windows at lane × (private bytes) + offset, the split stack and the trap area
  (R109, R200, R287, R399) -/
  priv    : Memory
  /-- offsets in the private area of uncorrectable bytes (R104, R287) -/
  privBad : List Nat
  /-- global virtual address of the private area (R399) -/
  privBase : DWord
  watch   : Option Watch
  lanePhase : Option LanePhase
  /-- accumulators: name + 16 × octet, then element index in the tile (R254) -/
  tiles   : Tbl (Tbl Word)
  /-- side registers rmx, rsm, rsc: (name + 16 × octet), then 32 × kind + row (R255) -/
  sides   : Tbl (Tbl Word)
  /-- engine operations issued (R330) -/
  opCount : Nat
  failures : List Failure
  /-- the remote addresses of failed remote stores whose DZW traps are due, the earliest first (R104, R382) -/
  dzwDue  : List DWord
  /-- remote stores and atomics that have not been answered (R170, R236) -/
  remoteOut : Nat
  swapped : Bool
  /-- being swapped out: its outstanding register-writing operations complete first (R209) -/
  leaving : Bool
  /-- registers and lanes whose bytes in the swap area are uncorrectable (R209) -/
  swapBad : List (Nat × Nat)
  halt    : Halt
  /-- an uncorrectable or soft error restarts the group once its operations settle (R385): the number of the failure -/
  restart : Bool
  arriving : Tbl (List Arriving)
  /-- predicates and accumulators with a soft error, by the codes of R381 (R384): 2 and 64 × k + lane for lane L of pk, 2 and
  512 + k for ck; 4 and the key of a tile, 4 and 256 + the key of a tile's side registers -/
  damage  : List (Nat × Nat)
  /-- set when an instruction retires or a memory response arrives (R390) -/
  active  : Bool
  /-- answered remote reads of a `launch` template: address and bytes (R223) -/
  template : List (Nat × List Byte)
  deriving DecidableEq, Repr

/-- A scratch queue (R249, R250). -/
structure Queue where
  base  : Nat
  depth : Nat
  head  : Nat
  occ   : Nat
  /-- sleeping splits (group, slot B), in the order they began to wait -/
  pushers : List (Nat × Bool)
  poppers : List (Nat × Bool)
  deriving DecidableEq, Repr

/-- A phase of a crew barrier (R244). -/
structure BarPhase where
  count   : Nat
  /-- lanes of each group that have executed the `bar` -/
  lanes   : Tbl DWord
  /-- groups that have arrived -/
  arrived : List Nat
  deriving DecidableEq, Repr

/-- Where a crew's state is (R387, R388). -/
inductive Residence where
  | resident
  /-- halted or halting for pre-emption -/
  | halting
  /-- its context has faulted while it halted: the pre-emption ends (R395) -/
  | ending
  /-- in the core's shadow storage -/
  | shadow
  /-- spilled from the shadow storage to HBM -/
  | hbm
  deriving DecidableEq, Repr

/-- A queued engine operation (R256, R274, R303, R307). -/
structure EngOp where
  group  : Nat
  ctx    : Nat
  num    : Nat
  batch  : Nat
  /-- xop5 or mop4 -/
  code   : Nat
  /-- dir2 or rep3 -/
  mode   : Nat
  /-- the scalars captured at issue -/
  regs   : List DWord
  fm     : Word
  za     : Nat
  /-- octet of a matrix operation -/
  octet  : Nat
  /-- units done -/
  units  : Nat
  /-- the layout record, and after it the index array of a `gather`; empty until the command has begun (R306, R307) -/
  record : List Byte
  /-- the command has passed the checks of R307 -/
  begun  : Bool
  /-- source bytes consumed and destination bytes produced by sheaf blocks (R318, R319) -/
  src    : Nat
  dst    : Nat
  /-- bytes counted, and bytes written remotely whose counting awaits an acknowledgement (R310) -/
  counted : Nat
  owed   : Nat
  /-- held on a translation fault, at this address (R274, R308) -/
  held   : Option DWord
  /-- waits for a page or for a remote access -/
  asleep : Bool
  /-- pages that the host has declared fatal, or refused to copy (R274, R308) -/
  fatal  : List (PageRef × Bool)
  /-- what the unit under way has read already, answered remote reads among it, and what earlier units have read where a hold has
  divided units that touch one aligned 16-byte unit: address and bytes (R105, R308) -/
  cache  : List (Nat × List Byte)
  /-- bytes of rows done, by the key of their address, in aligned 16-byte units that a later row of the operation writes too: they
  are written with that row (R105, R259; a field of the model, log 19) -/
  pend   : List (Nat × Byte)
  /-- remote writes that have not been answered -/
  out    : Nat
  /-- a remote access has failed: whether at an uncorrectable byte, and the address (R308) -/
  lost   : Option (Bool × DWord)
  /-- `%mst` bits that it will set (R272) -/
  bits   : DWord
  /-- `%prog` of its last hold or stop (R273) -/
  event  : Option DWord
  deriving DecidableEq, Repr

/-- A crew (R193). -/
structure Crew where
  launch  : Nat
  f2 : Nat
  f3 : Nat
  f4 : Nat
  f5 : Nat
  core    : Nat
  /-- residence index on its core (R337) -/
  index   : Nat
  groups  : List Nat
  /-- groups that have ended -/
  ended   : List Nat
  scratch : Memory
  /-- poisoned scratch bytes (R104, R237, R384) -/
  scratchBad : List Nat
  queues  : Tbl Queue
  bars    : Tbl BarPhase
  /-- placement order (R210, R218) -/
  order   : Nat
  res     : Residence
  /-- engine operations saved with a pre-empted crew (R387) -/
  savedCopy : List EngOp
  savedMat  : List EngOp
  deriving DecidableEq, Repr

/-- The progress of a launch (R160, R215, R228). -/
inductive LaunchSt where
  /-- an aggregator batch that is still open (R224) -/
  | gathering
  | taken
  /-- waits for a page of its parameter reads (R160) -/
  | held
  | ready
  | opened
  /-- every group has ended; the steps of R228 are under way -/
  | ended
  /-- the completion word is written, and replica invalidations that the write caused are on their way (R161, R329) -/
  | written
  | complete
  | rejected
  | failed
  deriving DecidableEq, Repr

/-- A launch (R155, R214). -/
structure Launch where
  ctx    : Nat
  id     : Nat
  /-- queue 0 to 7, 8 for an aggregator batch (R224) -/
  queue  : Nat
  slot   : Nat
  wb     : List Byte
  st     : LaunchSt
  /-- table of an aggregator batch (R224) -/
  table  : List DWord
  /-- children of an aggregator batch -/
  isBatch : Bool
  /-- parameter block addresses and their preloaded dwords, by field 5 (R156, R157) -/
  params : List (DWord × List DWord)
  order  : Nat
  placed : Nat
  endedCrews : Nat
  /-- cores that ran a crew, each with the tick at which its last crew there retired (R394) -/
  cores  : Tbl Nat
  tree   : Option Nat
  /-- the completion word waits for a page (R161) -/
  wordHeld : Bool
  /-- cores whose deltas are still to be drained before the word is written (R228) -/
  draining : List Nat
  /-- cores whose dressing must still pass before the confirmed event (R394) -/
  unconfirmed : List Nat
  suspect : Bool
  /-- pages of its reads and of its completion word that the host has declared fatal, or (true) refused to copy (R160, R161) -/
  fatal : List (PageRef × Bool)
  deriving DecidableEq, Repr

/-- A launch queue of a context (R162, R401). -/
structure LaunchQueue where
  base : DWord
  k    : Nat
  post : DWord
  take : DWord
  /-- waits for the page of a slot or of the take count, until a take has passed it (R401) -/
  held : Bool
  /-- the kind-11 event of an unwritable take count has been posted (R401) -/
  faulted : Bool
  /-- pages of the slot under way and of the take count that the host has declared fatal, or (true) refused to copy (R401) -/
  fatal : List (PageRef × Bool)
  deriving DecidableEq, Repr

/-- A memory window (R175). -/
structure Window where
  base : DWord
  len  : DWord
  perm : BitVec 2
  deriving DecidableEq, Repr

/-- A region register (R299). -/
structure RegionReg where
  base  : DWord
  len   : DWord
  kind  : Nat
  crest : Word
  deriving DecidableEq, Repr

/-- A peer table slot (R171). -/
structure Peer where
  ip  : BitVec 128
  tag : Byte
  deriving DecidableEq, Repr

/-- An open aggregator batch (R224). -/
structure Batch where
  template : DWord
  id       : Nat
  wb       : List Byte
  table    : List DWord
  openedAt : DWord
  deriving DecidableEq, Repr

/-- A loaded object (R149 to R154). -/
structure CodeObj where
  textBase : DWord
  textLen  : DWord
  handler  : Option DWord
  overridden : Bool
  deriving DecidableEq, Repr

/-- The private area of a group that has ended, kept until its context is reset (R399): its number, and its bytes by offset. -/
structure KeptArea where
  group : Nat
  base  : Nat
  size  : Nat
  mem   : Memory
  bad   : List Nat
  deriving DecidableEq, Repr

/-- State of a context (R400). -/
inductive CtxSt where
  | running
  | faulted
  | halted
  | resetting
  deriving DecidableEq, Repr

/-- An event record that the host has not acknowledged (R178). -/
structure EventRec where
  seq    : Nat
  bytes  : List Byte
  /-- Dzingewin sequence of the message that carries it -/
  msgSeq : DWord
  /-- when it was sent -/
  sentAt : DWord
  deriving DecidableEq, Repr

/-- A context (R162, R175, R178, R398, R400). -/
structure Context where
  st       : CtxSt
  root     : DWord
  share    : Nat
  windows  : Tbl Window
  hosts    : List (BitVec 128 × Nat)
  queues   : Tbl LaunchQueue
  regions  : Tbl RegionReg
  peers    : Tbl Peer
  /-- last launch identifier assigned (R214, R400) -/
  counter  : Nat
  ringBase : DWord
  ringDepth : Nat
  /-- sequence number of the next event record (R398) -/
  evSeq    : Nat
  /-- records not acknowledged, oldest first -/
  unacked  : List EventRec
  /-- the event channel is halted (R178) -/
  channelHalted : Bool
  violations : List DWord
  violationCount : DWord
  log      : List Byte
  batches  : List Batch
  watchdog : Nat
  park     : Nat
  /-- pages for which a request is outstanding (R102) -/
  requested : List PageRef
  objects  : List CodeObj
  kept     : List KeptArea
  /-- when the watchdog window under way began, and since when every resident group has been parked (R390) -/
  windowStart : DWord
  parkedSince : Option DWord
  /-- a group that has ended since was active in the watchdog window under way (R390) -/
  progress : Bool
  /-- groups of the faulted context that have not reached their halt yet (R386; a field of the model, log 14) -/
  unhalted : List Nat
  /-- core, group residence index and cause of the first trap of a context fault (R386) -/
  fault    : Option (Nat × Nat × Nat)
  /-- children discarded by the reset under way, and the message to be answered (R391) -/
  discarded : Nat
  resetMsg  : Option Msg
  deriving DecidableEq, Repr

/-- One byte of an L1 line (R287). -/
structure L1Byte where
  val   : Byte
  dirty : Bool
  /-- uncorrectable (R104) -/
  bad   : Bool
  deriving DecidableEq, Repr

/-- A page-table leaf as the TLB holds it (R283, R285). -/
structure Leaf where
  /-- the entry -/
  pte  : DWord
  lvl  : Nat
  deriving DecidableEq, Repr

/-- An L1 line (R287): its valid bytes by offset. -/
structure L1Line where
  ctx   : Nat
  vline : Nat
  pline : Nat
  r : Bool
  w : Bool
  x : Bool
  /-- the leaf that its rights come from: an access that hits the line consults no TLB (R285) -/
  leaf  : Leaf
  /-- in a noncoherent region (R344) -/
  nc    : Bool
  bytes : Tbl L1Byte
  /-- scope tag written in L1 (R337) -/
  tag   : Word
  /-- offset and length in the line of the runs of bytes that the tagged release wrote (R338; a field of the model) -/
  tagAt : List (Nat × Nat)
  /-- held under an exclusive grant (R235) -/
  excl  : Bool
  /-- a dirty byte was stored under the pin hint or in a pinned region: the access that its writeback performs pins (R291) -/
  pin   : Bool
  deriving DecidableEq, Repr

/-- States of a delta line (R357). -/
inductive DeltaSt where
  | asking
  | holding
  | direct
  deriving DecidableEq, Repr

/-- A delta line (R356). -/
structure Delta where
  ctx   : Nat
  pline : Nat
  vline : Nat
  delta : Tbl Word
  touched : Word
  /-- 0 none, 1 FP32, 2 INT32 -/
  kind  : Nat
  t     : Word
  share : Word
  st    : DeltaSt
  resume : Bool
  /-- additions that wait for a grant or an acknowledgement: element, addend, FP32 -/
  waiting : List (Nat × Word × Bool)
  /-- a spill awaits its acknowledgement -/
  spilling : Bool
  /-- the entry is to be freed, with a return notice, once the spill is acknowledged -/
  leaving : Bool
  /-- the halving instant count at which the entry became Direct (R357) -/
  since : Nat
  deriving DecidableEq, Repr

/-- Additions to a weir line that wait for a way of the L1 (R356; a structure of the model): element, addend, FP32. -/
structure Roomless where
  ctx   : Nat
  vline : Nat
  line  : Nat
  adds  : List (Nat × Word × Bool)
  deriving DecidableEq, Repr

/-- An issue slot (R197, R198). -/
structure IssueSlot where
  ctx   : Nat
  pc    : DWord
  word  : Word
  /-- lanes that the instruction goes to -/
  lanes : Nat
  /-- place in the ring of the split that the core chose -/
  place : Nat
  deriving DecidableEq, Repr

/-- A logical core: its L1, TLB, delta lines, engine queues and scheduler (R197, R256, R285, R287, R303, R356). -/
structure CoreSt where
  /-- most recently used first -/
  l1    : List L1Line
  /-- context, base virtual address and leaf, most recently filled first -/
  tlb   : List (Nat × Nat × Leaf)
  deltas : List Delta
  /-- additions that wait for a way of the L1 (R356; a field of the model) -/
  roomless : List Roomless
  copyQ : List EngOp
  matQ  : List EngOp
  /-- the last split issued at each effective priority: residence index and slot B (R197) -/
  pointer : Tbl (Nat × Bool)
  /-- splits issued in the cycle under way -/
  issued : Nat
  /-- groups that issued in the cycle under way -/
  done  : List Nat
  /-- the issue slot filled last in the cycle under way (R198) -/
  slot  : Option IssueSlot
  /-- `%cycle` (R133) -/
  cycle : DWord
  /-- `%dress` (R133) -/
  dress : DWord
  /-- taken for dressing (R393), and the tick at which its scan began -/
  testing : Bool
  scanFrom : Nat
  deriving DecidableEq, Repr

/-- The weir record of a line (R360). -/
structure WeirRec where
  crest : Word
  /-- unallocated crest, exact, in units of 2^-151 (log 18) -/
  free  : Nat
  /-- core, context, share, dirty -/
  holders : List (Nat × Nat × Word × Bool)
  /-- holders with a sluice outstanding: core, context -/
  sluicing : List (Nat × Nat)
  /-- whose read or write is being served (R362): a group with the pc of its instruction, bit 63 set for slot B, or another
  party of the machine -/
  service : Option (Nat × DWord)
  deriving DecidableEq, Repr

/-- A location directory entry (R289). -/
structure DirEntry where
  ret   : Nat
  bank  : Nat
  /-- moving, with a tombstone, to this reticle and bank (R293) -/
  moving : Option (Nat × Nat)
  /-- a move has been decided and is due: the reticle it goes to, and the order of the decision (R293) -/
  due   : Option (Nat × Nat)
  /-- being evicted (R141, R297) -/
  leaving : Bool
  pin   : Bool
  strm  : Bool
  /-- reticles with the replica bit set -/
  replicas : List Nat
  /-- reticle and count, in the order filled (R292) -/
  requesters : List (Nat × Nat)
  /-- mesh cycle at which the move timer was last reset (R293) -/
  timer : Nat
  /-- core and context (R339) -/
  releasers : List (Nat × Nat)
  /-- scope tags by physical line, none of level 7 (R337), and offset and length in the line of the runs of bytes that the tagged
  release wrote (R338; a field of the model) -/
  tags  : Tbl (Word × List (Nat × Nat))
  /-- weir records by physical line: a sheaf block has two lines (R300, R360) -/
  weir  : Tbl WeirRec
  /-- logical core under an exclusive grant (R235) -/
  excl  : Option Nat
  /-- tick of the last use (R297) -/
  used  : Nat
  /-- kept expanded by an atomic on a sheaf page (R238) -/
  expanded : Bool
  deriving DecidableEq, Repr

/-- A replica (R294): its bytes, and the offsets of those that are uncorrectable (R104). `old` names the lines that have been
written since it was made, whose tags it does not hold (R337; a field of the model). -/
structure Replica where
  bytes : List Byte
  bad   : List Nat
  old   : List Nat
  deriving DecidableEq, Repr

/-- A port (R165, R166, R400). -/
structure Port where
  up   : Bool
  pfc  : Bool
  ip   : BitVec 128
  sent : DWord
  received : DWord
  dropped  : DWord
  /-- priorities paused by the partner (R166) -/
  paused : Byte
  /-- the wafer has paused priority 3 at the partner (R166) -/
  holds  : Bool
  /-- acknowledgements wait for the end of a pause of priority 5 (R166, R170) -/
  acks   : Bool
  deriving DecidableEq, Repr

/-- What an outstanding message of the wafer is for (R170, R171, R178, R184). -/
inductive Purpose where
  /-- a remote read or value-returning atomic of a group: register, lane, width in bytes, destination kind, tag -/
  | load (group tag : Nat) (reg lane n : Nat) (signed : Bool)
  /-- a remote store or reduction -/
  | store (group : Nat)
  /-- the remote read of a watch (R241) -/
  | poll (group : Nat)
  /-- a remote read of a `launch` template (R223) -/
  | template (group va : Nat)
  /-- an event record -/
  | event (ctx seq : Nat)
  | notice
  /-- a completion, until the receiver acknowledges it (R170) -/
  | answer
  /-- a remote read of a copy command: core, group, operation number, address (R308) -/
  | engineRead (core group num va : Nat)
  /-- a remote write of a copy command -/
  | engineWrite (core group num va : Nat)
  deriving DecidableEq, Repr

/-- A message of the wafer that has not been answered (R170). -/
structure Txn where
  msg     : Msg
  purpose : Purpose
  /-- the port that it was last sent over, and whether that was a retransmission (R170) -/
  port    : Nat
  again   : Bool
  /-- the receiver has acknowledged it: it is not missing (R170) -/
  acked   : Bool
  deriving DecidableEq, Repr

/-- A request that has been performed and whose answer waits for replica invalidations (R169, R329). -/
structure Owed where
  msg    : Msg
  status : Nat
  data   : List Byte
  /-- directory units whose invalidations it waits for -/
  units  : List Nat
  deriving DecidableEq, Repr

/-- A Dzingewin correspondent (R167, R170). -/
structure Link where
  ip      : BitVec 128
  /-- next sequence number to send -/
  next    : DWord
  /-- sequence numbers performed, for the discarding of duplicates -/
  seen    : List DWord
  /-- ports removed from the spray set -/
  removed : List Nat
  /-- retransmissions lost in a row, by port -/
  losses  : List (Nat × Nat)
  /-- since when the peer has been in recovery -/
  recovering : Option DWord
  deriving DecidableEq, Repr

/-- A tollgate tree (R220). -/
structure Tree where
  launch  : Nat
  /-- per core: counter and preset -/
  counters : Tbl (Nat × Nat)
  /-- groups that have arrived in the phase -/
  arrived : List Nat
  deriving DecidableEq, Repr

/-- A claim on the part (R173). -/
structure Owner where
  ip    : BitVec 128
  key   : Nat
  lease : DWord
  deriving DecidableEq, Repr

/-- Which agent moves next: plain data, read from `State.turns` (log 1). -/
inductive Turn where
  /-- the i-th due step of the agenda -/
  | due (i : Nat)
  /-- the i-th arrived message -/
  | message (i : Nat)
  /-- a core issues -/
  | core (n : Nat)
  /-- a core packs a further split into the issue slot under way (R198) -/
  | pack (n : Nat)
  /-- a step that arises outside the agenda (a link, a timer, a choice of the dispatcher) -/
  | arise (i : Instr)
  deriving DecidableEq, Repr

/-- The split that executes, and its encoding (R147). -/
structure Cursor where
  group : Nat
  slotB : Bool
  enc   : Word
  deriving DecidableEq, Repr

/-- What final test and bring-up record of the part (R4, R8). -/
structure Part where
  /-- 900 or 850 -/
  grade : Nat
  /-- the physical cores (15 × reticle order index + physical index) that are not numbered, ascending: a spare, else disabled -/
  unnumbered : List (Nat × Bool)
  /-- banks (64 × reticle + bank) found defective at bring-up -/
  missing : List Nat
  deriving DecidableEq, Repr

/-- The state of the wafer. -/
structure State where
  /-- fixed until the next device reset -/
  part     : Part
  groups   : Tbl Group
  crews    : Tbl Crew
  /-- by 2^32 × context + identifier -/
  launches : Tbl Launch
  contexts : Tbl Context
  cores    : Tbl CoreSt
  /-- logical numbers that no longer stand at their home: the physical core, or none for an absent number (R5, R6) -/
  renumbered : Tbl (Option Nat)
  /-- physical spares that hold a logical number or were fenced (R5) -/
  usedSpares : List Nat
  /-- physical memory at the lodging banks (R281, R334) -/
  mem      : Memory
  /-- uncorrectable physical bytes (R104) -/
  bad      : List Nat
  /-- the location directory, by physical line (R289) -/
  dir      : Tbl DirEntry
  /-- even physical lines of the blocks that a sheaf page has brought into the wafer cache: both lines share one entry (R300) -/
  blocks   : List Nat
  /-- replica contents, by 64 × physical line + reticle (R294) -/
  replicas : Tbl Replica
  /-- replica invalidations on their way: line, reticle, core whose write caused it (R295, R342) -/
  invals   : List (Nat × Nat × Nat)
  /-- banks retired in service (R298) -/
  retired  : List Nat
  /-- halving instants passed (R292) -/
  halvings : Nat
  trees    : Tbl Tree
  /-- credits, by 256 × level + context (R216) -/
  credits  : Tbl Nat
  /-- last context served at each level (R216) -/
  lastServed : Tbl Nat
  lastQueue  : Tbl Nat
  ports    : Tbl Port
  links    : List Link
  outstanding : List Txn
  /-- messages that wait for a port: every path is down, removed or paused (R166, R170) -/
  unsent   : List Msg
  owed     : List Owed
  recoveryWindow : Nat
  owner    : Option Owner
  /-- successor key and the end of its grace (R173) -/
  successor : Option (Nat × DWord)
  broughtUp : Bool
  /-- the image that has replaced the one present at device reset (R179) -/
  firmware : Option (List Byte)
  /-- the common clock in MHz (R182) -/
  mhz      : Nat
  /-- nanoseconds since device reset (R133) -/
  clock    : DWord
  /-- mesh cycles since device reset (R292, R293) -/
  mesh     : Nat
  /-- next core for dressing, and gated cores passed over (R393) -/
  dressNext : Nat
  skipped  : List Nat
  /-- objects loaded under the debug override (R154, R180) -/
  overrides : List (List Byte)
  inbox    : List Msg
  outbox   : List Msg
  /-- the split that executes: set by the step (a field of the model) -/
  cur      : Option Cursor
  /-- steps of the other agents that are due, oldest first (a field of the model; log 1) -/
  agenda   : List Instr
  /-- which agent moves next (a field of the model; log 1) -/
  turns    : List Turn
  /-- steps taken; the free values of Config are applied to it (a field of the model; log 2) -/
  tick     : Nat
  /-- next numbers for groups, crews, accesses and orders (fields of the model) -/
  nextGroup : Nat
  nextCrew  : Nat
  nextTag   : Nat
  nextOrder : Nat
  /-- the core that issued last (a field of the model; log 1) -/
  lastCore : Nat
  deriving DecidableEq, Repr

/-- The part of the reset state: grade 900, physical core 14 of the reticles 0 to 59 a spare and every other core numbered, no bank
defective. DESIGN CHOICE (log 4; unsafe: a statement about every state holds of every part). -/
def Part.chosen : Part where
  grade := 900
  unnumbered := (List.range 60).map fun r => (15 * r + 14, true)
  missing := []

/-- A port after device reset: down, and without flow control, address or counts (R165, R166, R400). -/
def Port.fresh : Port where
  up := false
  pfc := false
  ip := 0
  sent := 0
  received := 0
  dropped := 0
  paused := 0
  holds := false
  acks := false

/-- The machine right after device reset (R133, R165, R166, R170, R173, R181, R182; logs 3, 4, 6): nothing is resident, no
context exists, the wafer has no owner and is not brought up; power and the values of the part are those of Config. -/
def State.reset : State where
  part := Part.chosen
  groups := []
  crews := []
  launches := []
  contexts := []
  cores := []
  renumbered := []
  usedSpares := []
  mem := []
  bad := []
  dir := []
  blocks := []
  replicas := []
  invals := []
  retired := []
  halvings := 0
  trees := []
  credits := []
  lastServed := []
  lastQueue := []
  ports := (List.range 48).map fun i => (i, Port.fresh)
  links := []
  outstanding := []
  unsent := []
  owed := []
  recoveryWindow := 2000000000
  owner := none
  successor := none
  broughtUp := false
  firmware := none
  mhz := 2500
  clock := 0
  mesh := 0
  dressNext := 0
  skipped := []
  overrides := []
  inbox := []
  outbox := []
  cur := none
  agenda := []
  turns := []
  tick := 0
  nextGroup := 0
  nextCrew := 0
  nextTag := 0
  nextOrder := 0
  lastCore := 0

end Sys2Proof.Machine
end

