-- ==== Sys2Proof/Machine/Ops.lean ====
section
/-! DEFINITION. The named operations over the state: registers, predicates and lanes, the split that executes, taking a trap and
the return from one, and the work that an instruction leaves for the other agents. -/

namespace Sys2Proof.Machine

/-! ## Tables of the state -/

/-- A record stands for a group that is not listed. -/
def Split.start (pc mask : DWord) (fm : Word) : Split where
  pc := pc
  mask := mask
  fm := fm
  link := none
  run := 0
  waitCount := 0
  wait := .none
  since := none
  entry := 0
  verdicts := []
  soft := false

/-- A core none of whose state has been touched since device reset (R133, R285, R287). -/
def CoreSt.fresh : CoreSt where
  l1 := []
  tlb := []
  deltas := []
  roomless := []
  copyQ := []
  matQ := []
  pointer := []
  issued := 0
  done := []
  slot := none
  cycle := 0
  dress := 0
  testing := false
  scanFrom := 0

def State.group? (s : State) (g : Nat) : Option Group := tblGet? s.groups g
def State.crew? (s : State) (c : Nat) : Option Crew := tblGet? s.crews c
def State.launch? (s : State) (l : Nat) : Option Launch := tblGet? s.launches l
def State.context? (s : State) (c : Nat) : Option Context := tblGet? s.contexts c
def State.coreSt (s : State) (n : Nat) : CoreSt := tblGet s.cores n CoreSt.fresh

def State.setGroup (s : State) (g : Nat) (x : Group) : State := { s with groups := tblSet s.groups g x }
def State.modGroup (s : State) (g : Nat) (f : Group → Group) : State := { s with groups := tblMod f s.groups g }
def State.setCrew (s : State) (c : Nat) (x : Crew) : State := { s with crews := tblSet s.crews c x }
def State.modCrew (s : State) (c : Nat) (f : Crew → Crew) : State := { s with crews := tblMod f s.crews c }
def State.setLaunch (s : State) (l : Nat) (x : Launch) : State := { s with launches := tblSet s.launches l x }
def State.modLaunch (s : State) (l : Nat) (f : Launch → Launch) : State := { s with launches := tblMod f s.launches l }
def State.setContext (s : State) (c : Nat) (x : Context) : State := { s with contexts := tblSet s.contexts c x }
def State.modContext (s : State) (c : Nat) (f : Context → Context) : State := { s with contexts := tblMod f s.contexts c }
def State.setCore (s : State) (n : Nat) (x : CoreSt) : State := { s with cores := tblSet s.cores n x }
def State.modCore (s : State) (n : Nat) (f : CoreSt → CoreSt) : State := s.setCore n (f (s.coreSt n))

/-- Makes a step of another agent due (log 1). -/
def State.due (s : State) (i : Instr) : State := { s with agenda := s.agenda ++ [i] }

/-- Makes steps due, in order. -/
def State.dueAll (s : State) (l : List Instr) : State := { s with agenda := s.agenda ++ l }

/-! ## The waybill of a group (R155) -/

def wbEntry (w : List Byte) : Nat := fieldAt w 0x00 8
def wbWidth (w : List Byte) (k : Nat) : Nat := fieldAt w (0x10 + k) 1
/-- n1 to n5. -/
def wbCount (w : List Byte) (k : Nat) : Nat := fieldAt w (0x14 + 4 * k) 4
def wbVregs (w : List Byte) : Nat := fieldAt w 0x2C 1
def wbSregs (w : List Byte) : Nat := fieldAt w 0x2D 1
def wbTiles (w : List Byte) : Nat := fieldAt w 0x2E 1
def wbFlags (w : List Byte) : Nat := fieldAt w 0x2F 1
def wbGated (w : List Byte) : Bool := natBit (wbFlags w) 0
def wbDebug (w : List Byte) : Bool := natBit (wbFlags w) 1
def wbHandler (w : List Byte) : Bool := natBit (wbFlags w) 2
def wbScratch (w : List Byte) : Nat := fieldAt w 0x30 4
def wbPrivate (w : List Byte) : Nat := fieldAt w 0x34 4
def wbStack (w : List Byte) : Nat := fieldAt w 0x38 4
def wbPriority (w : List Byte) : Nat := fieldAt w 0x3C 1
def wbPreload (w : List Byte) : Nat := fieldAt w 0x3D 1

/-- The key of a launch: its context and identifier (R214). -/
def launchKey (ctx id : Nat) : Nat := 4294967296 * ctx + id

/-- The waybill bytes of a launch that is not listed. -/
def State.wbOf (s : State) (l : Nat) : List Byte :=
  match s.launch? l with
  | some x => x.wb
  | none => []

/-- Context of a launch's key. -/
def ctxOfKey (l : Nat) : Nat := l / 4294967296

/-- The launch of a group. -/
def State.launchOf (s : State) (g : Group) : Nat :=
  match s.crew? g.crew with
  | some c => c.launch
  | none => 0

/-- The waybill of a group. -/
def State.groupWb (s : State) (g : Group) : List Byte := s.wbOf (s.launchOf g)

/-- The context of a group. -/
def State.ctxOf (s : State) (g : Group) : Nat := ctxOfKey (s.launchOf g)

/-- The core of a group. -/
def State.coreOf (s : State) (g : Group) : Nat :=
  match s.crew? g.crew with
  | some c => c.core
  | none => 0

/-- Width of a group (R191). -/
def Group.width (g : Group) : Nat := 2 ^ g.w0

/-! ## Places of cores (R2 to R7) -/

/-- Logical cores C of the grade (R4). -/
def Part.coreCount (p : Part) : Nat := if p.grade = 850 then 850 else 900

/-- The n-th physical core, counted from 0, that is not in an ascending list. -/
def homeFrom : List (Nat × Bool) → Nat → Nat
  | [], n => n
  | u :: r, n => if u.1 ≤ n then homeFrom r (n + 1) else n

/-- The physical core of a logical number at final test: the numbered cores in ascending order (R4). -/
def Part.homeOf (p : Part) (n : Nat) : Nat := homeFrom p.unnumbered n

/-- Whether a physical core is a spare at final test (R4). -/
def Part.isSpare (p : Part) (q : Nat) : Bool := p.unnumbered.contains (q, true)

/-- The physical core that holds a logical number; none for an absent number. -/
def State.physOf (s : State) (n : Nat) : Option Nat :=
  match tblGet? s.renumbered n with
  | some p => p
  | none => if n < s.part.coreCount then some (s.part.homeOf n) else none

/-- The reticle order index of a logical core. -/
def State.reticleOf (s : State) (n : Nat) : Nat := ((s.physOf n).getD 0) / Config.coresPerReticle

/-- y << 8 | x of a reticle order index (R2). -/
def reticleName (r : Nat) : Nat := (r / 8) * 256 + r % 8

/-- The non-absent logical numbers held by cores of a reticle, ascending (R7). -/
def State.numbersOf (s : State) (r : Nat) : List Nat :=
  (List.range s.part.coreCount).filter fun n =>
    match s.physOf n with
    | some p => p / Config.coresPerReticle == r
    | none => false

/-! ## Scalars, predicates and lanes -/

/-- s0 reads 0 and is never empty (R23, R111). -/
def Group.scalar (g : Group) (r : Nat) : Scalar :=
  if r = 0 then { val := 0, st := .full } else tblGet g.scalars r { val := 0, st := .full }

/-- The value of a scalar. -/
def Group.sval (g : Group) (r : Nat) : DWord := (g.scalar r).val

/-- Writes a scalar; a write to s0 is discarded (R23). -/
def Group.setScalar (g : Group) (r : Nat) (v : DWord) : Group :=
  if r = 0 then g else { g with scalars := tblSet g.scalars r { val := v, st := .full } }

/-- Marks a scalar empty at issue; s0 is never empty (R111). -/
def Group.emptyScalar (g : Group) (r tag : Nat) : Group :=
  if r = 0 then g else { g with scalars := tblSet g.scalars r { val := g.sval r, st := .empty tag } }

/-- A group predicate; c7 reads true (R23). -/
def Group.cpred (g : Group) (k : Nat) : Bool := k == 7 || g.c.getLsbD k

/-- Writes a group predicate, and with it a soft error in it; a write to c7 is discarded (R23, R384). -/
def Group.setC (g : Group) (k : Nat) (b : Bool) : Group :=
  if k = 7 then g
  else { g with c := if b then g.c ||| ((1 : BitVec 8) <<< k) else g.c &&& ~~~((1 : BitVec 8) <<< k),
                damage := g.damage.filter fun x => x != (2, 512 + k) }

/-- The lanes in which a lane predicate is true; p7 reads true (R23). -/
def Group.pred (g : Group) (k : Nat) : DWord := if k = 7 then ~~~(0 : DWord) else tblGet g.preds k 0

/-- Whether a soft error in a group's predicates stands in a lane of `lanes` of a lane predicate (R384). -/
def damagedLane (k : Nat) (lanes : DWord) (x : Nat × Nat) : Bool :=
  x.1 == 2 && decide (x.2 < 512) && x.2 / 64 == k && lanes.getLsbD (x.2 % 64)

/-- Writes a lane predicate in the lanes of `lanes`, and with them the soft errors in them; a write to p7 is discarded (R23, R384).
-/
def Group.setPred (g : Group) (k : Nat) (lanes val : DWord) : Group :=
  if k = 7 then g
  else { g with preds := tblSet g.preds k ((g.pred k &&& ~~~lanes) ||| (val &&& lanes)),
                damage := g.damage.filter fun x => !damagedLane k lanes x }

/-- A lane of an allocated register that no instruction has written reads 0 (R79, R205). -/
def laneZero : LaneCell := { val := 0, st := .full }

/-- A lane of a vector register; none where the register is vacant (R79). -/
def Group.lane? (g : Group) (r l : Nat) : Option LaneCell := (tblGet? g.vregs r).map fun t => tblGet t l laneZero

/-- What a lane reads as: a vacant register reads 0 (R79). -/
def Group.lane (g : Group) (r l : Nat) : Word :=
  match g.lane? r l with
  | some c => c.val
  | none => 0

/-- Whether a register has no physical register behind it (R79). -/
def Group.vacant (g : Group) (r : Nat) : Bool := (tblGet? g.vregs r).isNone

/-- Whether a lane is empty (R79). -/
def Group.laneEmpty (g : Group) (r l : Nat) : Bool :=
  match g.lane? r l with
  | some { st := .empty _, .. } => true
  | _ => false

/-- Whether a read of a cell traps. -/
def CellSt.bad : CellSt → Bool
  | .poisoned _ _ => true
  | .damaged => true
  | _ => false

/-- The state of a lane that is poisoned or damaged (R79, R384). -/
def Group.lanePoison (g : Group) (r l : Nat) : Option CellSt := ((g.lane? r l).map fun c => c.st).filter CellSt.bad

/-- Writes the cells of the lanes of `lanes` in a register, which is allocated by the write (R205). -/
def Group.putLanes (g : Group) (r : Nat) (lanes : List Nat) (f : Nat → LaneCell) : Group :=
  { g with vregs := tblSet g.vregs r (lanes.foldl (fun t l => tblSet t l (f l)) (tblGet g.vregs r [])) }

/-- Writes values in lanes: each written lane is full (R79). No lane, no allocation. -/
def Group.writeLanes (g : Group) (r : Nat) (lanes : List Nat) (f : Nat → Word) : Group :=
  if lanes.isEmpty then g else g.putLanes r lanes fun l => { val := f l, st := .full }

/-- Marks lanes empty for access `tag` (R99, R208). -/
def Group.emptyLanes (g : Group) (r : Nat) (lanes : List Nat) (tag : Nat) : Group :=
  if lanes.isEmpty then g else g.putLanes r lanes fun l => { val := g.lane r l, st := .empty tag }

/-- Frees the physical register behind `r`: it becomes vacant in every lane (R80). -/
def Group.freeReg (g : Group) (r : Nat) : Group := { g with vregs := tblErase g.vregs r }

/-- Frees source registers by their last-read bits; a register that is also a destination keeps its value (R30, R207). -/
def Group.freeLast (g : Group) (last : List Nat) (dests : List Nat) : Group :=
  last.foldl (fun g r => if dests.contains r then g else g.freeReg r) g

/-- ORs status bits into `%gstat` (R81). -/
def Group.raise (g : Group) (f : DWord) : Group := { g with gstat := g.gstat ||| f }

/-! ## `%splits` (R127, R200) -/

/-- Split-stack entries in use: records beyond the two kept on the core, and spilled splits. -/
def Group.splits (g : Group) : Nat := (g.records.length - 2) + g.spilled.length

/-! ## The private area (R399): the lanes' windows, then the split stack, then the trap area -/

/-- Offset of the trap area in a private area (log 13). -/
def trapOffset (w : List Byte) (width : Nat) : Nat := width * wbPrivate w + wbStack w

/-- Bytes of a private area (log 13). -/
def privSize (w : List Byte) (width : Nat) : Nat := trapOffset w width + 64

/-! ## The split that executes -/

/-- An instruction at work: the rest of the machine, the group and the executing split. -/
structure View where
  s     : State
  gid   : Nat
  slotB : Bool
  enc   : Word
  g     : Group
  sl    : Split
  /-- where the split goes on -/
  next  : DWord
  /-- the split's slot becomes idle -/
  idle  : Bool
  /-- what the split waits for once the instruction has completed -/
  rest  : Wait
  /-- a `join` has acted: the count of R202 starts again -/
  joined : Bool

/-- Why an instruction does not complete. -/
inductive Stop where
  /-- cause, lane (255 for none), acting lanes, address and detail of the record (R147, R381) -/
  | trap (cause lane : Nat) (acting addr detail : DWord)
  /-- ILLEGAL in step 2 of R17, before the guard is read: the record names no lane and no acting lane -/
  | illegal
  | wait (w : Wait)
  /-- held translation faults at these addresses, one on each page (R102) -/
  | hold (l : List (Nat × PageRef))
  deriving DecidableEq, Repr

/-- What an instruction comes to. A stop changes nothing of the group but what its own rule says; the machine behind the
group may have moved (a line written back, a demand sent). -/
inductive Res where
  | done (v : View)
  | stop (s : State) (why : Stop)
  /-- a trap that reports failures of earlier work: the group no longer holds them (R382) -/
  | report (s : State) (g : Group) (why : Stop)

/-- A check stands before the rest of an instruction. -/
def guardStop (v : View) (c : Option Stop) (k : Res) : Res :=
  match c with
  | some e => .stop v.s e
  | none => k

/-- Cause codes of R381. -/
def causeILLEGAL : Nat := 1
def causePRIV : Nat := 2
def causeALIGN : Nat := 3
def causeADDR : Nat := 4
def causeEMPTY : Nat := 5
def causePERM : Nat := 6
def causeUCE : Nat := 7
def causeBRDIV : Nat := 8
def causeSPLITOVF : Nat := 9
def causeDFMETA : Nat := 10
def causeASYNC : Nat := 11
def causeDZW : Nat := 12
def causeBRK : Nat := 13
def causeSOFT : Nat := 14
def causeQUE : Nat := 15

/-- A lane field that names no lane (R147). -/
def noLane : Nat := 255

/-- The live slot of a group. -/
def Group.slot (g : Group) (b : Bool) : Option Split := if b then g.slotB else g.slotA

def Group.setSlot (g : Group) (b : Bool) (x : Option Split) : Group :=
  if b then { g with slotB := x } else { g with slotA := x }

/-- The executing split of a state; none where the cursor names no live split. -/
def viewOf (len : Nat) (s : State) : Option View :=
  match s.cur with
  | none => none
  | some c =>
    match s.group? c.group with
    | none => none
    | some g =>
      match g.slot c.slotB with
      | none => none
      | some sl =>
        some { s := { s with cur := none }, gid := c.group, slotB := c.slotB, enc := c.enc, g := g, sl := sl,
               next := sl.pc + BitVec.ofNat 64 len, idle := false, rest := .none, joined := false }

/-- The waybill of the executing group. -/
def View.wb (v : View) : List Byte := v.s.groupWb v.g
def View.ctx (v : View) : Nat := v.s.ctxOf v.g
def View.core (v : View) : Nat := v.s.coreOf v.g
def View.width (v : View) : Nat := v.g.width

/-- Kinds of wait whose times are told apart: 1 in `mwait`, `qpop`, `qpush`, `bwait`, `bar` or `tgate` (R209, R250), 2 for an
allocation (R210), 0 any other. -/
def Wait.kind : Wait → Nat
  | .monitor _ _ => 1
  | .batch => 1
  | .bar _ => 1
  | .tgate _ _ => 1
  | .queue _ => 1
  | .alloc _ => 2
  | _ => 0

/-- A split begins to wait: the cycle is noted, and stands while it wakes, looks again and waits in the same way (R209). -/
def sleepSplit (cycle : DWord) (sl : Split) (w : Wait) : Split :=
  let begun : Nat × DWord :=
    match sl.since with
    | some (k, t) => if k = w.kind then (k, t) else (w.kind, cycle)
    | none => (w.kind, cycle)
  { sl with wait := w, waitCount := 0, since := some begun }

/-- A split that sleeps at a barrier gives up its slot to a spilled split (R202, R244, R245). -/
def Split.atBarrier (x : Split) : Bool :=
  match x.wait with
  | .bar _ => true
  | .lanes => true
  | _ => false

/-- The earliest spilled split that wants a slot, and the others. -/
def takePending : List Split → Option (Split × List Split)
  | [] => none
  | x :: r => if x.atBarrier then (takePending r).map fun p => (p.1, x :: p.2) else some (x, r)

/-- The split-stack entries in use: records beyond the two kept on the core, and spilled splits (R200). -/
def Group.entriesUsed (g : Group) : List Nat := ((g.records.drop 2).map fun r => r.2.entry) ++ g.spilled.map fun x => x.entry

/-- The lowest split-stack entry that is free. -/
def Group.freeEntry (g : Group) : Nat :=
  ((List.range (g.entriesUsed.length + 1)).find? fun i => !g.entriesUsed.contains i).getD 0

/-- The index of a new rejoin record in split-stack entries: the lowest that no open record has (R201). -/
def Group.freeIndex (g : Group) : Nat :=
  ((List.range (g.records.length + 1)).find? fun i => !g.records.any fun r => r.2.index == i).getD 0

/-- Whether a slot is frozen by handler mode (R383). -/
def Group.frozen (g : Group) (slotB : Bool) : Bool :=
  match g.handler with
  | some h => h.other && h.slotB != slotB
  | none => false

/-- Whether a group is in handler mode and a split with these lanes is its handler split, or comes of it (R383). -/
def Group.handles (g : Group) (mask : DWord) : Bool :=
  match g.handler with
  | some h => h.lanes &&& mask != 0
  | none => false

/-- The split in a slot changes places with a spilled one: it takes that one's entry, and is the latest spilled split (R202). A
spilled split is not ready, so that both wait counts start again (R195). -/
def Group.exchange (g : Group) (b : Bool) (out into : Split) (others : List Split) : Group :=
  { g.setSlot b (some { into with run := 0, waitCount := 0 }) with spilled := others ++ [{ out with entry := into.entry, waitCount := 0 }] }

/-- An idle slot takes the spilled split of its group that was spilled earliest; a slot whose split sleeps at a barrier changes
places with it (R202). A frozen slot keeps its split (R383). -/
def Group.refill (g : Group) (b : Bool) : Group :=
  match (if g.frozen b then none else takePending g.spilled) with
  | none => g
  | some (x, r) =>
    match g.slot b with
    | none => { g.setSlot b (some { x with run := 0, waitCount := 0 }) with spilled := r }
    | some y => if y.atBarrier then g.exchange b y x r else g

/-- A live split that has issued 1,024 instructions without a `join` that acts, while a spilled split is pending, is rotated out at
an instruction boundary (R202): a split that has begun to wait at its instruction is at none until the instruction has completed,
and a frozen slot keeps its split (R383). -/
def Group.rotate (g : Group) (b : Bool) : Group :=
  match g.slot b, takePending g.spilled with
  | some x, some (y, r) =>
    if 1024 ≤ x.run ∧ x.since = none ∧ g.frozen b = false then g.exchange b x y r else g
  | _, _ => g

/-- Both slots after a split has left one, gone to sleep, woken, or come to the end of an instruction. -/
def Group.balance (g : Group) : Group :=
  if g.spilled.isEmpty then g else (((g.refill false).refill true).rotate false).rotate true

/-- Stores the executing split back after its instruction has completed. -/
def commitView (v : View) : Group :=
  let g := { v.g with active := true }
  if v.idle then (g.setSlot v.slotB none).balance
  else
    (g.setSlot v.slotB
      (some { v.sl with pc := v.next, run := if v.joined then 0 else v.sl.run + 1, waitCount := 0, wait := v.rest, since := none,
                        verdicts := [] })).balance

/-! ## Context faults (R386) -/

/-- Halts every group of a context, each at an instruction boundary of its own: until the step of the fault event finds them halted,
those that have not trapped may go on, and trap too (R148, R386). That they then halt together is DESIGN CHOICE (log 14). The first
trap's core, group and cause go into the event that is due (R145). The areas of its groups that have trapped are kept (R399), and a
pre-emption halt of its crews ends (R395). -/
def State.contextFault (s : State) (ctx core index cause : Nat) : State :=
  match s.context? ctx with
  | none => s
  | some c =>
    let keep (g : Group) : Group := if s.ctxOf g = ctx ∧ g.trapRec.isEmpty = false then { g with keep := true } else g
    let end_ (x : Crew) : Crew := if ctxOfKey x.launch = ctx ∧ x.res = .halting then { x with res := .ending } else x
    let s1 : State := { s with groups := tblMap (fun _ g => keep g) s.groups, crews := tblMap (fun _ x => end_ x) s.crews }
    if c.st = .running then
      let others := (s.groups.filter fun x => s.ctxOf x.2 == ctx).map fun x => x.1
      (s1.setContext ctx { c with st := .faulted, fault := some (core, index, cause), unhalted := others }).due (.faultEventPost ctx)
    else s1

/-- A group that has trapped in a context that has faulted has reached its halt (R386). -/
def State.haltedAt (s : State) (ctx gid : Nat) : State :=
  s.modContext ctx fun c => { c with unhalted := c.unhalted.filter fun g => g != gid }

/-- The object of a context whose `.text` holds an address. -/
def Context.objectAt (c : Context) (a : Nat) : Option CodeObj :=
  c.objects.find? fun o => decide (o.textBase.toNat ≤ a) && decide (a < o.textBase.toNat + o.textLen.toNat)

/-- Address of the handler that a group's object names (R153, R383). -/
def State.handlerOf (s : State) (g : Group) : DWord :=
  match s.context? (s.ctxOf g) with
  | none => 0
  | some c =>
    match c.objectAt (wbEntry (s.groupWb g)) with
    | some { handler := some h, .. } => h
    | _ => 0

/-! ## Taking a trap (R147, R381 to R383, R385) -/

/-- The 64-byte trap record (R147). -/
def trapRecord (g : Group) (sl : Split) (slotB : Bool) (enc : Word) (cause lane : Nat) (acting addr detail : DWord) :
    List Byte :=
  leBytes sl.pc.toNat 8 ++ leBytes enc.toNat 4 ++ leBytes cause 2 ++ leBytes lane 1 ++
    leBytes (if slotB then 1 else 0) 1 ++ leBytes sl.mask.toNat 8 ++ leBytes acting.toNat 8 ++ leBytes addr.toNat 8 ++
    leBytes detail.toNat 8 ++ leBytes g.gstat.toNat 8 ++ leBytes sl.fm.toNat 4 ++ leBytes g.splits 2 ++ leBytes 0 2

/-- Enters handler mode: the trapping split goes on at the handler with s60 holding the record's address, and the other slot is
frozen (R383). -/
def enterHandler (s : State) (g : Group) (sl : Split) (slotB : Bool) : Group :=
  let at60 := g.privBase + BitVec.ofNat 64 (trapOffset (s.groupWb g) g.width)
  let at_ : Split := { sl with pc := s.handlerOf g, wait := .none, waitCount := 0, since := none, verdicts := [] }
  { (g.setSlot slotB (some at_)).setScalar 60 at60 with
    handler := some { slotB := slotB, other := (g.slot (!slotB)).isSome, lanes := sl.mask } }

/-- Whether another group of a context is in handler mode (R395). -/
def State.handling (s : State) (ctx gid : Nat) : Bool :=
  s.groups.any fun x => x.1 != gid && x.2.handler.isSome && s.ctxOf x.2 == ctx

/-- Whether a consumed UCE or SOFT restarts the group at `%ire` instead of trapping (R385). -/
def restarts (g : Group) (cause : Nat) : Bool :=
  (cause == causeUCE || cause == causeSOFT) &&
    match g.region with
    | some r => decide (r.restarts < 3)
    | none => false

/-- Takes a trap: the record is written; the group enters its handler, or its context faults, as it does while another group of the
context is in handler mode (R395). Inside an idempotent region a
consumed error restarts the group instead (R385). The pc stays at the trapping instruction. -/
def takeTrap (s : State) (gid : Nat) (g : Group) (sl : Split) (slotB : Bool) (enc : Word) (cause lane : Nat)
    (acting addr detail : DWord) : State :=
  if restarts g cause then (s.setGroup gid { g with restart := true }).due (.idempotentRestart gid)
  else
    let g1 := { g with trapRec := trapRecord g sl slotB enc cause lane acting addr detail }
    let sl1 := { sl with wait := .none, waitCount := 0, since := none, verdicts := [] }
    if wbHandler (s.groupWb g) && g.handler.isNone && !s.handling (s.ctxOf g) gid then s.setGroup gid (enterHandler s g1 sl1 slotB)
    else
      ((s.setGroup gid (g1.setSlot slotB (some sl1))).contextFault (s.ctxOf g) (s.coreOf g) g.index cause).haltedAt (s.ctxOf g) gid

/-- The return from a handler: the first `jmpr` that the handler split executes, here one with the lanes `mask`, ends handler mode,
and the frozen slot becomes eligible again (R383). -/
def leaveHandler (g : Group) (mask : DWord) : Group := if g.handles mask then { g with handler := none } else g

/-! ## Events of a context (R178, R398) and messages of the wafer (R167) -/

/-- The link of a correspondent. -/
def State.link? (s : State) (ip : BitVec 128) : Option Link := s.links.find? fun l => l.ip == ip

/-- A correspondent that nothing has been exchanged with. -/
def Link.fresh (ip : BitVec 128) : Link where
  ip := ip
  next := 0
  seen := []
  removed := []
  losses := []
  recovering := none

/-- The link of a correspondent, new where nothing has been exchanged. -/
def State.link (s : State) (ip : BitVec 128) : Link := (s.link? ip).getD (Link.fresh ip)

/-- Puts a link back. -/
def State.setLink (s : State) (x : Link) : State :=
  { s with links := if (s.link? x.ip).isSome then s.links.map fun y => if y.ip == x.ip then x else y else s.links ++ [x] }

/-- Priority of a message under flow control (R166). -/
def msgPrio (m : Msg) : Nat := if m.kind = 5 then 5 else 3

/-- The live ports of a path set (R169, R170). -/
def State.livePorts (s : State) (removed : List Nat) : List (Nat × Port) := s.ports.filter fun p => p.2.up && !removed.contains p.1

/-- The ports that a message may go out over: the live ones whose partner has not paused its priority (R166). -/
def State.openPorts (s : State) (removed : List Nat) (prio : Nat) : List Nat :=
  ((s.livePorts removed).filter fun p => !p.2.paused.getLsbD prio).map fun p => p.1

/-- Largest IPv6 packet (R165), and the bytes of the IPv6, UDP and Dzingewin headers. -/
def packetLimit : Nat := 4224
def packetHeaders : Nat := 80

/-- Whether a message is longer than a port sends or accepts (R165). -/
def tooLong (m : Msg) : Bool := decide (packetLimit < m.payload.length + packetHeaders)

/-- Puts a message on the wire: the port that it is sprayed over counts the frame (R169, R400; log 24), as dropped where it is too
long (R165). Where every live port is paused it waits. Where no path is live its correspondent is in recovery, and the message is
tried over the paths that were removed (R166, R170). -/
def State.transmit (s : State) (m : Msg) : State :=
  let l := s.link m.peer
  let lost := (s.livePorts l.removed).isEmpty
  let s0 := if lost then s.setLink { l with recovering := l.recovering.or (some s.clock) } else s
  match s.openPorts (if lost then [] else l.removed) (msgPrio m) with
  | [] => { s0 with unsent := s0.unsent ++ [m] }
  | first :: rest =>
    let ports := first :: rest
    let port := (ports[Config.sprayPort (s.tick + m.seq.toNat) % ports.length]?).getD first
    if tooLong m then { s0 with ports := tblMod (fun p => { p with dropped := p.dropped + 1 }) s0.ports port }
    else
      let note (t : Txn) : Txn := if t.msg.peer == m.peer && t.msg.seq == m.seq then { t with port := port } else t
      { s0 with outbox := s0.outbox ++ [m], ports := tblMod (fun p => { p with sent := p.sent + 1 }) s0.ports port,
                outstanding := s0.outstanding.map note }

/-- Sends what has waited for a port. -/
def State.flush (s : State) : State := s.unsent.foldl State.transmit { s with unsent := [] }

/-- Sends a message, which takes the next sequence number toward its receiver (R167) and is kept until it is answered or
acknowledged (R170). -/
def State.send (s : State) (m : Msg) (p : Purpose) : State × DWord :=
  let l := s.link m.peer
  let m1 : Msg := { m with seq := l.next }
  let t : Txn := { msg := m1, purpose := p, port := 0, again := false, acked := false }
  (State.transmit { s.setLink { l with next := l.next + 1 } with outstanding := s.outstanding ++ [t] } m1, l.next)

/-- Sends a message that the receiver is to answer (R170). -/
def State.request (s : State) (m : Msg) (p : Purpose) : State := (s.send m p).1

/-- The answer to a request: its operand names the request's sequence number (R168). -/
def State.answer (s : State) (m : Msg) (status : Nat) (data : List Byte) : State :=
  s.request { peer := m.peer, kind := 5, flags := 0, context := m.context, status := BitVec.ofNat 8 status,
              length := BitVec.ofNat 32 data.length, seq := 0, address := 0, operand := m.seq, payload := data } .answer

/-- An answer that waits until the replica invalidations of some units have arrived (R169, R329). -/
def State.answerOnce (s : State) (m : Msg) (status : Nat) (data : List Byte) (units : List Nat) : State :=
  if s.invals.any fun x => units.contains x.1 then
    { s with owed := s.owed ++ [{ msg := m, status := status, data := data, units := units }] }
  else s.answer m status data

/-- Sends the answers whose invalidations have arrived. -/
def State.settleOwed (s : State) : State :=
  let waits (o : Owed) : Bool := s.invals.any fun x => o.units.contains x.1
  (s.owed.filter fun o => !waits o).foldl (fun t o => t.answer o.msg o.status o.data) { s with owed := s.owed.filter waits }

/-- The owner's address, or 0 while the wafer has none. That a context's events go to the present owner, whoever created it, and to
address 0 where there is none is DESIGN CHOICE (log 21): R178 speaks of the host alone. -/
def State.ownerIp (s : State) : BitVec 128 :=
  match s.owner with
  | some o => o.ip
  | none => 0

/-- An event record (R398): kind, context, sequence number and 24 bytes of data. -/
def eventRecord (kind ctx seq : Nat) (data : List Byte) : List Byte :=
  leBytes kind 1 ++ leBytes ctx 1 ++ leBytes seq 6 ++ bytesAt data 0 24

/-- The next record of a context, kept until the host acknowledges it. -/
def Context.record (c : Context) (bytes : List Byte) (msgSeq clock : DWord) : EventRec :=
  { seq := c.evSeq, bytes := bytes, msgSeq := msgSeq, sentAt := clock }

/-- The message that carries an event record, ordered after those before it (R169, R178, R398). -/
def Context.eventMsg (c : Context) (ip : BitVec 128) (ctx seq : Nat) (bytes : List Byte) : Msg where
  peer := ip
  kind := 6
  flags := 1
  context := BitVec.ofNat 8 ctx
  status := 0
  length := 32
  seq := 0
  address := c.ringBase + BitVec.ofNat 64 (32 * (seq % c.ringDepth))
  operand := 0
  payload := bytes

/-- Posts a record to a context's event channel: it is kept until acknowledged, and sent to the owner unless the channel is
halted (R178). That a record which arises while the channel is halted is numbered and kept, and sent after the resume, is DESIGN
CHOICE (log 21). -/
def State.postEvent (s : State) (ctx kind : Nat) (data : List Byte) : State :=
  match s.context? ctx with
  | none => s
  | some c =>
    let rec_ := eventRecord kind ctx c.evSeq data
    if c.channelHalted then
      s.setContext ctx { c with evSeq := c.evSeq + 1, unacked := c.unacked ++ [c.record rec_ 0 s.clock] }
    else
      let r := s.send (c.eventMsg s.ownerIp ctx c.evSeq rec_) (.event ctx c.evSeq)
      r.1.setContext ctx { c with evSeq := c.evSeq + 1, unacked := c.unacked ++ [c.record rec_ r.2 s.clock] }

/-- Size of a page of the smallest kind (R282). -/
def pageBytes : Nat := 32768

/-- The page of the smallest kind that holds an address. -/
def smallPage (va : Nat) : PageRef := { num := va / pageBytes, bits := 15 }

def PageRef.covers (p : PageRef) (va : Nat) : Bool := va / 2 ^ p.bits == p.num

/-- A page request: one kind-6 record, with the faulting address, for a page that has none outstanding (R102, R398). -/
def State.requestPage (s : State) (ctx va : Nat) (p : PageRef) : State :=
  match s.context? ctx with
  | none => s
  | some c =>
    if c.requested.contains p then s
    else (s.setContext ctx { c with requested := c.requested ++ [p] }).postEvent ctx 6 (leBytes va 8)

/-- Page requests for the addresses of a held access (R102). -/
def State.requestPages (s : State) (ctx : Nat) (l : List (Nat × PageRef)) : State :=
  l.foldl (fun s x => s.requestPage ctx x.1 x.2) s

/-! ## The end of an instruction -/

/-- A group as an instruction leaves it, with what the machine holds of it: its watch, since an access may write the watched line,
the group's own accesses included (R241), and its private area, which dirty lines of the L1 are written back to (R287). -/
def State.keepWatch (s : State) (gid : Nat) (g : Group) : Group :=
  match s.group? gid with
  | some x => { g with watch := x.watch, priv := x.priv, privBad := x.privBad }
  | none => g

/-- Puts a stop into the state; `g` is the group behind it. -/
def settleStop (v : View) (s : State) (g : Group) : Stop → State
  | .trap cause lane acting addr detail => takeTrap s v.gid (s.keepWatch v.gid g) v.sl v.slotB v.enc cause lane acting addr detail
  | .illegal => takeTrap s v.gid (s.keepWatch v.gid g) v.sl v.slotB v.enc causeILLEGAL noLane 0 0 0
  | .wait w =>
    s.setGroup v.gid ((s.keepWatch v.gid g).setSlot v.slotB (some (sleepSplit (s.coreSt v.core).cycle v.sl w))).balance
  | .hold l =>
    (s.setGroup v.gid ((s.keepWatch v.gid g).setSlot v.slotB (some (sleepSplit (s.coreSt v.core).cycle v.sl (.hold false))))).requestPages
      v.ctx l

/-- Puts an instruction's outcome into the state. -/
def settle (v : View) : Res → State
  | .done v' => v'.s.setGroup v'.gid (v'.s.keepWatch v'.gid (commitView v'))
  | .stop s why => settleStop v s v.g why
  | .report s g why => settleStop v s g why

/-- Whether the guard of a 32-bit instruction is a predicate of lanes, by its class and, in the classes XS, BRA, JR and SYS, its
minor code (R27). -/
def laneGuarded (enc : Word) : Bool :=
  let w := enc.toNat
  match natBits w 5 1 with
  | 0x0E => [0, 2, 3, 4].contains (natBits w 31 29)
  | 0x10 => natBits w 9 9 == 0
  | 0x12 => [4, 5].contains (natBits w 23 21)
  | 0x1F => [2, 4, 10].contains (natBits w 31 27)
  | k => !([0x09, 0x0B, 0x0C, 0x0D, 0x13, 0x1B, 0x1C, 0x1D, 0x1E] : List Nat).contains k

/-- The lanes of the executing split in which a guard holds; a group predicate holds in all of them or in none (R22). -/
def View.guarded (v : View) : DWord :=
  let guard := natBits v.enc.toNat 8 6
  if laneGuarded v.enc then v.sl.mask &&& v.g.pred guard else if v.g.cpred guard then v.sl.mask else 0

/-- Whether a soft error stands in a lane predicate, in a lane of `lanes` (R384). -/
def Group.predDamaged (g : Group) (k : Nat) (lanes : DWord) : Bool := k != 7 && g.damage.any (damagedLane k lanes)

/-- The lowest lane of `lanes` in which a soft error stands in a lane predicate, as a trap record names it (R147, R384). -/
def Group.predLane (g : Group) (k : Nat) (lanes : DWord) : Nat :=
  ((List.range 64).find? fun l => g.predDamaged k (lanes &&& ((1 : DWord) <<< l))).getD noLane

/-- Whether the guard of a 32-bit instruction is damaged: a lane predicate in an active lane, or a group predicate (R384). -/
def View.guardDamaged (v : View) : Bool :=
  let guard := natBits v.enc.toNat 8 6
  if laneGuarded v.enc then v.g.predDamaged guard v.sl.mask else guard != 7 && v.g.damage.contains (2, 512 + guard)

/-- Whether a 32-bit instruction whose guard stands at `lanes` reads a damaged predicate besides it: the selector of `sel` (class
SEL), or the operand of `ballot` (class XS, fn3 5) (R31, R118, R384). -/
def View.operandDamaged (v : View) (lanes : DWord) : Bool :=
  let w := v.enc.toNat
  (natBits w 5 1 == 0x0F && v.g.predDamaged (natBits w 31 29) lanes) ||
    (natBits w 5 1 == 0x0E && natBits w 31 29 == 5 && lanes != 0 && v.g.predDamaged (natBits w 17 15) v.sl.mask)

/-- Whether a 32-bit instruction reads a damaged rejoin record: `join` (class JR, code 0) reads the split's own, and `exit` (code 5)
every one of the group, since it takes its lanes out of each and pops those that it completes (R128, R130, R384; log 29). -/
def View.recordDamaged (v : View) : Bool :=
  let w := v.enc.toNat
  natBits w 5 1 == 0x12 &&
    ((natBits w 23 21 == 0 && ((v.sl.link.bind (tblGet? v.g.records)).map fun r => r.soft).getD false) ||
      (natBits w 23 21 == 5 && v.guarded != 0 && v.g.records.any fun r => r.2.soft))

/-- The lane that the record of a damaged predicate names: the lowest damaged lane that a guard, a selector or the operand of
`ballot` is read in; none of a group predicate, which is of no lane (R147). -/
def View.softLane (v : View) : Nat :=
  let w := v.enc.toNat
  if v.guardDamaged then (if laneGuarded v.enc then v.g.predLane (natBits w 8 6) v.sl.mask else noLane)
  else if natBits w 5 1 == 0x0F then v.g.predLane (natBits w 31 29) v.guarded
  else v.g.predLane (natBits w 17 15) v.sl.mask

/-- The structure with a soft error that an instruction reads before its other sources, with the lane and the acting lanes of the
record (R17, R147, R381, R384): the slot of its split, its guard, a predicate that is its operand, or a rejoin record; slots and
records are of no lane, and a damaged lane predicate names its lowest damaged lane that is read: DESIGN CHOICE (log 29). The acting
lanes are those in which the guard holds; where the guard cannot be read they are the active lanes: DESIGN CHOICE (log 29). -/
def softRead (len : Nat) (v : View) : Option (Nat × Nat × DWord) :=
  if v.sl.soft then some (3, noLane, if len = 4 && !v.guardDamaged then v.guarded else v.sl.mask)
  else if len ≠ 4 then none
  else if v.guardDamaged then some (2, v.softLane, v.sl.mask)
  else if v.operandDamaged v.guarded then some (2, v.softLane, v.guarded)
  else if v.recordDamaged then some (3, noLane, v.guarded)
  else none

/-- The trap that a damaged structure raises (R381, R384). -/
def softStop (v : View) (lane structure_ : Nat) (acting : DWord) : Res :=
  .stop v.s (.trap causeSOFT lane acting 0 (BitVec.ofNat 64 structure_))

/-- Whether an instruction stops in step 2 of R17. -/
def Res.illegal : Res → Bool
  | .stop _ .illegal => true
  | _ => false

/-- Runs an instruction of `len` bytes in the split that the cursor names: ILLEGAL by its encoding comes first, then the soft error
of a structure that it reads (R17, R384). -/
def runSplit (len : Nat) (body : View → Res) (s : State) : Host.Outcome State Fault Refusal :=
  match viewOf len s with
  | none => .fault .noSplit
  | some v =>
    match softRead len v with
    | some (k, lane, acting) => .next (settle v (if (body v).illegal then body v else softStop v lane k acting))
    | none => .next (settle v (body v))

/-- The earliest of some failures. -/
def earliest (l : List Failure) : Option Failure :=
  l.foldl (fun b f =>
    match b with
    | none => some f
    | some x => if f.num < x.num then some f else some x) none

/-- Whether a split is held on a translation fault: its group issues nothing meanwhile (R102; log 15). -/
def Split.held (x : Split) : Bool := x.wait == .hold false

/-- Whether a split is held, or has been answered and has not executed again since. -/
def Split.onHold (x : Split) : Bool := x.held || x.wait == .hold true

def Wait.isAck : Wait → Bool
  | .ack => true
  | _ => false

/-- Wakes the splits of a group whose wait satisfies `p`: they execute their instruction again. -/
def Group.wake (p : Wait → Bool) (g : Group) : Group :=
  let f (x : Split) : Split := if p x.wait then { x with wait := .none } else x
  { g with slotA := g.slotA.map f, slotB := g.slotB.map f, spilled := g.spilled.map f }

/-- A split goes on after its instruction. -/
def Split.passed (x : Split) : Split := { x with wait := .none, pc := x.pc + 4, run := x.run + 1, since := none }

/-- The splits of a group whose wait satisfies `p` stand behind their instruction; the slots stay as they are, as they must while a
split of the group executes. -/
def Group.passHere (p : Wait → Bool) (g : Group) : Group :=
  let f (x : Split) : Split := if p x.wait then x.passed else x
  { g with slotA := g.slotA.map f, slotB := g.slotB.map f, spilled := g.spilled.map f, active := true }

/-- Lets the splits of a group whose wait satisfies `p` go on after their instruction. -/
def Group.pass (p : Wait → Bool) (g : Group) : Group := (g.passHere p).balance

/-- Lets the splits of a group that `p` admits go on after their instruction, each with `f` of it done to the group's scalars. -/
def Group.passEach (p : Split → Bool) (f : Group → Split → Group) (g : Group) : Group :=
  let l := (g.slotA.toList ++ g.slotB.toList ++ g.spilled).filter p
  let step (x : Split) : Split := if p x then x.passed else x
  let g1 := l.foldl f g
  Group.balance { g1 with slotA := g1.slotA.map step, slotB := g1.slotB.map step, spilled := g1.spilled.map step, active := true }

/-- Every split of a group. -/
def Group.allSplits (g : Group) : List Split := g.slotA.toList ++ g.slotB.toList ++ g.spilled

end Sys2Proof.Machine
end

