-- ==== Sys2Proof/Machine/Flags.lean ====
section
/-! DEFINITION. The status bits of `%gstat`, and the fields of `%gc`, `%fm` and `%mst` (R134, R135, R251, R272). -/

namespace Sys2Proof.Machine

/-- Bits of `%gstat` (R134); bits 3:0 are the flags of lane arithmetic. -/
def bitVAC : DWord := 0x10
def bitSCOPEMIS : DWord := 0x20
def bitSYNCMIS : DWord := 0x40
def bitDZWERR : DWord := 0x80

/-- The `%gstat` bits of arithmetic flags (R81). -/
def flagBits (f : Flags) : DWord := f.zeroExtend 64

/-- The flags that any of some lanes raises (R81). -/
def anyFlags (l : List Nat) (f : Nat → Flags) : Flags := l.foldl (fun a i => a ||| f i) 0

def Group.fetrap (g : Group) : Bool := g.gc.getLsbD 0
def Group.asynctrap (g : Group) : Bool := g.gc.getLsbD 1
def Group.debug (g : Group) : Bool := g.gc.getLsbD 2

/-- `%fm.fa`, `%fm.fb`: element formats of matrix operands (R251). -/
def fmFa (f : Word) : Nat := natBits f.toNat 3 0
def fmFb (f : Word) : Nat := natBits f.toNat 7 4
/-- `%fm.fc`: accumulator format (R251). -/
def fmFc (f : Word) : Nat := natBits f.toNat 9 8
/-- `%fm.rnd`: rounding mode of lane arithmetic (R84, R251). -/
def fmRnd (f : Word) : Nat := natBits f.toNat 11 10
/-- `%fm.ftz` (R84, R251). -/
def fmFtz (f : Word) : Bool := f.getLsbD 12

/-- Write one to clear (R135). -/
def writeOneClear (old v : DWord) : DWord := old &&& ~~~v

end Sys2Proof.Machine
end

