-- ==== Sys2Proof/Machine/Operands.lean ====
section
/-! DEFINITION. The operand forms: register names against the waybill's counts, guards and acting lanes, sources with their four
states, register allocation, and the shared bodies of lane, scalar and cross-lane instructions. -/

namespace Sys2Proof.Machine

/-! ## Names (R206) -/

/-- A vector register that the kernel may name. -/
def vecNamed (w : List Byte) (r : Nat) : Bool := decide (r < wbVregs w)

/-- A scalar register that the kernel may name: below the count, or s60 to s63. -/
def scalNamed (w : List Byte) (r : Nat) : Bool := decide (r < wbSregs w) || decide (60 ≤ r)

/-- ILLEGAL where a named register lies outside the counts: in the place of step 2 of R17, whatever the guard. -/
def nameStop (v : View) (vs ss : List Nat) : Option Stop :=
  if vs.all (vecNamed v.wb) && ss.all (scalNamed v.wb) then none else some .illegal

/-- The registers of a pair. -/
def pairOf (r : Nat) : List Nat := [r, r + 1]

/-- The registers that hold `n` 32-bit words from `r` on (R78). -/
def regsFrom (r n : Nat) : List Nat := (List.range n).map (r + ·)

/-! ## Guards and acting lanes (R22, R77) -/

/-- The acting lanes of a p-guarded instruction. -/
def View.acting (v : View) (guard : Nat) : DWord := v.sl.mask &&& v.g.pred guard

/-! ## Sources (R79, R111) -/

/-- The number of the first register that is empty in a lane. -/
def firstEmpty (g : Group) (regs : List Nat) (l : Nat) : Nat := (regs.find? fun r => g.laneEmpty r l).getD 0

/-- Waits while a lane of a source is empty, or traps EMPTY under FETRAP, naming the lowest empty lane. -/
def emptyLaneStop (v : View) (lanes : List Nat) (acting : DWord) (regs : List Nat) : Option Stop :=
  match lanes.find? fun l => regs.any fun r => v.g.laneEmpty r l with
  | none => none
  | some l =>
    if v.g.fetrap then some (.trap causeEMPTY l acting 0 (BitVec.ofNat 64 (firstEmpty v.g regs l))) else some (.wait .source)

/-- Whether a scalar is empty. -/
def Group.scalarEmpty (g : Group) (r : Nat) : Bool :=
  match (g.scalar r).st with
  | .empty _ => true
  | _ => false

/-- Waits while a scalar source is empty, or traps EMPTY under FETRAP (R111). Where several sources are empty, the record names the
first in the order of the operands, a lane source before a scalar one: DESIGN CHOICE (log 33), the spec does not say. -/
def emptyScalarStop (v : View) (acting : DWord) (regs : List Nat) : Option Stop :=
  match regs.find? fun r => v.g.scalarEmpty r with
  | none => none
  | some r =>
    if v.g.fetrap then some (.trap causeEMPTY noLane acting 0 (BitVec.ofNat 64 (r + 64))) else some (.wait .source)

/-- The trap that reading a poisoned or damaged register raises (R79, R104, R384); `soft` is the structure of a soft error. -/
def poisonStop (lane : Nat) (acting : DWord) (soft : Nat) (c : CellSt) : Stop :=
  match c with
  | .poisoned true a => .trap causeDZW lane acting a 0
  | .poisoned false a => .trap causeUCE lane acting a 0
  | _ => .trap causeSOFT lane acting 0 (BitVec.ofNat 64 soft)

/-- Traps where a lane of a source is poisoned, naming the lowest poisoned lane. -/
def poisonLaneStop (v : View) (lanes : List Nat) (acting : DWord) (regs : List Nat) : Option Stop :=
  lanes.findSome? fun l => (regs.findSome? fun r => v.g.lanePoison r l).map (poisonStop l acting 1)

/-- The states of sources whose registers differ from lane to lane, resolved together over all lanes: waits or traps at the lowest
empty lane, else traps at the lowest poisoned one (R79). `empties` and `poisons` give the registers that count in a lane. -/
def mixedLaneStop (v : View) (acting : DWord) (empties poisons : Nat → List Nat) : Option Stop :=
  (List.range 64).findSome? (fun l => emptyLaneStop v [l] acting (empties l)) <|>
    (List.range 64).findSome? fun l => poisonLaneStop v [l] acting (poisons l)

/-- Traps where a scalar source is poisoned (R143). -/
def poisonScalarStop (v : View) (acting : DWord) (regs : List Nat) : Option Stop :=
  regs.findSome? fun r =>
    if (v.g.scalar r).st.bad then some (poisonStop noLane acting 2 (v.g.scalar r).st) else none

/-- The states of all sources together: first every empty one, then every poisoned one (R79). -/
def sourceStop (v : View) (lanes : List Nat) (acting : DWord) (vs ss : List Nat) : Option Stop :=
  emptyLaneStop v lanes acting vs <|> emptyScalarStop v acting ss <|> poisonLaneStop v lanes acting vs <|>
    poisonScalarStop v acting ss

/-- `%gstat.VAC` where an acting lane reads a vacant register (R79). -/
def vacBits (g : Group) (lanes : List Nat) (vs : List Nat) : DWord :=
  if !lanes.isEmpty && vs.any g.vacant then bitVAC else 0

/-- Whether loads or value-returning atomics of a group have not arrived (R133, R387). -/
def State.loadsOut (s : State) (gid : Nat) (g : Group) : Bool :=
  !g.arriving.isEmpty || s.outstanding.any fun t =>
    match t.purpose with
    | .load x _ _ _ _ _ => x == gid
    | _ => false

/-! ## Allocation (R205, R208, R210) -/

/-- Octet-registers of a vector file (R205). -/
def fileRegs : Nat := 32768

/-- Octet-registers that a group holds. -/
def Group.held (g : Group) : Nat := if g.swapped then 0 else g.vregs.length * (g.width / 8)

/-- The resident crews of a core. -/
def State.residents (s : State) (core : Nat) : List (Nat × Crew) :=
  s.crews.filter fun c => c.2.core == core && (c.2.res == .resident || c.2.res == .halting || c.2.res == .ending)

/-- The groups of a crew that have not ended. -/
def State.groupsOf (s : State) (c : Crew) : List (Nat × Group) :=
  c.groups.filterMap fun g => (s.group? g).map fun x => (g, x)

/-- Octet-registers of the pool of a core. -/
def State.pool (s : State) (core : Nat) : Nat :=
  fileRegs - ((s.residents core).map fun c => ((s.groupsOf c.2).map fun g => g.2.held).sum).sum

/-- The favoured crew of a core: the resident crew placed earliest (R210). -/
def State.favoured (s : State) (core : Nat) : Option (Nat × Crew) :=
  (s.residents core).foldl (fun best c =>
    match best with
    | none => some c
    | some b => if c.2.order < b.2.order then some c else some b) none

/-- The favoured crew's deficit: declared octet-registers that its groups do not hold (R210). -/
def State.deficit (s : State) (c : Crew) : Nat :=
  ((s.groupsOf c).map fun g => wbVregs (s.wbOf c.launch) * (g.2.width / 8) - g.2.held).sum

/-- Whether an allocation of `n` octet-registers is served (R210). -/
def State.allocServed (s : State) (core crew n : Nat) : Bool :=
  n == 0 ||
    match s.favoured core with
    | none => decide (n ≤ s.pool core)
    | some (f, c) => if f = crew then decide (n ≤ s.pool core) else decide (n + s.deficit c ≤ s.pool core)

/-- The octet-registers that writing some registers allocates. -/
def Group.needs (g : Group) (lanes ds : List Nat) : Nat :=
  if lanes.isEmpty then 0 else (ds.filter g.vacant).length * (g.width / 8)

/-- The destination awaits allocation (R208). -/
def allocStop (v : View) (lanes ds : List Nat) : Option Stop :=
  if v.s.allocServed v.core v.g.crew (v.g.needs lanes ds) then none else some (.wait (.alloc (v.g.needs lanes ds)))

/-! ## Shared bodies -/

/-- A lane instruction that computes one 32-bit destination (R77): `vs` and `ss` are its vector and scalar sources, `last` the
sources freed by last-read bits, `f` the value and the flags of a lane. -/
def laneBody (guard d : Nat) (vs ss last : List Nat) (f : View → Nat → FRes) (v : View) : Res :=
  let acting := v.acting guard
  let lanes := lanesOf acting
  guardStop v (nameStop v (d :: vs) ss) <|
  guardStop v (sourceStop v lanes acting vs (if lanes.isEmpty then [] else ss)) <|
  guardStop v (allocStop v lanes [d]) <|
  .done { v with g := ((v.g.writeLanes d lanes fun l => (f v l).1).freeLast last [d]).raise
                        (vacBits v.g lanes vs ||| flagBits (anyFlags lanes fun l => (f v l).2)) }

/-- A scalar instruction that computes one 64-bit destination (R112, R113). -/
def scalarBody (guard d : Nat) (ss : List Nat) (f : View → DWord) (v : View) : Res :=
  guardStop v (nameStop v [] (d :: ss)) <|
  if v.g.cpred guard then
    guardStop v (sourceStop v [] v.sl.mask [] ss) <|
    .done { v with g := v.g.setScalar d (f v) }
  else .done v

/-- A register freed by a last-read bit. -/
def lastIf (x : BitVec 1) (r : Nat) : List Nat := if x = 1 then [r] else []

/-- The vector value of a source. -/
def View.lane (v : View) (r l : Nat) : Word := v.g.lane r l

/-- Bits 31:0 of a scalar source (R31, R118). -/
def View.low (v : View) (r : Nat) : Word := (v.g.sval r).truncate 32

/-- The 64-bit value of a register pair (R78). -/
def View.pair (v : View) (r l : Nat) : DWord := (v.g.lane (r + 1) l ++ v.g.lane r l : BitVec 64)

/-- Rounding and flush of the executing slot (R84). -/
def View.rnd (v : View) : Nat := fmRnd v.sl.fm
def View.ftz (v : View) : Bool := fmFtz v.sl.fm

end Sys2Proof.Machine
end

