-- ==== Sys2Proof/Machine/Lane.lean ====
section
/-! DEFINITION. The lane instructions that compute in registers: the 16-bit forms, IA, IB, IC, VI, FA, FB, VU and SEL (R19, R82 to
R96). -/

namespace Sys2Proof.Machine

/-! ## Integer results of a lane (R82, R90) -/

/-- Bits 63:32 of the signed product. -/
def mulhSigned (a b : Word) : Word := BitVec.ofInt 32 (a.toInt * b.toInt / 2 ^ 32)

/-- Bits 63:32 of the unsigned product. -/
def mulhUnsigned (a b : Word) : Word := BitVec.ofNat 32 (a.toNat * b.toNat / 2 ^ 32)

/-- Smaller and larger of two words, signed and unsigned. -/
def minSigned {n : Nat} (a b : BitVec n) : BitVec n := if a.slt b then a else b
def maxSigned {n : Nat} (a b : BitVec n) : BitVec n := if a.slt b then b else a
def minUnsigned {n : Nat} (a b : BitVec n) : BitVec n := if a.ult b then a else b
def maxUnsigned {n : Nat} (a b : BitVec n) : BitVec n := if a.ult b then b else a

/-- Shifts by bits 4:0 of the count (R82). -/
def shiftLeft32 (a b : Word) : Word := a <<< (b.toNat % 32)
def shiftRight32 (a b : Word) : Word := a >>> (b.toNat % 32)
def shiftRightSigned32 (a b : Word) : Word := a.sshiftRight (b.toNat % 32)

/-- Number of 1 bits among the low `n` bits. -/
def popCount (x n : Nat) : Nat := ((List.range n).filter fun i => natBit x i).length

/-- Number of leading zeros of an `n`-bit value; `n` for 0 (R90, R113). -/
def leadingZeros (x n : Nat) : Nat := n - bitLen (x % 2 ^ n)

/-- Bit k moved to bit 31 - k (R90). -/
def bitReverse (a : Word) : Word :=
  BitVec.ofNat 32 ((List.range 32).foldl (fun r k => if natBit a.toNat k then r + 2 ^ (31 - k) else r) 0)

/-- Absolute value modulo 2^32 (R90). -/
def absWord (a : Word) : Word := if a.msb then -a else a

/-- The sum s[N] + zext(a) of `addw` (R83). -/
def addWide (sn : DWord) (a : Word) : DWord := sn + a.zeroExtend 64

/-! ## The forms -/

/-- A form with two vector sources (IA, IB, FA). -/
def vrForm (g : BitVec 3) (d a b : BitVec 6) (x y : BitVec 1) (f : View → Word → Word → FRes) (s : State) :
    Host.Outcome State Fault Refusal :=
  runSplit 4 (laneBody g.toNat d.toNat [a.toNat, b.toNat] [] (lastIf x a.toNat ++ lastIf y b.toNat)
    fun v l => f v (v.lane a.toNat l) (v.lane b.toNat l)) s

/-- A form with two vector sources that also reads its destination (mad, ffma, ffms): the destination is never freed (R30). -/
def vrAccForm (g : BitVec 3) (d a b : BitVec 6) (x y : BitVec 1) (f : View → Word → Word → Word → FRes) (s : State) :
    Host.Outcome State Fault Refusal :=
  runSplit 4 (laneBody g.toNat d.toNat [a.toNat, b.toNat, d.toNat] [] (lastIf x a.toNat ++ lastIf y b.toNat)
    fun v l => f v (v.lane a.toNat l) (v.lane b.toNat l) (v.lane d.toNat l)) s

/-- A form with a vector and a scalar source (IC, FB): the scalar's bits 31:0 (R31). -/
def vsForm (g : BitVec 3) (d a b : BitVec 6) (x : BitVec 1) (f : View → Word → Word → FRes) (s : State) :
    Host.Outcome State Fault Refusal :=
  runSplit 4 (laneBody g.toNat d.toNat [a.toNat] [b.toNat] (lastIf x a.toNat)
    fun v l => f v (v.lane a.toNat l) (v.low b.toNat)) s

/-- A form with a vector and a scalar source that also reads its destination. -/
def vsAccForm (g : BitVec 3) (d a b : BitVec 6) (x : BitVec 1) (f : View → Word → Word → Word → FRes) (s : State) :
    Host.Outcome State Fault Refusal :=
  runSplit 4 (laneBody g.toNat d.toNat [a.toNat, d.toNat] [b.toNat] (lastIf x a.toNat)
    fun v l => f v (v.lane a.toNat l) (v.low b.toNat) (v.lane d.toNat l)) s

/-- A form with a vector source and an immediate (VI). -/
def viForm (g : BitVec 3) (d a : BitVec 6) (imm : Word) (f : Word → Word → Word) (s : State) :
    Host.Outcome State Fault Refusal :=
  runSplit 4 (laneBody g.toNat d.toNat [a.toNat] [] [] fun v l => (f (v.lane a.toNat l) imm, 0)) s

/-- A unary form (VU). -/
def vuForm (g : BitVec 3) (d a : BitVec 6) (x : BitVec 1) (f : View → Word → FRes) (s : State) :
    Host.Outcome State Fault Refusal :=
  runSplit 4 (laneBody g.toNat d.toNat [a.toNat] [] (lastIf x a.toNat) fun v l => f v (v.lane a.toNat l)) s

/-- A 16-bit form d := d op b (R19): unguarded, no last-read bit. -/
def shortForm (d : BitVec 6) (b : BitVec 5) (f : View → Word → Word → FRes) (s : State) :
    Host.Outcome State Fault Refusal :=
  runSplit 2 (laneBody 7 d.toNat [d.toNat, b.toNat] [] [] fun v l => f v (v.lane d.toNat l) (v.lane b.toNat l)) s

/-- A 16-bit form d := d op imm (R19). -/
def shortImmForm (d : BitVec 6) (imm : Word) (f : Word → Word → Word) (s : State) : Host.Outcome State Fault Refusal :=
  runSplit 2 (laneBody 7 d.toNat [d.toNat] [] [] fun v l => (f (v.lane d.toNat l) imm, 0)) s

/-- An integer operation raises no flag (R82). -/
def plain2 (f : Word → Word → Word) (_ : View) (a b : Word) : FRes := (f a b, 0)
def plain1 (f : Word → Word) (_ : View) (a : Word) : FRes := (f a, 0)
def plain3 (f : Word → Word → Word → Word) (_ : View) (a b d : Word) : FRes := (f a b d, 0)

/-- d + a × b (R82). -/
def madWord (a b d : Word) : Word := d + a * b


/-! ## The 16-bit forms (R18, R19, R96) -/

/-- 16-bit mov: copies vector register b into d in every active lane (R96). -/
def execShortMov (d : BitVec 6) (b : BitVec 5) (s : State) : Host.Outcome State Fault Refusal :=
  runSplit 2 (laneBody 7 d.toNat [b.toNat] [] [] fun v l => (v.lane b.toNat l, 0)) s

/-- 16-bit add.i32: d := d + b in every active lane, wrapping modulo 2^32 (R96). -/
def execShortAddI32 (d : BitVec 6) (b : BitVec 5) (s : State) : Host.Outcome State Fault Refusal :=
  shortForm d b (plain2 (· + ·)) s

/-- 16-bit sub.i32: d := d - b in every active lane (R96). -/
def execShortSubI32 (d : BitVec 6) (b : BitVec 5) (s : State) : Host.Outcome State Fault Refusal :=
  shortForm d b (plain2 (· - ·)) s

/-- 16-bit bitwise and of d with b (R96). -/
def execShortAnd (d : BitVec 6) (b : BitVec 5) (s : State) : Host.Outcome State Fault Refusal :=
  shortForm d b (plain2 (· &&& ·)) s

/-- 16-bit bitwise or of d with b (R96). -/
def execShortOr (d : BitVec 6) (b : BitVec 5) (s : State) : Host.Outcome State Fault Refusal :=
  shortForm d b (plain2 (· ||| ·)) s

/-- 16-bit bitwise xor of d with b (R96). -/
def execShortXor (d : BitVec 6) (b : BitVec 5) (s : State) : Host.Outcome State Fault Refusal :=
  shortForm d b (plain2 (· ^^^ ·)) s

/-- 16-bit shift left of d by b[4:0] (R96). -/
def execShortShl (d : BitVec 6) (b : BitVec 5) (s : State) : Host.Outcome State Fault Refusal :=
  shortForm d b (plain2 shiftLeft32) s

/-- 16-bit logical shift right of d by b[4:0] (R96). -/
def execShortShrN32 (d : BitVec 6) (b : BitVec 5) (s : State) : Host.Outcome State Fault Refusal :=
  shortForm d b (plain2 shiftRight32) s

/-- 16-bit arithmetic shift right of d by b[4:0] (R96). -/
def execShortShrS32 (d : BitVec 6) (b : BitVec 5) (s : State) : Host.Outcome State Fault Refusal :=
  shortForm d b (plain2 shiftRightSigned32) s

/-- Writes the sign-extended imm5 into d in every active lane without reading a register (R96). -/
def execMovi (d : BitVec 6) (i : BitVec 5) (s : State) : Host.Outcome State Fault Refusal :=
  runSplit 2 (laneBody 7 d.toNat [] [] [] fun _ _ => (i.signExtend 32, 0)) s

/-- 16-bit addi: d := d + sext(imm5) (R96). -/
def execShortAddi (d : BitVec 6) (i : BitVec 5) (s : State) : Host.Outcome State Fault Refusal :=
  shortImmForm d (i.signExtend 32) (· + ·) s

/-- 16-bit shli: d := d << imm5 (R96). -/
def execShortShli (d : BitVec 6) (i : BitVec 5) (s : State) : Host.Outcome State Fault Refusal :=
  shortImmForm d (i.zeroExtend 32) shiftLeft32 s

/-- 16-bit FP32 add of b into d under the slot's rounding mode (R96). -/
def execShortFaddF32 (d : BitVec 6) (b : BitVec 5) (s : State) : Host.Outcome State Fault Refusal :=
  shortForm d b (fun v => f32Add v.rnd v.ftz) s

/-- 16-bit FP32 multiply of d by b (R96). -/
def execShortFmulF32 (d : BitVec 6) (b : BitVec 5) (s : State) : Host.Outcome State Fault Refusal :=
  shortForm d b (fun v => f32Mul v.rnd v.ftz) s

/-- 16-bit FP32 maximum of d and b (R96). -/
def execShortFmaxF32 (d : BitVec 6) (b : BitVec 5) (s : State) : Host.Outcome State Fault Refusal :=
  shortForm d b (fun v => f32MinMax true v.ftz) s

/-- 16-bit FP32 minimum of d and b (R96). -/
def execShortFminF32 (d : BitVec 6) (b : BitVec 5) (s : State) : Host.Outcome State Fault Refusal :=
  shortForm d b (fun v => f32MinMax false v.ftz) s

/-! ## IA, IB (R82) -/

/-- IA add: a + b per acting lane, wrapping (R82). -/
def execAddI32 (g : BitVec 3) (d a b : BitVec 6) (x y : BitVec 1) (s : State) : Host.Outcome State Fault Refusal :=
  vrForm g d a b x y (plain2 (· + ·)) s

/-- IA sub: a - b per acting lane (R82). -/
def execSubI32 (g : BitVec 3) (d a b : BitVec 6) (x y : BitVec 1) (s : State) : Host.Outcome State Fault Refusal :=
  vrForm g d a b x y (plain2 (· - ·)) s

/-- IA mul: low 32 bits of a × b (R82). -/
def execMulI32 (g : BitVec 3) (d a b : BitVec 6) (x y : BitVec 1) (s : State) : Host.Outcome State Fault Refusal :=
  vrForm g d a b x y (plain2 (· * ·)) s

/-- IA signed high multiply (R82). -/
def execMulhS32 (g : BitVec 3) (d a b : BitVec 6) (x y : BitVec 1) (s : State) : Host.Outcome State Fault Refusal :=
  vrForm g d a b x y (plain2 mulhSigned) s

/-- IA unsigned high multiply (R82). -/
def execMulhN32 (g : BitVec 3) (d a b : BitVec 6) (x y : BitVec 1) (s : State) : Host.Outcome State Fault Refusal :=
  vrForm g d a b x y (plain2 mulhUnsigned) s

/-- IA signed minimum (R82). -/
def execMinS32 (g : BitVec 3) (d a b : BitVec 6) (x y : BitVec 1) (s : State) : Host.Outcome State Fault Refusal :=
  vrForm g d a b x y (plain2 minSigned) s

/-- IA signed maximum (R82). -/
def execMaxS32 (g : BitVec 3) (d a b : BitVec 6) (x y : BitVec 1) (s : State) : Host.Outcome State Fault Refusal :=
  vrForm g d a b x y (plain2 maxSigned) s

/-- IA multiply-add: d + a × b, reading d as a source (R82). -/
def execMadI32 (g : BitVec 3) (d a b : BitVec 6) (x y : BitVec 1) (s : State) : Host.Outcome State Fault Refusal :=
  vrAccForm g d a b x y (plain3 madWord) s

/-- IB bitwise and (R82). -/
def execAnd (g : BitVec 3) (d a b : BitVec 6) (x y : BitVec 1) (s : State) : Host.Outcome State Fault Refusal :=
  vrForm g d a b x y (plain2 (· &&& ·)) s

/-- IB bitwise or (R82). -/
def execOr (g : BitVec 3) (d a b : BitVec 6) (x y : BitVec 1) (s : State) : Host.Outcome State Fault Refusal :=
  vrForm g d a b x y (plain2 (· ||| ·)) s

/-- IB bitwise xor (R82). -/
def execXor (g : BitVec 3) (d a b : BitVec 6) (x y : BitVec 1) (s : State) : Host.Outcome State Fault Refusal :=
  vrForm g d a b x y (plain2 (· ^^^ ·)) s

/-- IB shift left by b[4:0] (R82). -/
def execShl (g : BitVec 3) (d a b : BitVec 6) (x y : BitVec 1) (s : State) : Host.Outcome State Fault Refusal :=
  vrForm g d a b x y (plain2 shiftLeft32) s

/-- IB logical shift right (R82). -/
def execShrN32 (g : BitVec 3) (d a b : BitVec 6) (x y : BitVec 1) (s : State) : Host.Outcome State Fault Refusal :=
  vrForm g d a b x y (plain2 shiftRight32) s

/-- IB arithmetic shift right (R82). -/
def execShrS32 (g : BitVec 3) (d a b : BitVec 6) (x y : BitVec 1) (s : State) : Host.Outcome State Fault Refusal :=
  vrForm g d a b x y (plain2 shiftRightSigned32) s

/-- IB unsigned minimum (R82). -/
def execMinN32 (g : BitVec 3) (d a b : BitVec 6) (x y : BitVec 1) (s : State) : Host.Outcome State Fault Refusal :=
  vrForm g d a b x y (plain2 minUnsigned) s

/-- IB unsigned maximum (R82). -/
def execMaxN32 (g : BitVec 3) (d a b : BitVec 6) (x y : BitVec 1) (s : State) : Host.Outcome State Fault Refusal :=
  vrForm g d a b x y (plain2 maxUnsigned) s

/-! ## IC (R82, R83) -/

/-- IC add of a scalar's low 32 bits to each lane (R82). -/
def execAddI32Ic (g : BitVec 3) (d a b : BitVec 6) (x : BitVec 1) (s : State) : Host.Outcome State Fault Refusal :=
  vsForm g d a b x (plain2 (· + ·)) s

/-- IC subtract of a scalar from each lane (a - s) (R82). -/
def execSubI32Ic (g : BitVec 3) (d a b : BitVec 6) (x : BitVec 1) (s : State) : Host.Outcome State Fault Refusal :=
  vsForm g d a b x (plain2 (· - ·)) s

/-- IC multiply by a scalar (R82). -/
def execMulI32Ic (g : BitVec 3) (d a b : BitVec 6) (x : BitVec 1) (s : State) : Host.Outcome State Fault Refusal :=
  vsForm g d a b x (plain2 (· * ·)) s

/-- IC bitwise and with a scalar (R82). -/
def execAndIc (g : BitVec 3) (d a b : BitVec 6) (x : BitVec 1) (s : State) : Host.Outcome State Fault Refusal :=
  vsForm g d a b x (plain2 (· &&& ·)) s

/-- IC bitwise or with a scalar (R82). -/
def execOrIc (g : BitVec 3) (d a b : BitVec 6) (x : BitVec 1) (s : State) : Host.Outcome State Fault Refusal :=
  vsForm g d a b x (plain2 (· ||| ·)) s

/-- IC shift left by a scalar count (R82). -/
def execShlIc (g : BitVec 3) (d a b : BitVec 6) (x : BitVec 1) (s : State) : Host.Outcome State Fault Refusal :=
  vsForm g d a b x (plain2 shiftLeft32) s

/-- IC multiply-add with a scalar multiplier (R82). -/
def execMadI32Ic (g : BitVec 3) (d a b : BitVec 6) (x : BitVec 1) (s : State) : Host.Outcome State Fault Refusal :=
  vsAccForm g d a b x (plain3 madWord) s

/-- The body of `addw`: the pair d:d+1 := s[b] + zext(a) (R83). -/
def addwBody (guard d a b : Nat) (last : List Nat) (v : View) : Res :=
  let acting := v.acting guard
  let lanes := lanesOf acting
  let sum (l : Nat) : DWord := addWide (v.g.sval b) (v.lane a l)
  guardStop v (nameStop v (a :: pairOf d) [b]) <|
  guardStop v (sourceStop v lanes acting [a] (if lanes.isEmpty then [] else [b])) <|
  guardStop v (allocStop v lanes (pairOf d)) <|
  .done { v with g := ((((v.g.writeLanes d lanes fun l => (sum l).truncate 32).writeLanes (d + 1) lanes
                          fun l => (sum l >>> 32).truncate 32).freeLast last (pairOf d))).raise (vacBits v.g lanes [a]) }

/-- Writes the 64-bit sum of a scalar and the zero-extended lane value to a register pair (R83). -/
def execAddw (g : BitVec 3) (d a b : BitVec 6) (x : BitVec 1) (s : State) : Host.Outcome State Fault Refusal :=
  runSplit 4 (addwBody g.toNat d.toNat a.toNat b.toNat (lastIf x a.toNat)) s

/-! ## FA, FB (R84 to R88) -/

/-- FA FP32 add under the slot's rounding (R85). -/
def execFaddF32 (g : BitVec 3) (d a b : BitVec 6) (x y : BitVec 1) (s : State) : Host.Outcome State Fault Refusal :=
  vrForm g d a b x y (fun v => f32Add v.rnd v.ftz) s

/-- FA FP32 subtract (R85). -/
def execFsubF32 (g : BitVec 3) (d a b : BitVec 6) (x y : BitVec 1) (s : State) : Host.Outcome State Fault Refusal :=
  vrForm g d a b x y (fun v => f32Sub v.rnd v.ftz) s

/-- FA FP32 multiply (R85). -/
def execFmulF32 (g : BitVec 3) (d a b : BitVec 6) (x y : BitVec 1) (s : State) : Host.Outcome State Fault Refusal :=
  vrForm g d a b x y (fun v => f32Mul v.rnd v.ftz) s

/-- FA fused multiply-add a × b + d with one rounding (R85). -/
def execFfmaF32 (g : BitVec 3) (d a b : BitVec 6) (x y : BitVec 1) (s : State) : Host.Outcome State Fault Refusal :=
  vrAccForm g d a b x y (fun v => f32Fma v.rnd v.ftz) s

/-- FA fused d - a × b with one rounding (R85). -/
def execFfmsF32 (g : BitVec 3) (d a b : BitVec 6) (x y : BitVec 1) (s : State) : Host.Outcome State Fault Refusal :=
  vrAccForm g d a b x y (fun v => f32Fms v.rnd v.ftz) s

/-- FA FP32 minimum with NaN-dropping rules (R86). -/
def execFminF32 (g : BitVec 3) (d a b : BitVec 6) (x y : BitVec 1) (s : State) : Host.Outcome State Fault Refusal :=
  vrForm g d a b x y (fun v => f32MinMax false v.ftz) s

/-- FA FP32 maximum with NaN-dropping rules (R86). -/
def execFmaxF32 (g : BitVec 3) (d a b : BitVec 6) (x y : BitVec 1) (s : State) : Host.Outcome State Fault Refusal :=
  vrForm g d a b x y (fun v => f32MinMax true v.ftz) s

/-- Converts a and b to BF16 with RNE and packs them into one lane word (R88). -/
def execPackBf16x2 (g : BitVec 3) (d a b : BitVec 6) (x y : BitVec 1) (s : State) : Host.Outcome State Fault Refusal :=
  vrForm g d a b x y (fun v => f32Pack v.ftz) s

/-- FB FP32 add of a scalar operand (R85). -/
def execFaddF32Fb (g : BitVec 3) (d a b : BitVec 6) (x : BitVec 1) (s : State) : Host.Outcome State Fault Refusal :=
  vsForm g d a b x (fun v => f32Add v.rnd v.ftz) s

/-- FB FP32 subtract of a scalar operand (R85). -/
def execFsubF32Fb (g : BitVec 3) (d a b : BitVec 6) (x : BitVec 1) (s : State) : Host.Outcome State Fault Refusal :=
  vsForm g d a b x (fun v => f32Sub v.rnd v.ftz) s

/-- FB FP32 multiply by a scalar operand (R85). -/
def execFmulF32Fb (g : BitVec 3) (d a b : BitVec 6) (x : BitVec 1) (s : State) : Host.Outcome State Fault Refusal :=
  vsForm g d a b x (fun v => f32Mul v.rnd v.ftz) s

/-- FB fused multiply-add with a scalar multiplier (R85). -/
def execFfmaF32Fb (g : BitVec 3) (d a b : BitVec 6) (x : BitVec 1) (s : State) : Host.Outcome State Fault Refusal :=
  vsAccForm g d a b x (fun v => f32Fma v.rnd v.ftz) s

/-- FB fused multiply-subtract with a scalar multiplier (R85). -/
def execFfmsF32Fb (g : BitVec 3) (d a b : BitVec 6) (x : BitVec 1) (s : State) : Host.Outcome State Fault Refusal :=
  vsAccForm g d a b x (fun v => f32Fms v.rnd v.ftz) s

/-- FB FP32 minimum with a scalar operand (R86). -/
def execFminF32Fb (g : BitVec 3) (d a b : BitVec 6) (x : BitVec 1) (s : State) : Host.Outcome State Fault Refusal :=
  vsForm g d a b x (fun v => f32MinMax false v.ftz) s

/-- FB FP32 maximum with a scalar operand (R86). -/
def execFmaxF32Fb (g : BitVec 3) (d a b : BitVec 6) (x : BitVec 1) (s : State) : Host.Outcome State Fault Refusal :=
  vsForm g d a b x (fun v => f32MinMax true v.ftz) s

/-- Computes a × 2^n with n the clamped truncation of a scalar FP32 (R87). -/
def execFscaleF32 (g : BitVec 3) (d a b : BitVec 6) (x : BitVec 1) (s : State) : Host.Outcome State Fault Refusal :=
  vsForm g d a b x (fun v => f32Scale v.rnd v.ftz) s

/-! ## VU (R89 to R94) -/

/-- VU mov: copies a bit for bit (R90). -/
def execMov (g : BitVec 3) (d a : BitVec 6) (x : BitVec 1) (s : State) : Host.Outcome State Fault Refusal :=
  vuForm g d a x (plain1 id) s

/-- VU bitwise complement (R90). -/
def execNot (g : BitVec 3) (d a : BitVec 6) (x : BitVec 1) (s : State) : Host.Outcome State Fault Refusal :=
  vuForm g d a x (plain1 (~~~ ·)) s

/-- VU integer negate (R90). -/
def execNegI32 (g : BitVec 3) (d a : BitVec 6) (x : BitVec 1) (s : State) : Host.Outcome State Fault Refusal :=
  vuForm g d a x (plain1 (- ·)) s

/-- VU integer absolute value (R90). -/
def execAbsI32 (g : BitVec 3) (d a : BitVec 6) (x : BitVec 1) (s : State) : Host.Outcome State Fault Refusal :=
  vuForm g d a x (plain1 absWord) s

/-- VU population count (R90). -/
def execPopc (g : BitVec 3) (d a : BitVec 6) (x : BitVec 1) (s : State) : Host.Outcome State Fault Refusal :=
  vuForm g d a x (plain1 fun a => BitVec.ofNat 32 (popCount a.toNat 32)) s

/-- VU count leading zeros (R90). -/
def execClz (g : BitVec 3) (d a : BitVec 6) (x : BitVec 1) (s : State) : Host.Outcome State Fault Refusal :=
  vuForm g d a x (plain1 fun a => BitVec.ofNat 32 (leadingZeros a.toNat 32)) s

/-- VU bit reverse (R90). -/
def execBrev (g : BitVec 3) (d a : BitVec 6) (x : BitVec 1) (s : State) : Host.Outcome State Fault Refusal :=
  vuForm g d a x (plain1 bitReverse) s

/-- VU sign-extend the low 8 bits (R90). -/
def execSext8 (g : BitVec 3) (d a : BitVec 6) (x : BitVec 1) (s : State) : Host.Outcome State Fault Refusal :=
  vuForm g d a x (plain1 fun a => (a.truncate 8).signExtend 32) s

/-- VU sign-extend the low 16 bits (R90). -/
def execSext16 (g : BitVec 3) (d a : BitVec 6) (x : BitVec 1) (s : State) : Host.Outcome State Fault Refusal :=
  vuForm g d a x (plain1 fun a => (a.truncate 16).signExtend 32) s

/-- VU FP32 absolute value (R91). -/
def execFabs (g : BitVec 3) (d a : BitVec 6) (x : BitVec 1) (s : State) : Host.Outcome State Fault Refusal :=
  vuForm g d a x (fun v => f32Abs v.ftz) s

/-- VU FP32 negate (R91). -/
def execFneg (g : BitVec 3) (d a : BitVec 6) (x : BitVec 1) (s : State) : Host.Outcome State Fault Refusal :=
  vuForm g d a x (fun v => f32Neg v.ftz) s

/-- VU correctly rounded reciprocal (R92). -/
def execFrcp (g : BitVec 3) (d a : BitVec 6) (x : BitVec 1) (s : State) : Host.Outcome State Fault Refusal :=
  vuForm g d a x (fun v => f32Rcp v.rnd v.ftz) s

/-- VU reciprocal square root, RNE (R92). -/
def execFrsq (g : BitVec 3) (d a : BitVec 6) (x : BitVec 1) (s : State) : Host.Outcome State Fault Refusal :=
  vuForm g d a x (fun v => f32Rsq v.ftz) s

/-- VU square root (R92). -/
def execFsqrt (g : BitVec 3) (d a : BitVec 6) (x : BitVec 1) (s : State) : Host.Outcome State Fault Refusal :=
  vuForm g d a x (fun v => f32Sqrt v.rnd v.ftz) s

/-- VU base-2 exponential, RNE (R92). -/
def execFexp2 (g : BitVec 3) (d a : BitVec 6) (x : BitVec 1) (s : State) : Host.Outcome State Fault Refusal :=
  vuForm g d a x (fun v => f32Exp2 v.ftz) s

/-- VU base-2 logarithm, RNE (R92). -/
def execFlog2 (g : BitVec 3) (d a : BitVec 6) (x : BitVec 1) (s : State) : Host.Outcome State Fault Refusal :=
  vuForm g d a x (fun v => f32Log2 v.ftz) s

/-- VU sin(2πa), RNE (R92). -/
def execFsin (g : BitVec 3) (d a : BitVec 6) (x : BitVec 1) (s : State) : Host.Outcome State Fault Refusal :=
  vuForm g d a x (fun v => f32SinCos false v.ftz) s

/-- VU cos(2πa), RNE (R92). -/
def execFcos (g : BitVec 3) (d a : BitVec 6) (x : BitVec 1) (s : State) : Host.Outcome State Fault Refusal :=
  vuForm g d a x (fun v => f32SinCos true v.ftz) s

/-- VU hyperbolic tangent (R92). -/
def execFtanh (g : BitVec 3) (d a : BitVec 6) (x : BitVec 1) (s : State) : Host.Outcome State Fault Refusal :=
  vuForm g d a x (fun v => f32Tanh v.ftz) s

/-- VU floor to integer (R91). -/
def execFfloor (g : BitVec 3) (d a : BitVec 6) (x : BitVec 1) (s : State) : Host.Outcome State Fault Refusal :=
  vuForm g d a x (fun v => f32RoundInt 2 v.ftz) s

/-- VU ceiling to integer (R91). -/
def execFceil (g : BitVec 3) (d a : BitVec 6) (x : BitVec 1) (s : State) : Host.Outcome State Fault Refusal :=
  vuForm g d a x (fun v => f32RoundInt 3 v.ftz) s

/-- VU round toward zero to integer (R91). -/
def execFtrunc (g : BitVec 3) (d a : BitVec 6) (x : BitVec 1) (s : State) : Host.Outcome State Fault Refusal :=
  vuForm g d a x (fun v => f32RoundInt 1 v.ftz) s

/-- VU round to nearest integer, ties to even (R91). -/
def execFrint (g : BitVec 3) (d a : BitVec 6) (x : BitVec 1) (s : State) : Host.Outcome State Fault Refusal :=
  vuForm g d a x (fun v => f32RoundInt 0 v.ftz) s

/-- VU fractional part a - floor(a) (R91). -/
def execFfract (g : BitVec 3) (d a : BitVec 6) (x : BitVec 1) (s : State) : Host.Outcome State Fault Refusal :=
  vuForm g d a x (fun v => f32Fract v.rnd v.ftz) s

/-- Converts a signed integer to FP32, RNE (R94). -/
def execCvtF32S32 (g : BitVec 3) (d a : BitVec 6) (x : BitVec 1) (s : State) : Host.Outcome State Fault Refusal :=
  vuForm g d a x (fun _ a => intToF32 a.toInt) s

/-- Converts an unsigned integer to FP32, RNE (R94). -/
def execCvtF32N32 (g : BitVec 3) (d a : BitVec 6) (x : BitVec 1) (s : State) : Host.Outcome State Fault Refusal :=
  vuForm g d a x (fun _ a => intToF32 a.toNat) s

/-- Converts FP32 to signed integer toward zero, saturating (R67). -/
def execCvtS32F32Rz (g : BitVec 3) (d a : BitVec 6) (x : BitVec 1) (s : State) : Host.Outcome State Fault Refusal :=
  vuForm g d a x (fun v => f32ToInt 1 v.ftz (-2147483648) 2147483647) s

/-- Converts FP32 to signed integer to nearest even, saturating (R67). -/
def execCvtS32F32Rn (g : BitVec 3) (d a : BitVec 6) (x : BitVec 1) (s : State) : Host.Outcome State Fault Refusal :=
  vuForm g d a x (fun v => f32ToInt 0 v.ftz (-2147483648) 2147483647) s

/-- Converts FP32 to unsigned integer toward zero, saturating (R67). -/
def execCvtN32F32Rz (g : BitVec 3) (d a : BitVec 6) (x : BitVec 1) (s : State) : Host.Outcome State Fault Refusal :=
  vuForm g d a x (fun v => f32ToInt 1 v.ftz 0 4294967295) s

/-- Narrows FP32 to BF16 with RNE and saturation (R65). -/
def execCvtBf16F32 (g : BitVec 3) (d a : BitVec 6) (x : BitVec 1) (s : State) : Host.Outcome State Fault Refusal :=
  vuForm g d a x (fun v => f32Narrow bf16 v.ftz) s

/-- Widens the low BF16 half to FP32 (R66). -/
def execCvtF32Bf16Lo (g : BitVec 3) (d a : BitVec 6) (x : BitVec 1) (s : State) : Host.Outcome State Fault Refusal :=
  vuForm g d a x (fun v a => f32Widen bf16 v.ftz a.toNat) s

/-- Widens the high BF16 half to FP32 (R66). -/
def execCvtF32Bf16Hi (g : BitVec 3) (d a : BitVec 6) (x : BitVec 1) (s : State) : Host.Outcome State Fault Refusal :=
  vuForm g d a x (fun v a => f32Widen bf16 v.ftz (a.toNat / 65536)) s

/-- Narrows FP32 to F16 (R65). -/
def execCvtF16F32 (g : BitVec 3) (d a : BitVec 6) (x : BitVec 1) (s : State) : Host.Outcome State Fault Refusal :=
  vuForm g d a x (fun v => f32Narrow fp16 v.ftz) s

/-- Widens the low F16 half to FP32 (R66). -/
def execCvtF32F16Lo (g : BitVec 3) (d a : BitVec 6) (x : BitVec 1) (s : State) : Host.Outcome State Fault Refusal :=
  vuForm g d a x (fun v a => f32Widen fp16 v.ftz a.toNat) s

/-- Widens the high F16 half to FP32 (R66). -/
def execCvtF32F16Hi (g : BitVec 3) (d a : BitVec 6) (x : BitVec 1) (s : State) : Host.Outcome State Fault Refusal :=
  vuForm g d a x (fun v a => f32Widen fp16 v.ftz (a.toNat / 65536)) s

/-- Narrows FP32 to E4M3 (R65). -/
def execCvtE4m3F32 (g : BitVec 3) (d a : BitVec 6) (x : BitVec 1) (s : State) : Host.Outcome State Fault Refusal :=
  vuForm g d a x (fun v => f32Narrow e4m3 v.ftz) s

/-- Widens E4M3 to FP32 (R66). -/
def execCvtF32E4m3 (g : BitVec 3) (d a : BitVec 6) (x : BitVec 1) (s : State) : Host.Outcome State Fault Refusal :=
  vuForm g d a x (fun v a => f32Widen e4m3 v.ftz a.toNat) s

/-- Narrows FP32 to E5M2 (R65). -/
def execCvtE5m2F32 (g : BitVec 3) (d a : BitVec 6) (x : BitVec 1) (s : State) : Host.Outcome State Fault Refusal :=
  vuForm g d a x (fun v => f32Narrow e5m2 v.ftz) s

/-- Widens E5M2 to FP32 (R66). -/
def execCvtF32E5m2 (g : BitVec 3) (d a : BitVec 6) (x : BitVec 1) (s : State) : Host.Outcome State Fault Refusal :=
  vuForm g d a x (fun v a => f32Widen e5m2 v.ftz a.toNat) s

/-- Clamps an FP32 value to [+0, 1.0] (R91). -/
def execFsat (g : BitVec 3) (d a : BitVec 6) (x : BitVec 1) (s : State) : Host.Outcome State Fault Refusal :=
  vuForm g d a x (fun v => f32Sat v.ftz) s

/-! ## VI (R82, R83) -/

/-- VI add of a sign-extended imm8 (R82). -/
def execAddi (g : BitVec 3) (d a : BitVec 6) (i : BitVec 8) (s : State) : Host.Outcome State Fault Refusal :=
  viForm g d a (i.signExtend 32) (· + ·) s

/-- VI and with a zero-extended imm8 (R82). -/
def execAndi (g : BitVec 3) (d a : BitVec 6) (i : BitVec 8) (s : State) : Host.Outcome State Fault Refusal :=
  viForm g d a (i.zeroExtend 32) (· &&& ·) s

/-- VI or with a zero-extended imm8 (R82). -/
def execOri (g : BitVec 3) (d a : BitVec 6) (i : BitVec 8) (s : State) : Host.Outcome State Fault Refusal :=
  viForm g d a (i.zeroExtend 32) (· ||| ·) s

/-- VI xor with a zero-extended imm8 (R82). -/
def execXori (g : BitVec 3) (d a : BitVec 6) (i : BitVec 8) (s : State) : Host.Outcome State Fault Refusal :=
  viForm g d a (i.zeroExtend 32) (· ^^^ ·) s

/-- VI shift left by imm8[4:0] (R82). -/
def execShli (g : BitVec 3) (d a : BitVec 6) (i : BitVec 5) (s : State) : Host.Outcome State Fault Refusal :=
  viForm g d a (i.zeroExtend 32) shiftLeft32 s

/-- VI logical shift right by an immediate (R82). -/
def execShriN32 (g : BitVec 3) (d a : BitVec 6) (i : BitVec 5) (s : State) : Host.Outcome State Fault Refusal :=
  viForm g d a (i.zeroExtend 32) shiftRight32 s

/-- VI arithmetic shift right by an immediate (R82). -/
def execShriS32 (g : BitVec 3) (d a : BitVec 6) (i : BitVec 5) (s : State) : Host.Outcome State Fault Refusal :=
  viForm g d a (i.zeroExtend 32) shiftRightSigned32 s

/-- VI multiply by a sign-extended imm8 (R82). -/
def execMuli (g : BitVec 3) (d a : BitVec 6) (i : BitVec 8) (s : State) : Host.Outcome State Fault Refusal :=
  viForm g d a (i.signExtend 32) (· * ·) s

/-! ## SEL (R95) -/

/-- Selects a or b per lane by a selector predicate (R95). -/
def execSel (g : BitVec 3) (d a b : BitVec 6) (x y : BitVec 1) (sc : BitVec 3) (s : State) : Host.Outcome State Fault Refusal :=
  runSplit 4 (laneBody g.toNat d.toNat [a.toNat, b.toNat] [] (lastIf x a.toNat ++ lastIf y b.toNat)
    fun v l => (if (v.g.pred sc.toNat).getLsbD l then v.lane a.toNat l else v.lane b.toNat l, 0)) s

end Sys2Proof.Machine
end

