-- ==== Sys2Proof/Machine/Scalar.lean ====
section
/-! DEFINITION. The scalar instructions SR, SI and SLI (R113 to R117). -/

namespace Sys2Proof.Machine

/-- Bits 127:64 of the signed and unsigned products (R113). -/
def mulhSigned64 (a b : DWord) : DWord := BitVec.ofInt 64 (a.toInt * b.toInt / 2 ^ 64)
def mulhUnsigned64 (a b : DWord) : DWord := BitVec.ofNat 64 (a.toNat * b.toNat / 2 ^ 64)

/-- Shifts by bits 5:0 of the count (R113, R116). -/
def shiftLeft64 (a b : DWord) : DWord := a <<< (b.toNat % 64)
def shiftRight64 (a b : DWord) : DWord := a >>> (b.toNat % 64)
def shiftRightSigned64 (a b : DWord) : DWord := a.sshiftRight (b.toNat % 64)

/-- Division and remainder (R114): b = 0 gives all ones and a; -2^63 by -1 gives -2^63 and 0. -/
def divSigned (a b : DWord) : DWord := if b = 0 then ~~~(0 : DWord) else BitVec.ofInt 64 (Int.tdiv a.toInt b.toInt)
def divUnsigned (a b : DWord) : DWord := if b = 0 then ~~~(0 : DWord) else BitVec.ofNat 64 (a.toNat / b.toNat)
def remSigned (a b : DWord) : DWord := if b = 0 then a else BitVec.ofInt 64 (Int.tmod a.toInt b.toInt)
def remUnsigned (a b : DWord) : DWord := if b = 0 then a else BitVec.ofNat 64 (a.toNat % b.toNat)

/-- `bfx` (R115): the field of a that b describes. -/
def bitField (a b : DWord) : DWord :=
  let pos := natBits b.toNat 5 0
  let len := natBits b.toNat 13 8 + 1
  let f := (a.toNat >>> pos) % 2 ^ len
  if b.getLsbD 16 && natBit f (len - 1) then BitVec.ofInt 64 ((f : Int) - 2 ^ len) else BitVec.ofNat 64 f

/-- A scalar form with two scalar sources (SR). -/
def srForm (g : BitVec 3) (d a b : BitVec 6) (f : DWord → DWord → DWord) (s : State) : Host.Outcome State Fault Refusal :=
  runSplit 4 (scalarBody g.toNat d.toNat [a.toNat, b.toNat] fun v => f (v.g.sval a.toNat) (v.g.sval b.toNat)) s

/-- A scalar form with one source (SR unary, SI): the other operand stands in the instruction. -/
def siForm (g : BitVec 3) (d a : BitVec 6) (f : DWord → DWord) (s : State) : Host.Outcome State Fault Refusal :=
  runSplit 4 (scalarBody g.toNat d.toNat [a.toNat] fun v => f (v.g.sval a.toNat)) s


/-! ## SR (R113 to R115) -/

/-- Scalar 64-bit add (R113). -/
def execAddSr (g : BitVec 3) (d a b : BitVec 6) (s : State) : Host.Outcome State Fault Refusal :=
  srForm g d a b (· + ·) s

/-- Scalar 64-bit subtract (R113). -/
def execSubSr (g : BitVec 3) (d a b : BitVec 6) (s : State) : Host.Outcome State Fault Refusal :=
  srForm g d a b (· - ·) s

/-- Scalar 64-bit multiply, low half (R113). -/
def execMulSr (g : BitVec 3) (d a b : BitVec 6) (s : State) : Host.Outcome State Fault Refusal :=
  srForm g d a b (· * ·) s

/-- Scalar signed high multiply (R113). -/
def execMulhSSr (g : BitVec 3) (d a b : BitVec 6) (s : State) : Host.Outcome State Fault Refusal :=
  srForm g d a b mulhSigned64 s

/-- Scalar unsigned high multiply (R113). -/
def execMulhNSr (g : BitVec 3) (d a b : BitVec 6) (s : State) : Host.Outcome State Fault Refusal :=
  srForm g d a b mulhUnsigned64 s

/-- Scalar bitwise and (R113). -/
def execAndSr (g : BitVec 3) (d a b : BitVec 6) (s : State) : Host.Outcome State Fault Refusal :=
  srForm g d a b (· &&& ·) s

/-- Scalar bitwise or (R113). -/
def execOrSr (g : BitVec 3) (d a b : BitVec 6) (s : State) : Host.Outcome State Fault Refusal :=
  srForm g d a b (· ||| ·) s

/-- Scalar bitwise xor (R113). -/
def execXorSr (g : BitVec 3) (d a b : BitVec 6) (s : State) : Host.Outcome State Fault Refusal :=
  srForm g d a b (· ^^^ ·) s

/-- Scalar a & ~b (R113). -/
def execAndnSr (g : BitVec 3) (d a b : BitVec 6) (s : State) : Host.Outcome State Fault Refusal :=
  srForm g d a b (fun p q => p &&& ~~~q) s

/-- Scalar shift left by b[5:0] (R113). -/
def execShlSr (g : BitVec 3) (d a b : BitVec 6) (s : State) : Host.Outcome State Fault Refusal :=
  srForm g d a b shiftLeft64 s

/-- Scalar logical shift right (R113). -/
def execShrNSr (g : BitVec 3) (d a b : BitVec 6) (s : State) : Host.Outcome State Fault Refusal :=
  srForm g d a b shiftRight64 s

/-- Scalar arithmetic shift right (R113). -/
def execShrSSr (g : BitVec 3) (d a b : BitVec 6) (s : State) : Host.Outcome State Fault Refusal :=
  srForm g d a b shiftRightSigned64 s

/-- Scalar signed minimum (R113). -/
def execMinSSr (g : BitVec 3) (d a b : BitVec 6) (s : State) : Host.Outcome State Fault Refusal :=
  srForm g d a b minSigned s

/-- Scalar signed maximum (R113). -/
def execMaxSSr (g : BitVec 3) (d a b : BitVec 6) (s : State) : Host.Outcome State Fault Refusal :=
  srForm g d a b maxSigned s

/-- Scalar unsigned minimum (R113). -/
def execMinNSr (g : BitVec 3) (d a b : BitVec 6) (s : State) : Host.Outcome State Fault Refusal :=
  srForm g d a b minUnsigned s

/-- Scalar unsigned maximum (R113). -/
def execMaxNSr (g : BitVec 3) (d a b : BitVec 6) (s : State) : Host.Outcome State Fault Refusal :=
  srForm g d a b maxUnsigned s

/-- Scalar signed division toward zero, never trapping (R114). -/
def execDivSSr (g : BitVec 3) (d a b : BitVec 6) (s : State) : Host.Outcome State Fault Refusal :=
  srForm g d a b divSigned s

/-- Scalar unsigned division (R114). -/
def execDivNSr (g : BitVec 3) (d a b : BitVec 6) (s : State) : Host.Outcome State Fault Refusal :=
  srForm g d a b divUnsigned s

/-- Scalar signed remainder (R114). -/
def execRemSSr (g : BitVec 3) (d a b : BitVec 6) (s : State) : Host.Outcome State Fault Refusal :=
  srForm g d a b remSigned s

/-- Scalar unsigned remainder (R114). -/
def execRemNSr (g : BitVec 3) (d a b : BitVec 6) (s : State) : Host.Outcome State Fault Refusal :=
  srForm g d a b remUnsigned s

/-- Scalar count leading zeros (R113). -/
def execClzSr (g : BitVec 3) (d a : BitVec 6) (s : State) : Host.Outcome State Fault Refusal :=
  siForm g d a (fun p => BitVec.ofNat 64 (leadingZeros p.toNat 64)) s

/-- Scalar population count (R113). -/
def execPopcSr (g : BitVec 3) (d a : BitVec 6) (s : State) : Host.Outcome State Fault Refusal :=
  siForm g d a (fun p => BitVec.ofNat 64 (popCount p.toNat 64)) s

/-- Scalar move (R113). -/
def execMovSr (g : BitVec 3) (d a : BitVec 6) (s : State) : Host.Outcome State Fault Refusal :=
  siForm g d a id s

/-- Extracts a bit field of a scalar, zero- or sign-extended (R115). -/
def execBfx (g : BitVec 3) (d a b : BitVec 6) (s : State) : Host.Outcome State Fault Refusal :=
  srForm g d a b bitField s

/-! ## SI (R116) -/

/-- Scalar add of a sign-extended imm8 (R116). -/
def execAddiSi (g : BitVec 3) (d a : BitVec 6) (i : BitVec 8) (s : State) : Host.Outcome State Fault Refusal :=
  siForm g d a (· + i.signExtend 64) s

/-- Scalar and with an immediate (R116). -/
def execAndiSi (g : BitVec 3) (d a : BitVec 6) (i : BitVec 8) (s : State) : Host.Outcome State Fault Refusal :=
  siForm g d a (· &&& i.zeroExtend 64) s

/-- Scalar or with an immediate (R116). -/
def execOriSi (g : BitVec 3) (d a : BitVec 6) (i : BitVec 8) (s : State) : Host.Outcome State Fault Refusal :=
  siForm g d a (· ||| i.zeroExtend 64) s

/-- Scalar xor with an immediate (R116). -/
def execXoriSi (g : BitVec 3) (d a : BitVec 6) (i : BitVec 8) (s : State) : Host.Outcome State Fault Refusal :=
  siForm g d a (· ^^^ i.zeroExtend 64) s

/-- Scalar shift left by imm8[5:0] (R116). -/
def execShliSi (g : BitVec 3) (d a i : BitVec 6) (s : State) : Host.Outcome State Fault Refusal :=
  siForm g d a (fun p => shiftLeft64 p (i.zeroExtend 64)) s

/-- Scalar logical shift right by an immediate (R116). -/
def execShriNSi (g : BitVec 3) (d a i : BitVec 6) (s : State) : Host.Outcome State Fault Refusal :=
  siForm g d a (fun p => shiftRight64 p (i.zeroExtend 64)) s

/-- Scalar arithmetic shift right by an immediate (R116). -/
def execShriSSi (g : BitVec 3) (d a i : BitVec 6) (s : State) : Host.Outcome State Fault Refusal :=
  siForm g d a (fun p => shiftRightSigned64 p (i.zeroExtend 64)) s

/-- Scalar multiply by a sign-extended immediate (R116). -/
def execMuliSi (g : BitVec 3) (d a : BitVec 6) (i : BitVec 8) (s : State) : Host.Outcome State Fault Refusal :=
  siForm g d a (· * i.signExtend 64) s

/-! ## SLI (R117) -/

/-- Loads a sign-extended imm15 into a scalar (R117). -/
def execLi (g : BitVec 3) (d : BitVec 6) (i : BitVec 15) (s : State) : Host.Outcome State Fault Refusal :=
  runSplit 4 (scalarBody g.toNat d.toNat [] fun _ => i.signExtend 64) s

/-- Shifts a scalar left by 15 and ors in imm15 (R117). -/
def execLis (g : BitVec 3) (d : BitVec 6) (i : BitVec 15) (s : State) : Host.Outcome State Fault Refusal :=
  runSplit 4 (scalarBody g.toNat d.toNat [d.toNat] fun v => (v.g.sval d.toNat <<< 15) ||| i.zeroExtend 64) s

/-- Adds sext(imm15) << 15 to a scalar (R117). -/
def execAddis (g : BitVec 3) (d : BitVec 6) (i : BitVec 15) (s : State) : Host.Outcome State Fault Refusal :=
  runSplit 4 (scalarBody g.toNat d.toNat [d.toNat] fun v => v.g.sval d.toNat + (i.signExtend 64 <<< 15)) s

end Sys2Proof.Machine
end

