-- ==== Sys2Proof/Machine/Cross.lean ====
section
/-! DEFINITION. The cross-lane instructions XS (R118 to R120) and the compares (R121 to R123). -/

namespace Sys2Proof.Machine

/-! ## Cross-lane (R118) -/

/-- The lane that a scalar or lane value names (R118). -/
def View.laneIndex (v : View) (x : Nat) : Nat := x % 64 % v.width

/-- The lanes that an instruction reads across lanes: each acting lane's source lane where that lane is active, else its own. -/
def shuffleFrom (v : View) (k l : Nat) : Nat := if v.sl.mask.getLsbD k then k else l

/-- The body of the shuffles: `pick` gives the lane that lane l reads. All sources are read before the destination is written;
the states of R79 are resolved over the acting lanes and the lanes they read (log 17). -/
def shuffleBody (guard d a b : Nat) (last : List Nat) (pick : View → Nat → Word → Nat) (v : View) : Res :=
  let acting := v.acting guard
  let lanes := lanesOf acting
  let from_ (l : Nat) : Nat := shuffleFrom v (pick v l (v.lane b l)) l
  let picked (known : Nat → Bool) : List Nat := (lanes.filter known).map from_
  let sources (read : List Nat) (l : Nat) : List Nat := if lanes.contains l then [a, b] else if read.contains l then [a] else []
  guardStop v (nameStop v [d, a, b] []) <|
  guardStop v (mixedLaneStop v acting (sources (picked fun l => !v.g.laneEmpty b l))
    (sources (picked fun l => (v.g.lanePoison b l).isNone))) <|
  guardStop v (allocStop v lanes [d]) <|
  .done { v with g := ((v.g.writeLanes d lanes fun l => v.lane a (from_ l)).freeLast last [d]).raise
                        (vacBits v.g lanes [a, b]) }

/-- The body of `rdlane`: the vector source is read at issue, in the lane named where it is active; s[d] is empty until the
value arrives (R119). That a vacant source sets VAC is DESIGN CHOICE (log 33): R79 against R112. -/
def rdlaneBody (guard d a b : Nat) (last : List Nat) (v : View) : Res :=
  guardStop v (nameStop v [a] [d, b]) <|
  if v.g.cpred guard then
    let k := v.laneIndex (v.g.sval b).toNat
    let lanes := if v.sl.mask.getLsbD k then [k] else []
    guardStop v (emptyScalarStop v v.sl.mask [b] <|> emptyLaneStop v lanes v.sl.mask [a] <|>
      poisonScalarStop v v.sl.mask [b] <|> poisonLaneStop v lanes v.sl.mask [a]) <|
    let val : DWord := if lanes.isEmpty then 0 else (v.lane a k).zeroExtend 64
    let tag := v.s.nextTag
    let g1 := ((v.g.emptyScalar d tag).freeLast last []).raise (vacBits v.g lanes [a])
    .done { v with g := { g1 with arriving := tblSet g1.arriving tag [{ reg := d, lane := 64, val := val, poison := 0 }] },
                   s := { v.s with nextTag := tag + 1 }.due (.loadDataArrival v.gid tag) }
  else .done v

/-- The body of `wrlane`: only the lane named changes, where it acts (R118). -/
def wrlaneBody (guard d a b : Nat) (v : View) : Res :=
  let acting := v.acting guard
  let k := v.laneIndex (v.g.sval b).toNat
  let lanes := if acting.getLsbD k then [k] else []
  guardStop v (nameStop v [d] [a, b]) <|
  guardStop v (sourceStop v [] acting [] (if acting = 0 then [] else [a, b])) <|
  guardStop v (allocStop v lanes [d]) <|
  .done { v with g := v.g.writeLanes d lanes fun _ => v.low a }

/-- The exact sum of `redi`, modulo 2^64 (R120). -/
def sumLanes (g : Group) (a : Nat) (lanes : List Nat) : DWord :=
  lanes.foldl (fun t l => t + (g.lane a l).signExtend 64) 0

/-- The sum of `redf` over the fixed tree of the group's width; an inactive lane counts as +0.0 (R120). -/
def treeSum (v : View) (a : Nat) : Word × Flags :=
  f32Tree v.ftz v.g.w0 ((List.range v.width).map fun l => if v.sl.mask.getLsbD l then v.lane a l else 0)

/-- A scalar destination computed from the active lanes of a vector source (redi, redf): a vacant source sets VAC, since R118 puts
it under R79, which R112 excepts for `redf` and does not name for `redi`: DESIGN CHOICE (log 33). -/
def reduceBody (guard d a : Nat) (last : List Nat) (f : View → DWord × Flags) (v : View) : Res :=
  let lanes := lanesOf v.sl.mask
  guardStop v (nameStop v [a] [d]) <|
  if v.g.cpred guard then
    guardStop v (sourceStop v lanes v.sl.mask [a] []) <|
    .done { v with g := ((v.g.setScalar d (f v).1).freeLast last []).raise (vacBits v.g lanes [a] ||| flagBits (f v).2) }
  else .done v


/-- Writes a scalar's low 32 bits into every acting lane (R118). -/
def execBcast (g : BitVec 3) (d a : BitVec 6) (s : State) : Host.Outcome State Fault Refusal :=
  runSplit 4 (laneBody g.toNat d.toNat [] [a.toNat] [] fun v _ => (v.low a.toNat, 0)) s

/-- Reads one lane of a vector register into a scalar, marking it empty until the value arrives (R119). -/
def execRdlane (g : BitVec 3) (d a b : BitVec 6) (x : BitVec 1) (s : State) : Host.Outcome State Fault Refusal :=
  runSplit 4 (rdlaneBody g.toNat d.toNat a.toNat b.toNat (lastIf x a.toNat)) s

/-- Writes a scalar into one named lane of a vector register (R118). -/
def execWrlane (g : BitVec 3) (d a b : BitVec 6) (s : State) : Host.Outcome State Fault Refusal :=
  runSplit 4 (wrlaneBody g.toNat d.toNat a.toNat b.toNat) s

/-- Lane shuffle by index from a vector register (R118). -/
def execShfl (g : BitVec 3) (d a b : BitVec 6) (x y : BitVec 1) (s : State) : Host.Outcome State Fault Refusal :=
  runSplit 4 (shuffleBody g.toNat d.toNat a.toNat b.toNat (lastIf x a.toNat ++ lastIf y b.toNat)
    fun v _ w => v.laneIndex w.toNat) s

/-- Lane shuffle by xor of the lane index (R118). -/
def execShflX (g : BitVec 3) (d a b : BitVec 6) (x y : BitVec 1) (s : State) : Host.Outcome State Fault Refusal :=
  runSplit 4 (shuffleBody g.toNat d.toNat a.toNat b.toNat (lastIf x a.toNat ++ lastIf y b.toNat)
    fun v l w => v.laneIndex (Nat.xor l (w.toNat % 64))) s

/-- Collects a lane predicate of the active lanes into a scalar mask (R118). -/
def execBallot (g : BitVec 3) (d : BitVec 6) (a : BitVec 3) (s : State) : Host.Outcome State Fault Refusal :=
  runSplit 4 (scalarBody g.toNat d.toNat [] fun v => v.sl.mask &&& v.g.pred a.toNat) s

/-- Exact 64-bit sum of the active lanes' signed values into a scalar (R120). -/
def execRedi (g : BitVec 3) (d a : BitVec 6) (x : BitVec 1) (s : State) : Host.Outcome State Fault Refusal :=
  runSplit 4 (reduceBody g.toNat d.toNat a.toNat (lastIf x a.toNat)
    fun v => (sumLanes v.g a.toNat (lanesOf v.sl.mask), 0)) s

/-- FP32 sum over a fixed width-dependent tree into a scalar (R120). -/
def execRedf (g : BitVec 3) (d a : BitVec 6) (x : BitVec 1) (s : State) : Host.Outcome State Fault Refusal :=
  runSplit 4 (reduceBody g.toNat d.toNat a.toNat (lastIf x a.toNat)
    fun v => (((treeSum v a.toNat).1).zeroExtend 64, (treeSum v a.toNat).2)) s

/-! ## Compares (R122, R123) -/

/-- What a compare writes where its guard is true: the new values of pd1 and pd2, none where the predicate is not touched. -/
def combine (ctype : Nat) (r : Bool) : Option Bool × Option Bool :=
  match ctype with
  | 0 => (some r, some !r)
  | 1 => (some r, some !r)
  | 2 => if r then (none, none) else (some false, some false)
  | 3 => if r then (some true, some true) else (none, none)
  | 4 => if r then (some true, some false) else (none, none)
  | 5 => if r then (none, none) else (some false, some true)
  | _ => (some r, none)

/-- The lanes of `lanes` in which a compare writes a predicate, and those in which it writes 1. -/
def writtenLanes (lanes : List Nat) (f : Nat → Option Bool) : DWord × DWord :=
  (maskOf (lanes.filter fun l => (f l).isSome), maskOf (lanes.filter fun l => f l == some true))

/-- The relation of CMPS and CMPN (R35, R122). -/
def relSigned (cond : Nat) (a b : Word) : Bool :=
  match cond with
  | 0 => a == b
  | 1 => a.slt b
  | 2 => a.sle b
  | _ => a &&& b != 0
def relUnsigned (cond : Nat) (a b : Word) : Bool :=
  match cond with
  | 0 => a == b
  | 1 => a.ult b
  | 2 => a.ule b
  | _ => a &&& b != 0
/-- The relation of CMPQ (R35, R122). -/
def relScalar (cond : Nat) (a b : DWord) : Bool :=
  match cond with
  | 0 => a == b
  | 1 => a.slt b
  | 2 => a.sle b
  | _ => a.ult b

/-- The body of the lane compares: sources are read where the guard is true; ctype unc writes 0 in the other active lanes (R123). No
compare sets a bit of `%gstat` but `cmpf`, which sets FPIV (R112, R122): a vacant source reads 0 and sets no VAC. A compare with
pd1 = pd2 = 7 writes nothing but reads its sources all the same: it may wait or trap, and sets FPIV: DESIGN CHOICE (log 33). -/
def compareBody (guard p q a b ctype : Nat) (rel : View → Word → Word → Bool × Flags) (v : View) : Res :=
  let acting := v.acting guard
  let lanes := lanesOf acting
  let off := v.sl.mask &&& ~~~acting
  let r (l : Nat) : Bool := (rel v (v.lane a l) (v.lane b l)).1
  let w1 := writtenLanes lanes fun l => (combine ctype (r l)).1
  let w2 := writtenLanes lanes fun l => (combine ctype (r l)).2
  let zero : DWord := if ctype = 1 then off else 0
  guardStop v (nameStop v [a, b] []) <|
  guardStop v (sourceStop v lanes acting [a, b] []) <|
  .done { v with g := (((v.g.setPred p (w1.1 ||| zero) w1.2).setPred q (w2.1 ||| zero) w2.2)).raise
                        (flagBits (anyFlags lanes fun l => (rel v (v.lane a l) (v.lane b l)).2)) }

/-- Writes a group predicate where a compare touches it. -/
def Group.setC? (g : Group) (k : Nat) (b : Option Bool) : Group :=
  match b with
  | some x => g.setC k x
  | none => g

/-- The body of CMPQ (R122, R123). -/
def compareScalarBody (guard p q a b ctype cond : Nat) (v : View) : Res :=
  guardStop v (nameStop v [] [a, b]) <|
  if v.g.cpred guard then
    guardStop v (sourceStop v [] v.sl.mask [] [a, b]) <|
    let w := combine ctype (relScalar cond (v.g.sval a) (v.g.sval b))
    .done { v with g := (v.g.setC? p w.1).setC? q w.2 }
  else if ctype = 1 then .done { v with g := (v.g.setC p false).setC q false }
  else .done v

/-- Signed 32-bit lane compare, combining the result into a predicate pair per ctype (R123). -/
def execCmps (g p q : BitVec 3) (a b : BitVec 6) (t : BitVec 3) (c : BitVec 2) (s : State) : Host.Outcome State Fault Refusal :=
  runSplit 4 (compareBody g.toNat p.toNat q.toNat a.toNat b.toNat t.toNat fun _ m n => (relSigned c.toNat m n, 0)) s

/-- Unsigned 32-bit lane compare into a predicate pair (R123). -/
def execCmpn (g p q : BitVec 3) (a b : BitVec 6) (t : BitVec 3) (c : BitVec 2) (s : State) : Host.Outcome State Fault Refusal :=
  runSplit 4 (compareBody g.toNat p.toNat q.toNat a.toNat b.toNat t.toNat fun _ m n => (relUnsigned c.toNat m n, 0)) s

/-- FP32 lane compare into a predicate pair (R123). -/
def execCmpf (g p q : BitVec 3) (a b : BitVec 6) (t : BitVec 3) (c : BitVec 2) (s : State) : Host.Outcome State Fault Refusal :=
  runSplit 4 (compareBody g.toNat p.toNat q.toNat a.toNat b.toNat t.toNat fun v => f32Cmp c.toNat v.ftz) s

/-- 64-bit scalar compare into a group-predicate pair (R123). -/
def execCmpq (g p q : BitVec 3) (a b : BitVec 6) (t : BitVec 3) (c : BitVec 2) (s : State) : Host.Outcome State Fault Refusal :=
  runSplit 4 (compareScalarBody g.toNat p.toNat q.toNat a.toNat b.toNat t.toNat c.toNat) s

end Sys2Proof.Machine
end

