-- ==== Sys2Proof/Machine/Branch.lean ====
section
/-! DEFINITION. Branches, calls, divergence and rejoining, traps and yield (R124 to R132). `exit` stands with the memory
operations that it performs. -/

namespace Sys2Proof.Machine

/-- A branch target: `off` halfwords from the branch (R28). -/
def branchTarget {n : Nat} (pc : DWord) (off : BitVec n) : DWord := pc + (off.signExtend 64 <<< 1)

/-- The check of a register target (R29): ALIGN, then ADDR. -/
def targetStop (acting t : DWord) : Option Stop :=
  if t.getLsbD 0 then some (.trap causeALIGN noLane acting t 0)
  else if t.toNat / 2 ^ 56 ≠ 0 then some (.trap causeADDR noLane acting t 0)
  else none

/-- A c-guarded jump to a scalar register's value (R125): `link` is written into s62 after the checks, and `leave` ends handler
mode (R383). -/
def jumpBody (guard : Nat) (src : Nat) (named : List Nat) (link leave : Bool) (v : View) : Res :=
  guardStop v (nameStop v [] named) <|
  if v.g.cpred guard then
    guardStop v (sourceStop v [] v.sl.mask [] [src]) <|
    let t := v.g.sval src
    guardStop v (targetStop v.sl.mask t) <|
    let g1 := if link then v.g.setScalar 62 (v.sl.pc + 4) else v.g
    .done { v with g := if leave then leaveHandler g1 v.sl.mask else g1, next := t }
  else .done v

/-- The body of `bra` with k = 0: taken where the predicate holds in every active lane, BRDIV where the lanes disagree (R124). The
record of BRDIV names no lane: DESIGN CHOICE (log 33), R147 and R381 give none. -/
def braLaneBody (guard : Nat) (t : DWord) (v : View) : Res :=
  let taken := v.acting guard
  if taken = v.sl.mask then .done { v with next := t }
  else if taken = 0 then .done v
  else .stop v.s (.trap causeBRDIV noLane taken 0 0)

/-- Split-stack entries in use once a split has diverged (R126, R127). -/
def entriesRequired (g : Group) (otherLive : Bool) : Nat :=
  (g.records.length + 1 - 2) + g.spilled.length + (if otherLive then 1 else 0)

/-- The body of `brx` and `brxr` (R126): the T half goes on at `l` in this slot, the F half after the branch in the other slot,
or spilled. -/
def divergeBody (guard : Nat) (l j : DWord) (v : View) : Res :=
  let t := v.acting guard
  let f := v.sl.mask &&& ~~~t
  if f = 0 then .done { v with next := l }
  else if t = 0 then .done v
  else
    let other := v.g.slot (!v.slotB)
    if wbStack v.wb < 32 * entriesRequired v.g other.isSome then
      .stop v.s (.trap causeSPLITOVF noLane t 0 (BitVec.ofNat 64 (wbStack v.wb)))
    else
      let k := tblNext v.g.records
      let rec_ : Rejoin :=
        { j := j, union := v.sl.mask, arrived := 0, fm := v.sl.fm, outer := v.sl.link, index := v.g.freeIndex,
          entry := v.g.freeEntry, soft := false }
      let g1 := { v.g with records := tblSet v.g.records k rec_ }
      let half : Split := { Split.start v.next f v.sl.fm with link := some k, entry := g1.freeEntry }
      let g2 := if other.isSome then { g1 with spilled := g1.spilled ++ [half] } else g1.setSlot (!v.slotB) (some half)
      .done { v with g := g2, sl := { v.sl with mask := t, link := some k }, next := l }

/-- The body of `brxr`: both registers are checked, the target first (R29, R126). -/
def divergeRegBody (guard a b : Nat) (v : View) : Res :=
  guardStop v (nameStop v [] [a, b]) <|
  let acting := v.acting guard
  guardStop v (sourceStop v [] acting [] [a, b]) <|
  guardStop v (targetStop acting (v.g.sval a) <|> targetStop acting (v.g.sval b)) <|
  divergeBody guard (v.g.sval a) (v.g.sval b) v

/-- A record all of whose lanes have arrived or exited is popped: the slot goes on after the join with the union's lanes
(R128, R130). -/
def popRecord (v : View) (g : Group) (k : Nat) (r : Rejoin) : View :=
  { v with g := { g with records := tblErase g.records k },
           sl := { v.sl with mask := r.union &&& ~~~g.exited, fm := r.fm, link := r.outer }, next := r.j + 4, joined := true }

/-- The body of `join` (R128): it acts only where the split's record names the join's own address. -/
def joinBody (v : View) : Res :=
  match v.sl.link with
  | none => .done v
  | some k =>
    match tblGet? v.g.records k with
    | none => .done v
    | some r =>
      if r.j = v.sl.pc then
        let r1 := { r with arrived := r.arrived ||| v.sl.mask }
        if r1.union &&& ~~~(r1.arrived ||| v.g.exited) = 0 then .done (popRecord v v.g k r1)
        else .done { v with g := { v.g with records := tblSet v.g.records k r1 }, idle := true }
      else .done v

/-- The effective priority of a split (R196). -/
def effectivePriority (s : State) (g : Group) (sl : Split) : Nat :=
  min 127 (wbPriority (s.groupWb g) + sl.waitCount / 4096)

/-- The body of `yield` (R132, R197). -/
def yieldBody (guard : Nat) (v : View) : Res :=
  if v.g.cpred guard then
    .done { v with s := v.s.modCore v.core fun c =>
      { c with pointer := tblSet c.pointer (effectivePriority v.s v.g v.sl) (v.g.index, v.slotB) } }
  else .done v


/-- Branch on a lane predicate that must be uniform over active lanes, else BRDIV (R124). -/
def execBraP (g : BitVec 3) (o : BitVec 22) (s : State) : Host.Outcome State Fault Refusal :=
  runSplit 4 (fun v => braLaneBody g.toNat (branchTarget v.sl.pc o) v) s

/-- Branch on a group predicate (R124). -/
def execBraC (g : BitVec 3) (o : BitVec 22) (s : State) : Host.Outcome State Fault Refusal :=
  runSplit 4 (fun v => .done (if v.g.cpred g.toNat then { v with next := branchTarget v.sl.pc o } else v)) s

/-- PC-relative call, writing the return address to s62 (R125). -/
def execCall (g : BitVec 3) (o : BitVec 22) (s : State) : Host.Outcome State Fault Refusal :=
  runSplit 4 (fun v => .done (if v.g.cpred g.toNat then
    { v with g := v.g.setScalar 62 (v.sl.pc + 4), next := branchTarget v.sl.pc o } else v)) s

/-- Splits the executing split by a predicate, pushing a rejoin record (R126). -/
def execBrx (g : BitVec 3) (o : BitVec 12) (j : BitVec 11) (s : State) : Host.Outcome State Fault Refusal :=
  runSplit 4 (fun v => divergeBody g.toNat (branchTarget v.sl.pc o) (v.sl.pc + (j.zeroExtend 64 <<< 1)) v) s

/-- Marks arrival at a rejoin point and reunites the halves when the record is complete (R128). -/
def execJoin (s : State) : Host.Outcome State Fault Refusal :=
  runSplit 4 joinBody s

/-- Jumps to the address in a scalar; ends handler mode (R125). -/
def execJmpr (g : BitVec 3) (a : BitVec 6) (s : State) : Host.Outcome State Fault Refusal :=
  runSplit 4 (jumpBody g.toNat a.toNat [a.toNat] false true) s

/-- Calls the address in a scalar, writing the return address to s62 (R125). -/
def execCallr (g : BitVec 3) (a : BitVec 6) (s : State) : Host.Outcome State Fault Refusal :=
  runSplit 4 (jumpBody g.toNat a.toNat [a.toNat] true false) s

/-- Returns to the address in s62 (R125). -/
def execRet (g : BitVec 3) (s : State) : Host.Outcome State Fault Refusal :=
  runSplit 4 (jumpBody g.toNat 62 [] false false) s

/-- Register form of brx with target and rejoin taken from scalars (R126). -/
def execBrxr (g : BitVec 3) (a b : BitVec 6) (s : State) : Host.Outcome State Fault Refusal :=
  runSplit 4 (divergeRegBody g.toNat a.toNat b.toNat) s

/-- Traps with cause BRK and the immediate code (R131). -/
def execTrap (g : BitVec 3) (i : BitVec 8) (s : State) : Host.Outcome State Fault Refusal :=
  runSplit 4 (fun v => if v.g.cpred g.toNat then
    .stop v.s (.trap causeBRK noLane v.sl.mask 0 (0x10000 + i.zeroExtend 64)) else .done v) s

/-- Moves the split behind every other ready split of its priority (R132). -/
def execYield (g : BitVec 3) (_i : BitVec 8) (s : State) : Host.Outcome State Fault Refusal :=
  runSplit 4 (yieldBody g.toNat) s

end Sys2Proof.Machine
end

