-- ==== Sys2Proof/Machine/Directory.lean ====
section
/-! DEFINITION. The banks of the wafer cache and the location directory: the placement map, where a line is held in a reticle, the
entries and how a line enters the wafer cache (R8, R288 to R291, R297, R298, R300, R397). Physical lines are named by PA[51:7]. -/

namespace Sys2Proof.Machine

def lineBytes : Nat := 128

/-- A range of addresses cut at line boundaries: address and length; the first argument bounds the number of pieces. -/
def linePieces : Nat → Nat → Nat → List (Nat × Nat)
  | 0, _, _ => []
  | f + 1, a, n =>
    if n = 0 then []
    else
      let k := min n (lineBytes - a % lineBytes)
      (a, k) :: linePieces f (a + k) (n - k)

/-- The pieces of `n` bytes at `a`. -/
def piecesOf (a n : Nat) : List (Nat × Nat) := linePieces (n / lineBytes + 2) a n

/-- A write cut at line boundaries. -/
def cutBytes : List (Nat × Nat) → List Byte → List (Nat × List Byte)
  | [], _ => []
  | (a, n) :: r, b => (a, b.take n) :: cutBytes r (b.drop n)

/-! ## Banks (R8, R288, R298, R397) -/

/-- Whether a bank (64 × reticle + bank) is in the placement map. -/
def Part.inMap (p : Part) (b : Nat) : Bool := decide (b < 4096) && !p.missing.contains b

/-- Size of the placement map (R8, R137). -/
def Part.mapSize (p : Part) : Nat := 4096 - p.missing.length

/-- A reticle with a bank in the placement map (R397). -/
def Part.hasBank (p : Part) (r : Nat) : Bool :=
  if p.missing.isEmpty then decide (r < 64) else (List.range 64).any fun i => p.inMap (64 * r + i)

/-- The first bank at or above `b` in a reticle, wrapping, that satisfies `ok`. -/
def firstBank (r b : Nat) (ok : Nat → Bool) : Option Nat :=
  ((List.range 64).map fun i => (b + i) % 64).find? fun i => ok (64 * r + i)

/-- The substitute of a retired bank: the first map bank above it in its reticle, wrapping, that is not retired (R298). -/
def State.substitute (s : State) (r b : Nat) : Nat :=
  if s.retired.contains (64 * r + b) then (firstBank r b fun k => s.part.inMap k && !s.retired.contains k).getD b else b

/-- The bank of a line in a reticle: bank h, or the first above it, wrapping, that is in the map (R288). -/
def State.bankIn (s : State) (line r : Nat) : Nat :=
  let h := Config.bankHash line % 64
  if s.part.missing.isEmpty then s.substitute r h else s.substitute r ((firstBank r h s.part.inMap).getD h)

/-- The n-th bank of the placement map. -/
def Part.mapBank (p : Part) (n : Nat) : Nat :=
  if p.missing.isEmpty then n else (((List.range 4096).filter p.inMap)[n]?).getD 0

/-- The anchor bank of a line (R288, R298). -/
def State.anchorBank (s : State) (line : Nat) : Nat :=
  let k := s.part.mapBank (Config.anchorHash line % s.part.mapSize)
  64 * (k / 64) + s.substitute (k / 64) (k % 64)

/-- The reticle of a line's anchor. -/
def State.anchorReticle (s : State) (line : Nat) : Nat := s.part.mapBank (Config.anchorHash line % s.part.mapSize) / 64

/-- Ways and sets of a bank (R288). -/
def bankWays : Nat := 16
def bankSets : Nat := 3072

/-- The set of a line in its bank (R288; log 5). -/
def setOf (line : Nat) : Nat := Config.setHash line % bankSets

/-! ## Entries (R289) -/

/-- A scope tag of level 7: no tag (R337). -/
def tagNone : Word := 7

/-- A scope tag (R337). -/
def scopeTag (level core crew group : Nat) : Word :=
  BitVec.ofNat 32 (level + 8 * core + 8192 * (crew % 128) + 1048576 * (group % 128))

/-- A new entry, lodged in a reticle (R289, R290). -/
def DirEntry.new (s : State) (line ret : Nat) (strm : Bool) : DirEntry where
  ret := ret
  bank := s.bankIn line ret
  moving := none
  due := none
  leaving := false
  pin := false
  strm := strm
  replicas := []
  requesters := []
  timer := s.mesh
  releasers := []
  tags := []
  weir := []
  excl := none
  used := s.tick
  expanded := false

/-- The line whose entry a line uses: the even line of a sheaf block (R288, R300). -/
def State.dirLine (s : State) (line : Nat) : Nat :=
  if s.blocks.contains (line / 2 * 2) then line / 2 * 2 else line

/-- Lines of the unit that an entry covers. -/
def State.dirSpan (s : State) (line : Nat) : Nat := if s.blocks.contains (line / 2 * 2) then 2 else 1

def State.entry? (s : State) (line : Nat) : Option DirEntry := tblGet? s.dir (s.dirLine line)
def State.setEntry (s : State) (line : Nat) (e : DirEntry) : State := { s with dir := tblSet s.dir (s.dirLine line) e }
def State.modEntry (s : State) (line : Nat) (f : DirEntry → DirEntry) : State :=
  { s with dir := tblMod f s.dir (s.dirLine line) }

/-- The weir record of a line (R360). -/
def State.weirRec? (s : State) (line : Nat) : Option WeirRec := (s.entry? line).bind fun e => tblGet? e.weir line

/-- Puts a line's weir record into its entry, or takes it out. -/
def State.setWeir (s : State) (line : Nat) (w : Option WeirRec) : State :=
  s.modEntry line fun e =>
    { e with weir := match w with
                     | some x => tblSet e.weir line x
                     | none => tblErase e.weir line }

/-- Puts a line's scope tag into its entry: one of level 7 is none (R337). -/
def State.setTag (s : State) (line : Nat) (tag : Word) (at_ : List (Nat × Nat)) : State :=
  s.modEntry line fun e => { e with tags := if natBits tag.toNat 2 0 = 7 then tblErase e.tags line else tblSet e.tags line (tag, at_) }

/-- Key of a replica. -/
def replicaKey (line ret : Nat) : Nat := 64 * line + ret

/-! ## Placement hints (R106, R291) -/

/-- Placement hints of LDG and STG (R106). -/
def hintNorm : Nat := 0
def hintPin : Nat := 1
def hintStrm : Nat := 2
def hintRepl : Nat := 3
/-- repl on a load inside a pinned region: it pins, and makes a replica (R291, R294). -/
def hintPinRepl : Nat := 4

/-- Whether an access under an effective hint pins (R291). -/
def pins (hint : Nat) : Bool := hint == hintPin || hint == hintPinRepl

/-- What an access with a hint leaves of a line's pin and strm states: a pin sets the one, any hint but strm clears the other; a
load with the repl hint counts as a norm request (R291, R323). -/
def DirEntry.hinted (e : DirEntry) (hint : Nat) : DirEntry :=
  { e with pin := e.pin || pins hint, strm := e.strm && hint == hintStrm }

/-! ## Room (R289, R297) -/

/-- The units held in one set of a bank: lodged lines, and replicas, marked `true` (R288, R294). -/
def State.setMates (s : State) (ret bank unit : Nat) : List (Nat × Bool) :=
  let same (u : Nat) : Bool := u == unit || setOf u == setOf unit
  ((s.dir.filter fun x => x.2.ret == ret && x.2.bank == bank && same x.1).map fun x => (x.1, false)) ++
    ((s.replicas.filter fun x => x.1 % 64 == ret && same (x.1 / 64) && s.bankIn (x.1 / 64) ret == bank).map fun x => (x.1 / 64, true))

/-- A unit is chosen for eviction: its entry is leaving, and the steps of R297 are due. -/
def State.startEviction (s : State) (unit : Nat) : State :=
  ({ s with dir := tblMod (fun e => { e with leaving := true, due := none }) s.dir unit }).due (.waferCacheEviction [unit])

/-- Entries that the reserved part of a bank has room for (R289; log 5): at least 64 by DESIGN CHOICE. -/
def entryRoom : Nat := 64 + Config.entryStorage

/-- The least recently used of some entries. -/
def oldest (l : List (Nat × DirEntry)) : Option Nat :=
  (l.foldl (fun (b : Option (Nat × DirEntry)) x =>
    match b with
    | none => some x
    | some y => if x.2.used < y.2.used then some x else b) none).map fun x => x.1

/-- After a line has entered a bank: a set with more lines than ways is due to lose one (R297), and an anchor whose entry storage is
full evicts the line of its least recently used entry (R289). -/
def State.checkRoom (s : State) (ret bank unit : Nat) : State :=
  if s.dir.length + s.replicas.length ≤ bankWays then s
  else
    let mates := s.setMates ret bank unit
    let s1 := if bankWays < mates.length then s.due (.waferCacheEviction (mates.map fun x => x.1)) else s
    if s.dir.length ≤ 64 then s1
    else
      let kept := s.dir.filter fun x => !x.2.leaving && s.anchorBank x.1 == s.anchorBank unit
      if entryRoom < kept.length then
        match oldest kept with
        | some u => s1.startEviction u
        | none => s1
      else s1

/-! ## A line enters the wafer cache (R290, R291, R397) -/

/-- A request reaches the anchor without being counted: the line is lodged where it is absent, and a hinted access sets its pin and
strm states. `core` is none for a Dzingewin message, the innkeeper or the dispatcher, which lodge a line in the anchor's
reticle. -/
def State.lodge (s : State) (line : Nat) (core : Option Nat) (hint : Option Nat) : State :=
  let after (e : DirEntry) : DirEntry := { (match hint with | some h => e.hinted h | none => e) with used := s.tick }
  match s.entry? line with
  | some e => s.setEntry line (after e)
  | none =>
    let unit := s.dirLine line
    let home : Nat :=
      match core with
      | some c => if s.part.hasBank (s.reticleOf c) then s.reticleOf c else s.anchorReticle unit
      | none => s.anchorReticle unit
    let e := after (DirEntry.new s unit home (hint == some hintStrm))
    (s.setEntry line e).checkRoom e.ret e.bank unit

end Sys2Proof.Machine
end

