-- ==== Sys2Proof/Machine/Sheaf.lean ====
section
/-! DEFINITION. Sheaf blocks: the encoding of 256 plain bytes (R317 to R319), in which HBM, the wafer cache and `shenc` hold them
(R300). -/

namespace Sys2Proof.Machine

/-! ## Elements and bits -/

/-- Bytes of an element. -/
def elemSize (f : Nat) : Nat := if f = 0 then 4 else 2

/-- Elements of a byte list. -/
def elemsOf (f : Nat) (b : List Byte) : List Nat :=
  (List.range (b.length / elemSize f)).map fun k => fieldAt b (elemSize f * k) (elemSize f)

/-- Bits as bytes, bit k in byte k / 8; the last byte is filled with zeros (R74). -/
def bitsToBytes (l : List Bool) : List Byte :=
  (List.range ((l.length + 7) / 8)).map fun j =>
    BitVec.ofNat 8 (((List.range 8).map fun i => if l.getD (8 * j + i) false then 2 ^ i else 0).sum)

/-- Bit k of a byte stream (R314). -/
def streamBit (b : List Byte) (k : Nat) : Bool := natBit (fieldAt b (k / 8) 1) (k % 8)

/-- Bits lo to lo + w - 1 of a byte stream. -/
def streamBits (b : List Byte) (lo w : Nat) : Nat := ((List.range w).map fun i => if streamBit b (lo + i) then 2 ^ i else 0).sum

/-! ## Blocks (R317 to R319) -/

/-- Exponent field, and the other bits packed below it, of a sheaf element: BF16 or FP32. -/
def sheafSplit (bf : Bool) (x : Nat) : Nat × Nat :=
  if bf then (natBits x 14 7, x % 128 + 128 * natBits x 15 15) else (natBits x 30 23, x % 8388608 + 8388608 * natBits x 31 31)

/-- The element again. -/
def sheafJoin (bf : Bool) (ex rest : Nat) : Nat :=
  if bf then rest % 128 + 128 * ex + 32768 * natBits rest 7 7 else rest % 8388608 + 8388608 * ex + 2147483648 * natBits rest 23 23

/-- Values of `w` bits as a little-endian bit stream. -/
def packBits (w : Nat) (l : List Nat) : List Byte :=
  bitsToBytes ((l.map fun x => (List.range w).map fun i => natBit x i).flatten)

/-- Length of an exponent-delta block. -/
def sheafLength (bf : Bool) (dw : Nat) : Nat := if bf then 134 + 16 * dw else 198 + 8 * dw

/-- Smallest exponent field and delta width of a block's elements (R318). -/
def sheafWidth (bf : Bool) (b : List Byte) : Nat × Nat :=
  let ex := (elemsOf (if bf then 1 else 0) b).map fun x => (sheafSplit bf x).1
  let lo := ex.foldl min 255
  (lo, bitLen (ex.foldl max 0 - lo))

/-- An exponent-delta encoding of 256 bytes. -/
def sheafDelta (bf : Bool) (b : List Byte) : List Byte :=
  let (lo, dw) := sheafWidth bf b
  let el := (elemsOf (if bf then 1 else 0) b).map (sheafSplit bf)
  leBytes (if bf then 2 else 3) 1 ++ [0] ++ leBytes (sheafLength bf dw) 2 ++ leBytes lo 1 ++ leBytes dw 1 ++
    (el.map fun x => leBytes x.2 (if bf then 1 else 3)).flatten ++ packBits dw (el.map fun x => x.1 - lo)

/-- Encodes 256 plain bytes: `fmt` 0 permits FP32, 1 BF16, 2 both (R318). -/
def sheafEncode (fmt : Nat) (b : List Byte) : List Byte :=
  let raw := leBytes 0 2 ++ leBytes 260 2 ++ b
  if b.all fun x => x == 0 then leBytes 1 2 ++ leBytes 4 2
  else
    let lb := sheafLength true (sheafWidth true b).2
    let lf := sheafLength false (sheafWidth false b).2
    if fmt ≠ 0 ∧ lb < 260 ∧ (fmt = 1 ∨ lb ≤ lf) then sheafDelta true b
    else if fmt ≠ 1 ∧ lf < 260 then sheafDelta false b
    else raw

/-- Decodes a whole block; none where it is illegal (R319). -/
def sheafDecode (b : List Byte) : Option (List Byte) :=
  let kind := fieldAt b 0 1
  let len := fieldAt b 2 2
  if fieldAt b 1 1 ≠ 0 then none
  else if kind = 0 then (if len = 260 then some (bytesAt b 4 256) else none)
  else if kind = 1 then (if len = 4 then some (List.replicate 256 0) else none)
  else if kind = 2 ∨ kind = 3 then
    let bf := kind == 2
    let eb := fieldAt b 4 1
    let dw := fieldAt b 5 1
    let n := if bf then 128 else 64
    let size := if bf then 1 else 3
    if 8 < dw ∨ len ≠ sheafLength bf dw then none
    else
      let deltas := (List.range n).map fun k => streamBits (b.drop (6 + n * size)) (dw * k) dw
      if deltas.any fun d => decide (255 < eb + d) then none
      else
        some (((List.range n).map fun k =>
          leBytes (sheafJoin bf (eb + deltas.getD k 0) (fieldAt b (6 + size * k) size)) (if bf then 2 else 4)).flatten)
  else none

end Sys2Proof.Machine
end

