-- ==== Sys2Proof/Machine/Translate.lean ====
section
/-! DEFINITION. Virtual addresses: page tables, the TLB, region registers, the private range and the checks of a global access
(R101, R102, R281 to R286, R299, R399). -/

namespace Sys2Proof.Machine

/-! ## Page-table entries (R283, R284) -/

def pteV (e : DWord) : Bool := e.getLsbD 0
def pteR (e : DWord) : Bool := e.getLsbD 1
def pteW (e : DWord) : Bool := e.getLsbD 2
def pteX (e : DWord) : Bool := e.getLsbD 3
def pteCow (e : DWord) : Bool := e.getLsbD 4
def pteL (e : DWord) : Bool := e.getLsbD 5
def pteSh (e : DWord) : Bool := e.getLsbD 6
def pteRm (e : DWord) : Bool := e.getLsbD 7
def pteHw (e : DWord) : Bool := e.getLsbD 8
def ptePpn (e : DWord) : Nat := natBits e.toNat 51 15

/-- Offset bits of a leaf of a level (R284). -/
def leafBits (lvl : Nat) : Nat :=
  match lvl with
  | 2 => 39
  | 3 => 27
  | _ => 15

/-- The index into the table of a level (R282). -/
def tableIndex (va lvl : Nat) : Nat :=
  match lvl with
  | 1 => natBits va 55 51
  | 2 => natBits va 50 39
  | 3 => natBits va 38 27
  | _ => natBits va 26 15

/-- A malformed entry of a level (R284). -/
def malformed (e : DWord) (lvl : Nat) : Bool :=
  decide (natBits e.toNat 14 9 ≠ 0) || decide (natBits e.toNat 63 52 ≠ 0) ||
  (pteL e && lvl == 1) || (!pteL e && lvl == 4) ||
  (!pteL e && (pteR e || pteW e || pteX e || pteCow e || pteSh e || pteRm e || pteHw e)) ||
  (pteL e && lvl == 3 && decide (ptePpn e % 2 ^ 12 ≠ 0)) ||
  (pteL e && lvl == 2 && decide (ptePpn e % 2 ^ 24 ≠ 0)) ||
  (!pteRm e && decide (Config.hbmBytes < ptePpn e * pageBytes + (if pteL e then 2 ^ leafBits lvl else pageBytes)))

/-- What a walk finds (R284). -/
inductive Walk where
  | leaf (l : Leaf)
  /-- an entry that is not valid -/
  | absent
  /-- a malformed entry -/
  | broken
  deriving DecidableEq, Repr

/-- The walk from a table over the levels that remain. Each entry is read through the wafer cache: its line enters it as a request
of the walking core, or of a party that is no core (R284, R290); a walk is not counted (R292). -/
def walkFrom (core : Option Nat) (va : Nat) : State → Nat → List Nat → State × Walk
  | s, _, [] => (s, .broken)
  | s, t, lvl :: r =>
    let a := t + 8 * tableIndex va lvl
    let e : DWord := BitVec.ofNat 64 (leNat (memReadBytes s.mem a 8))
    let s1 := s.lodge (a / lineBytes) core none
    if !pteV e then (s1, .absent)
    else if malformed e lvl then (s1, .broken)
    else if pteL e then (s1, .leaf { pte := e, lvl := lvl })
    else walkFrom core va s1 (ptePpn e * pageBytes) r

/-- A walk of a context's tables; it reads the latest value performed at each entry's lodging bank (R284). -/
def State.walk (s : State) (core : Option Nat) (ctx va : Nat) : State × Walk :=
  match s.context? ctx with
  | none => (s, .absent)
  | some c => walkFrom core va s c.root.toNat [1, 2, 3, 4]

/-- The physical address that a leaf gives. -/
def leafPa (l : Leaf) (va : Nat) : Nat := ptePpn l.pte * pageBytes + va % 2 ^ leafBits l.lvl

/-- Entries of a TLB (R285). -/
def tlbEntries : Nat := 2048

/-- Looks an address up in a core's TLB. -/
def tlbFind (t : List (Nat × Nat × Leaf)) (ctx va : Nat) : Option Leaf :=
  (t.find? fun e => e.1 == ctx && decide (va / 2 ^ leafBits e.2.2.lvl = e.2.1 / 2 ^ leafBits e.2.2.lvl)).map fun e => e.2.2

/-- Fills a TLB entry, in the place of an older one of the same page or of the oldest (log 10). -/
def tlbFill (t : List (Nat × Nat × Leaf)) (ctx va : Nat) (l : Leaf) : List (Nat × Nat × Leaf) :=
  ((ctx, va, l) :: t.filter fun e =>
    !(e.1 == ctx && decide (va / 2 ^ leafBits l.lvl = e.2.1 / 2 ^ leafBits l.lvl))).take tlbEntries

/-! ## Kinds of access -/

/-- What an access needs of its page (R101, R232). -/
inductive Need where
  | load
  | store
  | both
  /-- both, by an atomic operation that no remote page carries (R171) -/
  | here
  | exec
  deriving DecidableEq, Repr

def Need.writes : Need → Bool
  | .store => true
  | .both => true
  | .here => true
  | _ => false

/-- What a leaf answers to a need: none where it is permitted; some true for a held copy-on-write fault, some false for a
denial (R101, R232, R283). -/
def leafDenies (e : DWord) (n : Need) : Option Bool :=
  let readDenied := !pteR e
  let writeAnswer : Option Bool := if pteCow e then some true else if pteW e then none else some false
  match n with
  | .load => if readDenied then some false else none
  | .exec => if pteX e then none else some false
  | .store => writeAnswer
  | .both => if readDenied then some false else writeAnswer
  | .here => if readDenied then some false else writeAnswer

/-- Translates through the TLB; a TLB leaf that denies the need, like a miss, is walked afresh (R285, R287; log 10). -/
def State.translate (s : State) (core ctx va : Nat) (n : Need) : State × Walk :=
  let fresh : State × Walk :=
    match s.walk (some core) ctx va with
    | (s1, .leaf l) => (s1.modCore core fun c => { c with tlb := tlbFill c.tlb ctx va l }, .leaf l)
    | w => w
  match tlbFind (s.coreSt core).tlb ctx va with
  | some l => if (leafDenies l.pte n).isNone then (s, .leaf l) else fresh
  | none => fresh

/-! ## The private range and the reserved page (R185, R399) -/

def privateLow : Nat := 0x00FF000000000000
def privateEnd : Nat := 0x00FFFFFFFFFF8000
def addressEnd : Nat := 0x0100000000000000

def inPrivateRange (va : Nat) : Bool := decide (privateLow ≤ va) && decide (va < privateEnd)
def inReservedPage (va : Nat) : Bool := decide (privateEnd ≤ va) && decide (va < addressEnd)

/-- Bytes of a group's private area. -/
def State.areaSize (s : State) (g : Group) : Nat := privSize (s.groupWb g) g.width

/-- The group of a context, one that has ended and whose area is kept included, whose private area covers `n` bytes at an address.
-/
def State.areaAt (s : State) (ctx va n : Nat) : Option Nat :=
  ((s.groups.find? fun x => s.ctxOf x.2 == ctx && decide (x.2.privBase.toNat ≤ va) &&
    decide (va + n ≤ x.2.privBase.toNat + s.areaSize x.2)).map fun x => x.1) <|>
  ((s.context? ctx).bind fun c => (c.kept.find? fun k => decide (k.base ≤ va) && decide (va + n ≤ k.base + k.size)).map KeptArea.group)

/-- The kept area of a group that has ended. -/
def State.keptArea? (s : State) (gid : Nat) : Option KeptArea := s.contexts.findSome? fun c => c.2.kept.find? fun k => k.group == gid

/-- One 32-byte entry of the split stack (R201). -/
def stackEntry (pc mask arrived : DWord) (fm : Word) (link kind : Nat) : List Byte :=
  leBytes pc.toNat 8 ++ leBytes mask.toNat 8 ++ leBytes arrived.toNat 8 ++ leBytes fm.toNat 4 ++ leBytes link 2 ++
    leBytes kind 1 ++ leBytes 0 1

/-- The link field of an entry: the index of an open record, 0xFFFF for none (R201). -/
def Group.linkField (g : Group) (o : Option Nat) : Nat := ((o.bind (tblGet? g.records)).map fun r => r.index).getD 0xFFFF

/-- Entry `i` of the split stack of a group: a record beyond the two kept on the core, or a spilled split; a free entry reads 0
(R200, R201; log 13). -/
def Group.stackEntryAt (g : Group) (i : Nat) : List Byte :=
  match (g.records.drop 2).find? fun r => r.2.entry == i, g.spilled.find? fun x => x.entry == i with
  | some r, _ => stackEntry r.2.j r.2.union r.2.arrived r.2.fm (g.linkField r.2.outer) 1
  | none, some x => stackEntry x.pc x.mask 0 x.fm (g.linkField x.link) 2
  | none, none => List.replicate 32 0

/-- Whether bytes of a private area hold an uncorrectable error (R104, R287). -/
def State.areaBad (s : State) (gid va n : Nat) : Bool :=
  match s.group? gid with
  | none =>
    ((s.keptArea? gid).map fun k => k.bad.any fun x => decide (va ≤ k.base + x) && decide (k.base + x < va + n)).getD false
  | some g => !g.privBad.isEmpty && g.privBad.any fun x => decide (va ≤ g.privBase.toNat + x) && decide (g.privBase.toNat + x < va + n)

/-- Bytes of a private area behind the L1s by virtual address, as every party but a core reads them (R287, R399). -/
def State.areaRead (s : State) (gid va n : Nat) : List Byte :=
  match s.group? gid with
  | none => ((s.keptArea? gid).map fun k => memReadBytes k.mem (va - k.base) n).getD (List.replicate n 0)
  | some g => memReadBytes g.priv (va - g.privBase.toNat) n

/-! ## Region registers (R299) -/

/-- The register that covers an address: the lowest-numbered one decides. -/
def Context.regionAt (c : Context) (va : Nat) : Option RegionReg :=
  (c.regions.find? fun r => decide (r.2.base.toNat ≤ va) && decide (va < r.2.base.toNat + r.2.len.toNat)).map fun r => r.2

/-- Kinds of region. -/
def regionNone : Nat := 0
def regionWeir : Nat := 1
def regionNoncoherent : Nat := 2
def regionPinned : Nat := 3

/-- The kind and crest that apply to an access: a weir region has none on a host-writable page (R355). -/
def State.regionOf (s : State) (ctx va : Nat) (l : Leaf) : Nat × Word :=
  match s.context? ctx with
  | none => (regionNone, 0)
  | some c =>
    match c.regionAt va with
    | none => (regionNone, 0)
    | some r => if r.kind = regionWeir ∧ pteHw l.pte then (regionNone, 0) else (r.kind, r.crest)

/-! ## L1 lines (R287) -/

def CoreSt.find (c : CoreSt) (ctx vline : Nat) : Option L1Line := c.l1.find? fun x => x.ctx == ctx && x.vline == vline

/-- Whether `n` bytes of a line from an offset are valid. -/
def L1Line.covers (x : L1Line) (off n : Nat) : Bool := (List.range n).all fun i => (tblGet? x.bytes (off + i)).isSome

/-! ## Where an access goes -/

/-- A peer of a remote page, and the address there (R171). -/
def State.peerOf (s : State) (ctx : Nat) (l : Leaf) (va : Nat) : Option (Peer × Nat) :=
  match s.context? ctx with
  | none => none
  | some c =>
    let ppn := ptePpn l.pte + va % 2 ^ leafBits l.lvl / pageBytes
    (tblGet? c.peers (natBits ppn 36 30)).map fun p => (p, ppn % 2 ^ 30 * pageBytes + va % pageBytes)

/-- Where a global access goes, or why it does not. -/
inductive Route where
  /-- local memory at a physical address -/
  | mem (l : Leaf) (pa : Nat)
  /-- a group's private area -/
  | area (g : Nat)
  /-- remote memory -/
  | remote (p : Peer) (addr : Nat)
  | cause (c : Nat)
  /-- a held translation fault on a page (R102) -/
  | held (p : PageRef)
  deriving DecidableEq, Repr

/-- The line of a core's L1 that an access hits: it holds the bytes that are read and the right that is needed (R287). -/
def State.l1Hit (s : State) (core ctx va n : Nat) (need : Need) : Option L1Line :=
  ((s.coreSt core).find ctx (va / lineBytes)).filter fun x =>
    match need with
    | .load => x.r && x.covers (va % lineBytes) n
    | .store => x.w
    | .both => x.r && x.w && x.covers (va % lineBytes) n
    | .here => x.r && x.w && x.covers (va % lineBytes) n
    | .exec => x.x && x.covers (va % lineBytes) n

/-- The fate of a held access: a page that the host has refused for this instruction traps instead of holding it (R102). -/
def heldFate (verdicts : List (PageRef × Bool)) (va : Nat) (p : PageRef) : Route :=
  match verdicts.find? fun x => x.1.covers va with
  | some (_, true) => .cause causePERM
  | some (_, false) => .cause causeADDR
  | none => .held p

/-- The fate of a translated access to an address outside the private range and the reserved page (R101, R171, R284). A
copy-on-write leaf holds its own page, whatever its size; an entry that is not valid holds a page of the smallest kind (R102). An
operation that a remote page does not carry is denied there, before a fault could hold it (R171, R233). Without `tlb` the tables are
walked and the core's TLB is left alone (R285). -/
def State.routePage (s : State) (core ctx va : Nat) (need : Need) (verdicts : List (PageRef × Bool)) (tlb : Bool) : State × Route :=
  match (if tlb then s.translate core ctx va need else s.walk (some core) ctx va) with
  | (s1, .absent) => (s1, heldFate verdicts va (smallPage va))
  | (s1, .broken) => (s1, .cause causeADDR)
  | (s1, .leaf l) =>
    match leafDenies l.pte need with
    | some false => (s1, .cause causePERM)
    | answer =>
      if pteRm l.pte && (answer.isNone || need == .here) then
        match s1.peerOf ctx l va with
        | some (p, a) => (s1, if need = .here then .cause causePERM else .remote p a)
        | none => (s1, .cause causeADDR)
      else if answer.isSome then (s1, heldFate verdicts va { num := va / 2 ^ leafBits l.lvl, bits := leafBits l.lvl })
      else (s1, .mem l (leafPa l va))

/-- The fate of an access of `n` bytes at an address below 2^56, after ALIGN and ADDR (R101, R284, R399). An access that hits the L1
is not translated, and one that misses goes through the TLB (R285); `cached` is false for the engines, which translate through pipes
of their own (R308). -/
def State.route (s : State) (core ctx va n : Nat) (need : Need) (verdicts : List (PageRef × Bool)) (cached : Bool := true) :
    State × Route :=
  if inReservedPage va then (s, .cause causeADDR)
  else if inPrivateRange va then
    if need = .exec then (s, .cause causePERM)
    else
      match s.areaAt ctx va n with
      | none => (s, .cause causeADDR)
      | some g => if need.writes then (s, .cause causePERM) else (s, .area g)
  else
    match (if cached then s.l1Hit core ctx va n need else none) with
    | some x => (s, .mem x.leaf (x.pline * lineBytes + va % lineBytes))
    | none => s.routePage core ctx va need verdicts cached

end Sys2Proof.Machine
end

