-- ==== Sys2Proof/Machine/Cache.lean ====
section
/-! DEFINITION. The wafer cache and the L1s: requester counts and moves, replicas and collapse, scope tags and releasers, drains,
exclusive grants and watches (R106, R235, R241, R287, R290 to R297, R337 to R345, R397). Physical lines are named by PA[51:7], virtual
lines by VA[55:7]. -/

namespace Sys2Proof.Machine

/-! ## Counts and moves (R292, R293) -/

/-- The lowest count, ties to the entry filled earliest. -/
def lowestRequester : List (Nat × Nat) → Option (Nat × Nat)
  | [] => none
  | x :: r =>
    match lowestRequester r with
    | none => some x
    | some y => if y.2 < x.2 then some y else some x

/-- Adds 1 to a reticle's count (R292). -/
def countRequest (l : List (Nat × Nat)) (r : Nat) : List (Nat × Nat) :=
  if l.any fun x => x.1 == r then l.map fun x => if x.1 = r then (r, min 63 (x.2 + 1)) else x
  else if l.length < 4 then l ++ [(r, 1)]
  else
    match lowestRequester l with
    | some v => (l.filter fun x => x.1 != v.1) ++ [(r, 1)]
    | none => [(r, 1)]

/-- A reticle's count in an entry, 0 if it holds none. -/
def requesterCount (l : List (Nat × Nat)) (r : Nat) : Nat :=
  match l.find? fun x => x.1 == r with
  | some x => x.2
  | none => 0

/-- The reticle toward which a line would move: a remote reticle with a bank whose count is at least 24 and at least 8 above the
own count, the highest, ties to the lower order index (R293). -/
def moveCandidate (p : Part) (e : DirEntry) : Option Nat :=
  (e.requesters.foldl (fun best x =>
    if x.1 == e.ret || !p.hasBank x.1 || decide (x.2 < 24) || decide (x.2 < requesterCount e.requesters e.ret + 8) then best
    else
      match best with
      | none => some x
      | some b => if b.2 < x.2 || (b.2 == x.2 && decide (x.1 < b.1)) then some x else best) none).map fun x => x.1

/-- One step of the X-then-Y route between reticles. -/
def routeStep (here goal : Nat) : Nat :=
  if here % 8 < goal % 8 then here + 1
  else if goal % 8 < here % 8 then here - 1
  else if here / 8 < goal / 8 then here + 8
  else if goal / 8 < here / 8 then here - 8
  else here

/-- The next reticle on the route that has a bank in the map (R293, R397). -/
def nextOnRoute (p : Part) (here goal : Nat) : Nat → Nat
  | 0 => goal
  | n + 1 =>
    let r := routeStep here goal
    if p.hasBank r || r == goal then r else nextOnRoute p r goal n

/-! ## Watches (R241) -/

/-- A watched line was written, invalidated or evicted: the watches of the groups that `p` admits fire, and a group that sleeps
in `mwait` is due to wake with reason 0. -/
def State.fireWatches (s : State) (line : Nat) (p : Group → Bool) : State :=
  let hit (g : Group) : Bool :=
    match g.watch with
    | some w => w.pline == line && !w.remote && !w.fired && p g
    | none => false
  if s.groups.any fun x => hit x.2 then
    let asleep (g : Group) : Bool := g.allSplits.any fun x =>
      match x.wait with
      | .monitor _ _ => true
      | _ => false
    let wakes := (s.groups.filter fun x => hit x.2 && asleep x.2).map fun x => Instr.monitorWake x.1 0
    let mark (g : Group) : Group :=
      if hit g then { g with watch := g.watch.map fun w => { w with fired := true } } else g
    State.dueAll { s with groups := tblMap (fun _ g => mark g) s.groups } wakes
  else s

/-! ## Writes at the lodging bank (R295, R337) -/

/-- Collapse: an invalidation goes to every replica and the bitmap is cleared; `core` caused it (R295, R342). A replica whose
invalidation another party's write or an eviction has already sent still holds an older value than this write: its arrival is
awaited for this write too, as a second invalidation, which the bank discards (R295, R324, R334). -/
def State.collapse (s : State) (line core : Nat) : State :=
  let unit := s.dirLine line
  let bits := ((s.entry? line).map (·.replicas)).getD []
  if bits.isEmpty && s.invals.isEmpty then s
  else
    let flying := (s.invals.filter fun x => x.1 == unit).map fun x => x.2.1
    let fresh := ((bits ++ flying).eraseDups).filter fun r => !s.invals.contains (unit, r, core)
    let s1 := s.modEntry line fun e => { e with replicas := [] }
    let late (x : Replica) : Replica := if x.old.contains line then x else { x with old := line :: x.old }
    State.dueAll { s1 with invals := s.invals ++ fresh.map fun r => (unit, r, core),
                           replicas := tblMap (fun k x => if k / 64 = unit then late x else x) s.replicas }
      (fresh.map fun r => Instr.replicaInvalidation unit r core)

/-- A party that is no core, in the record of who caused an invalidation. -/
def noCore : Nat := 1024

/-- Bytes arrive at the lodging bank: they merge byte by byte, lose their poison, take the tag given, and the replicas
collapse. -/
def State.bankPut (s : State) (pa core : Nat) (bytes : List Byte) (tag : Word) : State :=
  let line := pa / lineBytes
  let s1 := { s with mem := memWriteBytes s.mem pa bytes,
                     bad := if s.bad.isEmpty then [] else s.bad.filter fun a => !(decide (pa ≤ a) && decide (a < pa + bytes.length)) }
  (((s1.modEntry line fun e => { e with used := s.tick }).setTag line tag [(pa % lineBytes, bytes.length)]).collapse line
    core).fireWatches line fun _ => true

/-- The bytes of a line at its lodging bank. -/
def State.bankLine (s : State) (line : Nat) : List Byte := memReadBytes s.mem (line * lineBytes) lineBytes

/-- Whether bytes hold an uncorrectable error (R104). -/
def State.bankBad (s : State) (pa n : Nat) : Bool :=
  !s.bad.isEmpty && s.bad.any fun a => decide (pa ≤ a) && decide (a < pa + n)

/-! ## L1 lines (R287) -/

/-- Puts a line in first place of the recency order. -/
def CoreSt.put (c : CoreSt) (x : L1Line) : CoreSt :=
  { c with l1 := x :: c.l1.filter fun y => !(y.ctx == x.ctx && y.vline == x.vline) }

def CoreSt.drop (c : CoreSt) (ctx vline : Nat) : CoreSt :=
  { c with l1 := c.l1.filter fun y => !(y.ctx == ctx && y.vline == vline) }

/-- The dirty bytes of a line, as consecutive runs of offset and bytes. -/
def dirtyRuns : Tbl L1Byte → List (Nat × List Byte)
  | [] => []
  | (o, b) :: r =>
    match dirtyRuns r with
    | (p, bs) :: q => if !b.dirty then (p, bs) :: q else if p = o + 1 then (o, b.val :: bs) :: q else (o, [b.val]) :: (p, bs) :: q
    | [] => if b.dirty then [(o, [b.val])] else []

def L1Line.dirty (x : L1Line) : Bool := x.bytes.any fun b => b.2.dirty

/-- A report of an error to the host, in the context's event log: the first address (R104, R238, R359; log 19). -/
def State.reportError (s : State) (ctx pa : Nat) : State :=
  s.modContext ctx fun c => { c with log := c.log ++ leBytes pa 8 }

/-- A write to a line with an uncorrectable error is performed and reported (R104). -/
def State.reportBad (s : State) (ctx line : Nat) : State :=
  if s.bankBad (line * lineBytes) lineBytes then s.reportError ctx (line * lineBytes) else s

/-- The name of the physical line that holds a private line. Firmware chooses its place in the private pool, outside every context's
address space, and no instruction tells it: the model names it by context and virtual line, above every physical line (log 13). -/
def areaLine (ctx vline : Nat) : Nat := 2 ^ 45 * (ctx + 1) + vline

/-- Whether a line's name is that of a private line. -/
def isAreaLine (pline : Nat) : Bool := decide (2 ^ 45 ≤ pline)

/-- Bytes reach a private area behind the L1s: they lose their poison (R104, R287). -/
def Group.areaPut (g : Group) (off : Nat) (b : List Byte) : Group :=
  { g with priv := memWriteBytes g.priv off b,
           privBad := if g.privBad.isEmpty then [] else g.privBad.filter fun x => !(decide (off ≤ x) && decide (x < off + b.length)) }

/-- The dirty bytes of a private line reach its area; a write to a line with an uncorrectable byte is reported (R104, R287; log 19).
-/
def State.areaBack (s : State) (x : L1Line) : State :=
  let va := x.vline * lineBytes
  (dirtyRuns x.bytes).foldl (fun s r =>
    match s.areaAt x.ctx (va + r.1) r.2.length with
    | some gid => s.modGroup gid fun g => g.areaPut (va + r.1 - g.privBase.toNat) r.2
    | none => s)
    (match s.areaAt x.ctx va 1 with
      | some gid => if s.areaBad gid va lineBytes then s.reportError x.ctx va else s
      | none => s)

/-- A line of a sheaf page that leaves an L1 keeps its block one unit (R288, R300). -/
def State.keepBlock (s : State) (l : Leaf) (line : Nat) : State :=
  let even := line / 2 * 2
  if pteSh l.pte && !s.blocks.contains even && (tblGet? s.dir (even + 1)).isNone then { s with blocks := even :: s.blocks } else s

/-- Sends a line's dirty bytes to its lodging bank; they stay in L1 as clean bytes, and the tag travels (R287, R292, R337). -/
def State.sendDirty (s : State) (core : Nat) (x : L1Line) : State :=
  if x.dirty then
    let clean (y : L1Line) : L1Line :=
      if y.ctx == x.ctx && y.vline == x.vline then
        { y with pin := false, bytes := tblMap (fun _ b => { b with dirty := false }) y.bytes }
      else y
    let s0 := s.modCore core fun c => { c with l1 := c.l1.map clean }
    if isAreaLine x.pline then (s0.lodge x.pline (some core) (if x.pin then some hintPin else none)).areaBack x
    else
      let s1 := (s0.keepBlock x.leaf x.pline).lodge x.pline (some core) (if x.pin then some hintPin else none)
      ((dirtyRuns x.bytes).foldl (fun s r => s.bankPut (x.pline * lineBytes + r.1) core r.2 x.tag)
        (s1.reportBad x.ctx x.pline)).setTag x.pline x.tag x.tagAt
  else s

/-- Ends a core's exclusive grant of the unit of a line: at the anchor, and in the core's L1 (R235). -/
def State.endGrant (s : State) (line core : Nat) : State :=
  match s.entry? line with
  | some { excl := some h, .. } =>
    if h = core then
      let lower (y : L1Line) : L1Line := if s.dirLine y.pline = s.dirLine line then { y with excl := false } else y
      (s.modEntry line fun e => { e with excl := none }).modCore core fun c => { c with l1 := c.l1.map lower }
    else s
  | _ => s

/-- Recalls an exclusive grant at once: the holder's dirty bytes of the unit go to the lodging bank and the grant ends
(R235). -/
def State.recallNow (s : State) (line : Nat) : State :=
  match s.entry? line with
  | some { excl := some h, .. } =>
    (((s.coreSt h).l1.filter fun x => s.dirLine x.pline == s.dirLine line).foldl (fun t x => t.sendDirty h x) s).endGrant line h
  | _ => s

/-- An access through a leaf of a sheaf page: its block shares the entry of the even line from now on, also after that entry has
been freed. An entry that the odd line had of its own, brought in through another mapping of the page, ends; grants of the two lines
are recalled first (R235, R300; log 9). An access through another leaf ends the block once it has no entry. -/
def State.noteSheaf (s : State) (l : Leaf) (line : Nat) : State :=
  let even := line / 2 * 2
  if pteSh l.pte then
    if s.blocks.contains even then s
    else if (tblGet? s.dir (even + 1)).isNone then { s with blocks := even :: s.blocks }
    else
      let s1 := (s.recallNow even).recallNow (even + 1)
      match tblGet? s1.dir (even + 1) with
      | none => { s1 with blocks := even :: s1.blocks }
      | some o =>
        let merged : DirEntry :=
          match tblGet? s1.dir even with
          | some e => { e with pin := e.pin || o.pin, replicas := [], tags := e.tags ++ o.tags, weir := e.weir ++ o.weir,
                               releasers := e.releasers ++ o.releasers.filter fun r => !e.releasers.contains r }
          | none => { o with replicas := [] }
        { s1 with blocks := even :: s1.blocks, dir := tblSet (tblErase s1.dir (even + 1)) even merged,
                  replicas := s1.replicas.filter fun x => x.1 / 64 != even && x.1 / 64 != even + 1 }
  else if !s.blocks.isEmpty && s.blocks.contains even && (tblGet? s.dir even).isNone then
    { s with blocks := s.blocks.filter fun x => x != even }
  else s

/-- A write that reaches a line from a party other than the holder of its exclusive grant recalls the grant first (R235). -/
def State.recallFrom (s : State) (line core : Nat) : State :=
  match s.entry? line with
  | some { excl := some h, .. } => if h = core then s else s.recallNow line
  | _ => s

/-- Writes bytes at the lodging bank. -/
def State.bankWrite (s : State) (pa core : Nat) (bytes : List Byte) (tag : Word) : State :=
  (s.recallFrom (pa / lineBytes) core).bankPut pa core bytes tag

/-- Writes a line's dirty bytes back to its lodging bank; a grant under which the core holds the line ends (R235, R287). -/
def State.writeBack (s : State) (core : Nat) (x : L1Line) : State :=
  if x.excl then s.recallNow x.pline
  else if x.dirty then (s.recallFrom x.pline core).sendDirty core x
  else s

/-- A line leaves an L1: written back and dropped, its grant ended (R287, R235). -/
def State.evictL1 (s : State) (core : Nat) (x : L1Line) : State :=
  (s.writeBack core x).modCore core fun c => c.drop x.ctx x.vline

/-! ## Counted requests (R292, R293) -/

/-- Decides a move at an increment (R293); the timer is looked at last. An exclusive grant of the line ends (R235). -/
def State.considerMove (s : State) (line : Nat) : State :=
  match s.entry? line with
  | none => s
  | some e =>
    if e.pin || e.strm || !e.weir.isEmpty || e.moving.isSome || e.due.isSome || e.leaving then s
    else
      match moveCandidate s.part e with
      | none => s
      | some r =>
        if e.timer + 1024 ≤ s.mesh then
          let decided (e : DirEntry) : DirEntry :=
            { e with due := some (nextOnRoute s.part e.ret r 14, s.nextOrder), timer := s.mesh }
          State.due { (s.recallNow line).modEntry line decided with nextOrder := s.nextOrder + 1 } (.droverMove (s.dirLine line))
        else s

/-- A request that is counted reaches the anchor: a request of a core other than strm adds 1 to its reticle's count, unless the line
is a weir line (R292, R323, R355). -/
def State.touch (s : State) (line : Nat) (core : Option Nat) (hint : Nat) : State :=
  let s1 := s.lodge line core (some hint)
  match core with
  | some c =>
    if hint = hintStrm then s1
    else
      (s1.modEntry line fun e =>
        if e.weir.isEmpty = false then e else { e with requesters := countRequest e.requesters (s1.reticleOf c) }).considerMove line
  | none => s1

/-- The hint under which an access acts: pin in a pinned region, where repl still makes a replica (R291, R294); repl has no effect
on a noncoherent line (R106, R107). -/
def effectiveHint (hint kind : Nat) : Nat :=
  if kind = regionPinned then (if hint = hintRepl then hintPinRepl else hintPin) else if kind = regionNoncoherent ∧ hint = hintRepl then hintNorm else hint

/-! ## L1 sets -/

/-- Sets of an L1: 256 KiB in 16 ways of 128-byte lines (R287). -/
def l1Sets : Nat := 128
def l1Ways : Nat := 16

/-- A copy of the physical line under another virtual address or context goes out first (R287). -/
def State.unalias (s : State) (core ctx vline pline : Nat) : State :=
  match (s.coreSt core).l1.find? fun x => x.pline == pline && !(x.ctx == ctx && x.vline == vline) with
  | some x => s.evictL1 core x
  | none => s

/-- The virtual lines of the delta lines of a core in an L1 set (R356). -/
def deltasInSet (c : CoreSt) (set : Nat) : List Delta := c.deltas.filter fun d => d.vline % l1Sets == set

/-- Makes room in an L1 set: the least recently used data line of a full set goes out; where delta lines hold every way, the least
recently used of them that has its answer is spilled as a sluice spills it (R357; log 9). -/
def State.makeRoom (s : State) (core vline : Nat) : State :=
  let c := s.coreSt core
  let inSet := c.l1.filter fun x => x.vline % l1Sets == vline % l1Sets
  let deltas := deltasInSet c (vline % l1Sets)
  if inSet.length + deltas.length < l1Ways then s
  else
    match inSet.getLast? with
    | some x => s.evictL1 core x
    | none =>
      match (deltas.filter fun d => d.st != .asking && !d.leaving).getLast? with
      | some d => if s.agenda.contains (.sluice core d.ctx d.pline) then s else s.due (.sluice core d.ctx d.pline)
      | none => s

/-- An L1 line without any valid byte, with the rights of a leaf. -/
def L1Line.new (ctx vline pline : Nat) (l : Leaf) (nc : Bool) : L1Line where
  ctx := ctx
  vline := vline
  pline := pline
  r := pteR l.pte
  w := pteW l.pte && !pteCow l.pte
  x := pteX l.pte
  leaf := l
  nc := nc
  bytes := []
  tag := tagNone
  tagAt := []
  excl := false
  pin := false

/-- The line of an access in a core's L1, made where it is absent; it takes the rights of the leaf and moves to first place. -/
def State.ensureLine (s : State) (core ctx vline pline : Nat) (l : Leaf) (nc : Bool) : State × L1Line :=
  let s1 := s.unalias core ctx vline pline
  let s2 :=
    match (s1.coreSt core).find ctx vline with
    | some x => if x.pline = pline then s1 else s1.evictL1 core x
    | none => s1
  match (s2.coreSt core).find ctx vline with
  | some x =>
    let y : L1Line := { x with r := pteR l.pte, w := pteW l.pte && !pteCow l.pte, x := pteX l.pte, leaf := l,
                               nc := if x.dirty then x.nc else nc }
    (s2.modCore core fun c => c.put y, y)
  | none =>
    let s3 := s2.makeRoom core vline
    let y := L1Line.new ctx vline pline l nc
    (s3.modCore core fun c => c.put y, y)

/-- Fills the bytes of a line that are not dirty (R287). -/
def fillBytes (old : Tbl L1Byte) (fresh : List Byte) (bad : Nat → Bool) : Tbl L1Byte :=
  (List.range lineBytes).map fun i =>
    match tblGet? old i with
    | some b => if b.dirty then (i, b) else (i, { val := fresh.getD i 0, dirty := false, bad := bad i })
    | none => (i, { val := fresh.getD i 0, dirty := false, bad := bad i })

def L1Line.read (x : L1Line) (off n : Nat) : List Byte := (List.range n).map fun i => ((tblGet? x.bytes (off + i)).map (·.val)).getD 0

def L1Line.bad (x : L1Line) (off n : Nat) : Bool :=
  (List.range n).any fun i => ((tblGet? x.bytes (off + i)).map (·.bad)).getD false

/-- Whether a replica invalidation caused by a core's own write to a line is still on its way (R103, R342). -/
def State.ownInval (s : State) (line core : Nat) : Bool :=
  s.invals.any fun x => x.1 == s.dirLine line && x.2.2 == core

/-- Drops the replica of a unit in a reticle. -/
def State.dropReplica (s : State) (unit ret : Nat) : State :=
  { s with replicas := tblErase s.replicas (replicaKey unit ret),
           dir := tblMod (fun e => { e with replicas := e.replicas.filter fun x => x != ret }) s.dir unit }

/-- The bytes of a line as they are served, and the offsets of those that are uncorrectable (R104). -/
abbrev LineServed : Type := List Byte × List Nat

/-- The block of a sheaf page as its bank or HBM holds it: encoded, with both element kinds permitted, where no atomic keeps it
expanded (R300, R318, R238). `State.mem` holds the plain bytes of it, which the bank encodes again at every write (log 7). -/
def State.heldBlock (s : State) (even : Nat) : List Byte :=
  let plain := s.bankLine even ++ s.bankLine (even + 1)
  if ((s.entry? even).map fun e => e.expanded).getD false then plain else sheafEncode 2 plain

/-- The plain bytes of a line of a sheaf block, as an L1 fill expands them (R300). -/
def State.expandLine (s : State) (line : Nat) : List Byte :=
  let even := line / 2 * 2
  let held := s.heldBlock even
  let plain := if ((s.entry? even).map fun e => e.expanded).getD false then held else (sheafDecode held).getD []
  bytesAt plain (lineBytes * (line % 2)) lineBytes

/-- A line at its lodging bank, as it is served: expanded where it lies in a sheaf block. -/
def State.bankServed (s : State) (line : Nat) : LineServed :=
  (if s.blocks.contains (line / 2 * 2) then s.expandLine line else s.bankLine line,
    if s.bad.isEmpty then [] else (List.range lineBytes).filter fun i => s.bankBad (line * lineBytes + i) 1)

/-- A line of a unit's replica, as it is served. -/
def Replica.served (x : Replica) (unit line : Nat) : LineServed :=
  let off := lineBytes * (line - unit)
  (bytesAt x.bytes off lineBytes, (x.bad.filter fun i => decide (off ≤ i) && decide (i < off + lineBytes)).map fun i => i - off)

/-- The replica that a unit's bank gives, poison included (R104, R294). -/
def State.replicaOf (s : State) (unit : Nat) : Replica :=
  let a := unit * lineBytes
  let n := lineBytes * s.dirSpan unit
  { bytes := memReadBytes s.mem a n, old := [], bad := (s.bad.filter fun x => decide (a ≤ x) && decide (x < a + n)).map fun x => x - a }

/-- The pin and strm states that an access leaves on a lodged line, one served by an L1 or a replica included (R291). -/
def State.noteHint (s : State) (line hint : Nat) : State := s.modEntry line fun e => e.hinted hint

/-- A replica of a core's reticle whose invalidation is on its way is dropped before the core reads the line at its lodging bank,
so that it never reads an older value afterwards (R334, R295). -/
def State.dropStale (s : State) (core line : Nat) : State :=
  let r := s.reticleOf core
  if s.invals.any fun x => x.1 == s.dirLine line && x.2.1 == r then
    { s with replicas := tblErase s.replicas (replicaKey (s.dirLine line) r) }
  else s

/-- Every replica of a reticle whose invalidation is on its way is dropped: a crew that has moved there from another reticle may
have read a later value already (R334, R335, R394). -/
def State.dropStales (s : State) (ret : Nat) : State :=
  { s with replicas := s.replicas.filter fun x => !(x.1 % 64 == ret && s.invals.any fun i => i.1 == x.1 / 64 && i.2.1 == ret) }

/-- Serves a line to a core: from the replica in its reticle, or through the anchor, which lodges and counts it and may make a
replica (R290 to R294). A core that goes past the replica of its reticle finds it no more where an invalidation of it is on its way
(R190, R334). The hint is the effective one. -/
def State.serveLine (s : State) (core line hint kind : Nat) (l : Leaf) : State × LineServed :=
  let r := s.reticleOf core
  let unit := s.dirLine line
  match tblGet? s.replicas (replicaKey unit r) with
  | some held =>
    if kind = regionNoncoherent || s.ownInval line core then
      let s1 := (s.dropStale core line).touch line (some core) hint
      (s1, s1.bankServed line)
    else (s.noteHint line hint, held.served unit line)
  | none =>
    let makes := kind != regionNoncoherent && (hint == hintRepl || hint == hintPinRepl || !pteW l.pte || pteCow l.pte)
    let s1 := s.touch line (some core) hint
    let other : Bool :=
      match s1.entry? line with
      | some e => e.ret != r && !e.leaving && e.weir.isEmpty && s.part.hasBank r
      | none => false
    if makes && other then
      let s2 := s1.recallNow line
      let s3 := s2.modEntry line fun e => { e with replicas := if e.replicas.contains r then e.replicas else e.replicas ++ [r] }
      (State.checkRoom { s3 with replicas := tblSet s2.replicas (replicaKey unit r) (s2.replicaOf unit) } r (s3.bankIn unit r) unit,
       s2.bankServed line)
    else (s1, s1.bankServed line)

/-- A load or an instruction fetch of `n` bytes within a line through the L1: the bytes, and whether one is uncorrectable. `need` is
the right that the line must hold. -/
def State.l1Load (s : State) (core ctx va n pa hint kind : Nat) (l : Leaf) (need : Need) : State × List Byte × Bool :=
  let vline := va / lineBytes
  let pline := pa / lineBytes
  let off := va % lineBytes
  let h := effectiveHint hint kind
  let s0 := (s.noteSheaf l pline).unalias core ctx vline pline
  match (s0.l1Hit core ctx va n need).filter fun x => x.pline == pline && x.covers off n with
  | some x => ((s0.noteHint pline h).modCore core fun c => c.put x, x.read off n, x.bad off n)
  | none =>
    let (s1, fresh) := s0.serveLine core pline h kind l
    let (s2, x) := s1.ensureLine core ctx vline pline l (kind == regionNoncoherent)
    let y := { x with bytes := fillBytes x.bytes fresh.1 fun i => fresh.2.contains i }
    (s2.modCore core fun c => c.put y, y.read off n, y.bad off n)

/-- A store of bytes within a line into the L1: dirty bytes, no fill (R287); a miss reaches the anchor and is counted (R106,
R292; log 9). -/
def State.l1Store (s : State) (core ctx va pa hint kind : Nat) (l : Leaf) (bytes : List Byte) (tag : Word) : State :=
  let vline := va / lineBytes
  let pline := pa / lineBytes
  let off := va % lineBytes
  let h := effectiveHint hint kind
  let s0 := (s.noteSheaf l pline).unalias core ctx vline pline
  let hit : Bool := ((s0.l1Hit core ctx va bytes.length .store).filter fun x => x.pline == pline).isSome
  let s1 := if hit then s0.noteHint pline h else s0.touch pline (some core) h
  let (s2, x) := s1.ensureLine core ctx vline pline l (kind == regionNoncoherent)
  let put : Tbl L1Byte := (List.range bytes.length).foldl
    (fun t i => tblSet t (off + i) { val := bytes.getD i 0, dirty := true, bad := false }) x.bytes
  (s2.modCore core fun c =>
    c.put { x with bytes := put, tag := tag, tagAt := [(off, bytes.length)], pin := x.pin || pins h }).fireWatches pline
      fun g => s2.coreOf g == core

/-! ## Private areas in the L1 (R287, R399) -/

/-- The leaf that the wafer's own translation of the private range gives to a lane's own window. -/
def areaLeaf (vline : Nat) : Leaf := { pte := BitVec.ofNat 64 (0x27 + vline / 256 % 2 ^ 34 * pageBytes), lvl := 4 }

/-- A load from a group's private area within a line, through the core's L1 and the wafer cache as one of global data (R287, R290,
R292): the bytes, and whether one is uncorrectable. -/
def State.areaLoad (s : State) (core ctx gid va n hint : Nat) : State × List Byte × Bool :=
  let vline := va / lineBytes
  let off := va % lineBytes
  let pline := areaLine ctx vline
  match ((s.coreSt core).find ctx vline).filter fun x => x.covers off n with
  | some x => ((s.noteHint pline hint).modCore core fun c => c.put x, x.read off n, x.bad off n)
  | none =>
    let (s1, x) := (s.touch pline (some core) hint).ensureLine core ctx vline pline (areaLeaf vline) false
    let first := vline * lineBytes
    let y := { x with bytes := fillBytes x.bytes (s1.areaRead gid first lineBytes) fun i => s1.areaBad gid (first + i) 1 }
    (s1.modCore core fun c => c.put y, y.read off n, y.bad off n)

/-- A load from a private area that may cross lines. -/
def areaLoads (core ctx gid : Nat) : State → List (Nat × Nat) → State × List Byte × Bool
  | s, [] => (s, [], false)
  | s, (va, n) :: r =>
    let a := s.areaLoad core ctx gid va n hintNorm
    let b := areaLoads core ctx gid a.1 r
    (b.1, a.2.1 ++ b.2.1, a.2.2 || b.2.2)

/-- A write to a group's private area within a line: dirty bytes in the core's L1, no fill; a miss reaches the anchor and is
counted, as one of a store to global data (R287, R292; log 9). -/
def State.areaStore (s : State) (core ctx va : Nat) (bytes : List Byte) : State :=
  let vline := va / lineBytes
  let pline := areaLine ctx vline
  let s0 := if ((s.coreSt core).find ctx vline).isSome then s.noteHint pline hintNorm else s.touch pline (some core) hintNorm
  let (s1, x) := s0.ensureLine core ctx vline pline (areaLeaf vline) false
  let put : Tbl L1Byte := (List.range bytes.length).foldl
    (fun t i => tblSet t (va % lineBytes + i) { val := bytes.getD i 0, dirty := true, bad := false }) x.bytes
  s1.modCore core fun c => c.put { x with bytes := put }

/-- A write to a private area that may cross lines. -/
def State.areaStores (s : State) (core ctx va : Nat) (bytes : List Byte) : State :=
  (cutBytes (piecesOf va bytes.length) bytes).foldl (fun s x => s.areaStore core ctx x.1 x.2) s

/-- The entries of the split stack and the trap record that a turn of the machine has changed are written to the group's private
area, through the L1 of its core (R200, R287, R383). -/
def State.cacheArea (before s : State) (gid : Nat) (g : Group) : State :=
  let w := s.groupWb g
  let base := g.privBase.toNat
  let old := before.group? gid
  let was (i : Nat) : List Byte := (old.map fun x => x.stackEntryAt i).getD []
  let entries := if g.records.length ≤ 2 ∧ g.spilled.isEmpty = true then [] else g.entriesUsed.filter fun i => was i != g.stackEntryAt i
  let s1 := entries.foldl (fun s i => s.areaStores (s.coreOf g) (s.ctxOf g) (base + g.width * wbPrivate w + 32 * i) (g.stackEntryAt i)) s
  if (old.map fun x => x.trapRec).getD [] == g.trapRec then s1
  else s1.areaStores (s.coreOf g) (s.ctxOf g) (base + trapOffset w g.width) g.trapRec

/-- What a turn has changed of the private areas of all groups. -/
def State.cacheAreas (before s : State) : State := s.groups.foldl (fun t x => before.cacheArea t x.1 x.2) s

/-- The private lines that hold `n` bytes reach the wafer cache on a read of a party that is no core (R287, R290). -/
def State.areaLodge (s : State) (ctx va n : Nat) : State :=
  (piecesOf va n).foldl (fun s p => s.lodge (areaLine ctx (p.1 / lineBytes)) none (some hintNorm)) s

/-- A group's private area goes out of the L1s, as the group ends: its place may be given to another group (R204, R287, R399). -/
def State.flushArea (s : State) (ctx base size : Nat) : State :=
  s.cores.foldl (fun t c =>
    (c.2.l1.filter fun x => x.ctx == ctx && decide (base / lineBytes ≤ x.vline) &&
      decide (x.vline * lineBytes < base + size)).foldl (fun t x => t.evictL1 c.1 x) t) s

/-! ## Drains, acquires and releases (R236, R240, R329, R339 to R344) -/

/-- The dirty lines of a core that a drain writes back: of a context, within a range of virtual lines, noncoherent lines only
where `nc` (R344). -/
def State.dirtyLines (s : State) (core ctx : Nat) (nc : Bool) (lo hi : Nat) : List L1Line :=
  (s.coreSt core).l1.filter fun x => x.dirty && x.ctx == ctx && (nc || !x.nc) && decide (lo ≤ x.vline) && decide (x.vline < hi)

/-- One more than the last virtual line. -/
def lineEnd : Nat := 2 ^ 49

/-- Writes back some lines that a core holds, and ends the grants under which it holds them (R235). -/
def State.drainLines (s : State) (core : Nat) (lines : List L1Line) : State :=
  lines.foldl (fun s x =>
    match (s.coreSt core).find x.ctx x.vline with
    | some y => s.writeBack core y
    | none => s) s

/-- Writes back the dirty lines of a context that a core holds. -/
def State.drain (s : State) (core ctx : Nat) (nc : Bool) (lo hi : Nat) : State := s.drainLines core (s.dirtyLines core ctx nc lo hi)

/-- A drain demand also ends the grants under which a core holds lines of a context, clean ones included (R235). -/
def State.endGrants (s : State) (core ctx : Nat) : State :=
  ((s.coreSt core).l1.filter fun x => x.ctx == ctx && x.excl).foldl (fun t x => t.recallNow x.pline) s

/-- What a drain demand does at a recorded core: its dirty lines of the context go out, and its grants end (R235, R340). -/
def State.drainDemanded (s : State) (core ctx : Nat) : State := (s.drain core ctx false 0 lineEnd).endGrants core ctx

/-- Invalidates the clean bytes of a context's lines in a core's L1, dirty bytes stay (R236, R240, R287, R340). -/
def State.invalidateClean (s : State) (core ctx lo hi : Nat) : State :=
  s.modCore core fun c =>
    { c with l1 := (c.l1.map fun x =>
        if x.ctx == ctx && decide (lo ≤ x.vline) && decide (x.vline < hi) then
          { x with bytes := x.bytes.filter fun b => b.2.dirty } else x).filter fun x => x.excl || !x.bytes.isEmpty }

/-- Whether a release at a scope must still wait for replica invalidations that a core's earlier writes caused (R342): at ret
the one in its own reticle, at dev and sys all of them. A drain is acknowledged after all of them, whatever the scope (R324): it is
asked about at scope 3. -/
def State.invalsPending (s : State) (core scope : Nat) : Bool :=
  if scope < 2 then false
  else if scope = 2 then s.invals.any fun x => x.2.2 == core && x.2.1 == s.reticleOf core
  else s.invals.any fun x => x.2.2 == core

/-- Records a releaser of a line: once per core and context; with 8 others recorded the release drains eagerly and records
nothing (R339). -/
def State.recordRelease (s : State) (core ctx line : Nat) : State :=
  match s.entry? line with
  | none => s
  | some e =>
    if e.releasers.contains (core, ctx) then s
    else if e.releasers.length < 8 then s.setEntry line { e with releasers := e.releasers ++ [(core, ctx)] }
    else s

/-- Whether a release on a line finds 8 other records (R339). -/
def State.releasersFull (s : State) (core ctx line : Nat) : Bool :=
  match s.entry? line with
  | none => false
  | some e => !e.releasers.contains (core, ctx) && decide (8 ≤ e.releasers.length)

/-- Drains every releaser that a line records, as an eviction or a read by the dispatcher demands (R297, R340). -/
def State.drainReleasers (s : State) (line : Nat) : State :=
  (((s.entry? line).map (·.releasers)).getD []).foldl (fun t r => t.drainDemanded r.1 r.2) s

/-- Whether replica invalidations that the releasers of a line caused are on their way (R324, R342). -/
def State.releasersPending (s : State) (line : Nat) : Bool :=
  (((s.entry? line).map (·.releasers)).getD []).any fun r => s.invals.any fun x => x.2.2 == r.1

/-- Forgets the releasers of a line. -/
def State.forgetReleasers (s : State) (line : Nat) : State := s.modEntry line fun e => { e with releasers := [] }

/-- The releasers of a line that an acquire by a core makes demands of (R340). -/
def State.demanded (s : State) (core line : Nat) : List (Nat × Nat) :=
  match s.entry? line with
  | none => []
  | some e => e.releasers.filter fun r => r.1 != core

end Sys2Proof.Machine
end

