-- ==== Sys2Proof/Machine/Weir.lean ====
section
/-! DEFINITION. Weir lines: delta lines, shares, runs, sluices and the steps that carry them between a core and a line's anchor
(R346 to R349, R355 to R363). -/

namespace Sys2Proof.Machine

/-! ## Magnitudes (R358) -/

/-- Magnitude of a finite FP32 value in units of 2^-149. -/
def magUnits (w : Word) : Nat :=
  let e := natBits w.toNat 30 23
  let m := natBits w.toNat 22 0
  if e = 0 then m else (2 ^ 23 + m) * 2 ^ (e - 1)

/-- Whether an FP32 value is a NaN or infinite. -/
def notFinite (w : Word) : Bool := natBits w.toNat 30 23 == 255

/-- up32 of a magnitude in units of 2^-149 (R358). -/
def up32 (n : Nat) : Word := BitVec.ofNat 32 (roundArith fp32 3 false false n (-149) false).1

/-- A crest share in units of 2^-151. -/
def shareUnits (w : Word) : Nat := 4 * magUnits w

/-- The share that a magnitude in units of 2^-151 gives, rounded toward zero (log 18). -/
def shareOf (n : Nat) : Word := BitVec.ofNat 32 (roundArith fp32 1 false false n (-151) false).1

/-- Magnitude of an addend in units of 2^-149: FP32 or INT32 (R358). -/
def addendMag (isFloat : Bool) (x : Word) : Nat := if isFloat then magUnits x else x.toInt.natAbs * 2 ^ 149

/-- One addition to an element: rne32 or modulo 2^32, no flush (R231, R358, R359). -/
def weirAdd32 (isFloat : Bool) (a x : Word) : Word := if isFloat then (f32Add 0 false a x).1 else a + x

/-! ## Delta lines (R356) -/

def kindOf (isFloat : Bool) : Nat := if isFloat then 1 else 2

/-- A new delta line. -/
def Delta.new (ctx pline vline : Nat) : Delta where
  ctx := ctx
  pline := pline
  vline := vline
  delta := []
  touched := 0
  kind := 0
  t := 0
  share := 0
  st := .asking
  resume := false
  waiting := []
  spilling := false
  leaving := false
  since := 0

/-- The delta line of a context and physical line on a core. -/
def State.delta? (s : State) (core ctx line : Nat) : Option Delta :=
  (s.coreSt core).deltas.find? fun d => d.ctx == ctx && d.pline == line

/-- Puts a delta line back. -/
def State.setDelta (s : State) (core : Nat) (d : Delta) : State :=
  s.modCore core fun c =>
    { c with deltas := d :: c.deltas.filter fun e => !(e.ctx == d.ctx && e.pline == d.pline) }

/-- Frees a delta line. -/
def State.dropDelta (s : State) (core ctx line : Nat) : State :=
  s.modCore core fun c => { c with deltas := c.deltas.filter fun e => !(e.ctx == ctx && e.pline == line) }

/-- The touched elements and their deltas. -/
def Delta.run (d : Delta) : List (Nat × Word) :=
  ((List.range 32).filter fun k => d.touched.getLsbD k).map fun k => (k, tblGet d.delta k 0)

/-- Delta, touched, T and kind at their reset values (R358). -/
def Delta.cleared (d : Delta) : Delta := { d with delta := [], touched := 0, kind := 0, t := 0 }

/-- The spill of a delta line: one run that the bank acknowledges (R358). -/
def State.spill (s : State) (core : Nat) (d : Delta) : State :=
  (s.setDelta core { d with spilling := true }).due (.weirRun core d.ctx d.pline (d.kind == 1) d.run true)

/-- What one addition does to a Holding line (R358). -/
inductive Held where
  | hold (d : Delta) (resumed : Bool)
  | spillFirst
  | alone
  deriving DecidableEq, Repr

def Delta.add (d : Delta) (k : Nat) (x : Word) (isFloat : Bool) : Held :=
  let mag := addendMag isFloat x
  let share := magUnits d.share
  if (isFloat && notFinite x) || decide (share < mag) then (if d.touched ≠ 0 then .spillFirst else .alone)
  else if d.kind ≠ 0 ∧ d.kind ≠ kindOf isFloat then .spillFirst
  else
    let t := up32 (magUnits d.t + mag)
    if (notFinite t || decide (share < magUnits t)) && decide (d.touched ≠ 0) then .spillFirst
    else
      .hold { d with kind := kindOf isFloat, delta := tblSet d.delta k (weirAdd32 isFloat (tblGet d.delta k 0) x),
                     touched := d.touched ||| ((1 : Word) <<< k), t := t, resume := false } d.resume

/-- Applies additions to a Holding line in issue order; those behind a spill wait for its acknowledgement (R357, R358). -/
def State.applyAdds (s : State) (core : Nat) (d : Delta) : List (Nat × Word × Bool) → State
  | [] => s.setDelta core { d with waiting := [] }
  | (k, x, f) :: r =>
    match d.add k x f with
    | .spillFirst => s.spill core { d with waiting := (k, x, f) :: r }
    | .alone => (s.due (.weirRun core d.ctx d.pline f [(k, x)] false)).applyAdds core d r
    | .hold d1 resumed => (if resumed then s.due (.resumeNotice core d.ctx d.pline) else s).applyAdds core d1 r

/-- The crest of the weir region that covers a virtual line. -/
def State.crestAt (s : State) (ctx vline : Nat) : Word :=
  match s.context? ctx with
  | none => 0
  | some c =>
    match c.regionAt (vline * lineBytes) with
    | some r => r.crest
    | none => 0

/-- Whether an L1 set has a way that no line holds. -/
def State.hasWay (s : State) (core vline : Nat) : Bool :=
  let c := s.coreSt core
  decide ((c.l1.filter fun x => x.vline % l1Sets == vline % l1Sets).length + (deltasInSet c (vline % l1Sets)).length < l1Ways)

/-- Additions that wait for a way of the L1: behind those to the same line that wait already. -/
def CoreSt.roomlessAdd (c : CoreSt) (ctx vline line : Nat) (adds : List (Nat × Word × Bool)) : CoreSt :=
  let mine (x : Roomless) : Bool := x.ctx == ctx && x.line == line
  { c with roomless :=
      if c.roomless.any mine then
        c.roomless.map fun x => if mine x then { x with adds := x.adds ++ adds } else x
      else c.roomless ++ [⟨ctx, vline, line, adds⟩] }

/-- Whether additions to a line wait for a way of the L1. -/
def State.roomlessAt (s : State) (core ctx line : Nat) : Bool :=
  (s.coreSt core).roomless.any fun x => x.ctx == ctx && x.line == line

/-- Additions of a core to a weir line, in lane order (R355, R357). A new delta line takes a way of its set; where delta lines hold
every way, the additions wait until one of them has gone (R356; log 9). -/
def State.weirAdd (s : State) (core ctx vline line : Nat) (adds : List (Nat × Word × Bool)) : State :=
  let first (s : State) : State :=
    (s.setDelta core { Delta.new ctx line vline with waiting := adds }).due (.shareRequest core ctx line (s.crestAt ctx vline))
  match s.delta? core ctx line with
  | none =>
    let s1 := (s.unalias core ctx lineEnd line).makeRoom core vline
    if s1.roomlessAt core ctx line || !s1.hasWay core vline then s1.modCore core fun c => c.roomlessAdd ctx vline line adds
    else first s1
  | some d =>
    match d.st with
    | .asking => s.setDelta core { d with waiting := d.waiting ++ adds }
    | .holding => if d.spilling then s.setDelta core { d with waiting := d.waiting ++ adds } else s.applyAdds core d adds
    | .direct =>
      if d.since < s.halvings then first (s.dropDelta core ctx line)
      else s.dueAll (adds.map fun a => .weirRun core ctx line a.2.2 [(a.1, a.2.1)] false)

/-- The additions that wait for a way of a core's L1 look again. -/
def State.retryAdds (s : State) (core : Nat) : State :=
  let l := (s.coreSt core).roomless
  if l.isEmpty then s
  else l.foldl (fun s x => s.weirAdd core x.ctx x.vline x.line x.adds) (s.modCore core fun c => { c with roomless := [] })

/-! ## What a core reads (R347) -/

/-- Runs of a core to a line that are on their way. -/
def State.runsOut (s : State) (core ctx line : Nat) : Bool :=
  s.agenda.any fun i =>
    match i with
    | .weirRun c x l _ _ _ => c == core && x == ctx && l == line
    | _ => false

/-- Whether every addition that the core has issued to a line stands in its delta line or at the bank, so that a read can merge
it (R347). While a service of the line is under way (`served`), what waits for a grant or for a way comes after it (R363). -/
def State.deltaSettled (s : State) (core ctx line : Nat) (served : Bool) : Bool :=
  (match s.delta? core ctx line with
    | some d => (d.waiting.isEmpty && !d.spilling) || (served && d.st == .asking)
    | none => true) && !s.runsOut core ctx line && (served || !s.roomlessAt core ctx line)

/-- Whether every addition that a core has issued in a context counts as performed for the ordering of R236: held in a delta line,
or added at the lodging bank in a run (R351). -/
def State.additionsPerformed (s : State) (core ctx : Nat) : Bool :=
  ((s.coreSt core).deltas.all fun d => d.ctx != ctx || (d.waiting.isEmpty && !d.spilling)) &&
    ((s.coreSt core).roomless.all fun x => x.ctx != ctx) &&
    s.agenda.all fun i =>
      match i with
      | .weirRun c x _ _ _ _ => !(c == core && x == ctx)
      | _ => true

/-- The bytes of a weir line as a core reads them: P with the core's own delta merged, element by element (R347). -/
def State.weirLine (s : State) (core ctx line : Nat) : List Byte :=
  let bank := s.bankLine line
  match s.delta? core ctx line with
  | none => bank
  | some d =>
    ((List.range 32).map fun k =>
      if d.touched.getLsbD k then
        leBytes (weirAdd32 (d.kind == 1) (BitVec.ofNat 32 (fieldAt bank (4 * k) 4)) (tblGet d.delta k 0)).toNat 4
      else bytesAt bank (4 * k) 4).flatten

/-! ## Sluices (R349, R362) -/

/-- A split in the service of a weir line: its group, and the pc and the slot of the instruction that it executes. The splits of one
group are parties of their own (R362). -/
def splitParty (gid : Nat) (slotB : Bool) (pc : DWord) : Nat × DWord := (gid, if slotB then pc ||| (1 : DWord) <<< 63 else pc)

/-- The executing split as a party. -/
def View.party (v : View) : Nat × DWord := splitParty v.gid v.slotB v.sl.pc

/-- The dispatcher in the service of a weir line; no group and no engine operation has its number. -/
def dispatcherParty : Nat × DWord := (340282366920938463463374607431768211456, 0)

/-- The wafer cache in the service of a weir line that leaves; no group has its number. -/
def evictionParty : Nat × DWord := (dispatcherParty.1 + 1, 0)

/-- The innkeeper in the service of a weir line; no group has its number. -/
def innkeeperParty : Nat × DWord := (dispatcherParty.1 + 2, 0)

/-- The party that an engine operation is in the service of a weir line; no group has its number. -/
def EngOp.party (op : EngOp) : Nat × DWord := (18446744073709551616 * (op.group + 1) + op.num, 0)

/-- Whether a context runs. -/
def State.running (s : State) (ctx : Nat) : Bool :=
  match s.context? ctx with
  | some c => c.st == .running
  | none => false

/-- Whether the context of a group lets it issue: it runs, or it has faulted and the group has not reached its halt (R386). -/
def State.goesOn (s : State) (ctx gid : Nat) : Bool :=
  match s.context? ctx with
  | some c => c.st == .running || (c.st == .faulted && c.unhalted.contains gid)
  | none => false

/-- A step of the dispatcher that may write memory. -/
def ofDispatcher : Instr → Bool
  | .waybillTake _ _ => true
  | .waybillReady _ => true
  | .launchCompletion _ => true
  | .quiesceTokenReturn _ => true
  | _ => false

/-- A step of an eviction. -/
def ofEviction : Instr → Bool
  | .waferCacheEviction _ => true
  | _ => false

/-- Whether a party comes back to its service of a line: a group that runs, with a split that stands at the instruction and is not
held; an engine operation that is not held; the dispatcher, the wafer cache and the innkeeper while they have something to do. -/
def State.comesBack (s : State) (p : Nat × DWord) : Bool :=
  match s.group? p.1 with
  | some g => g.halt == .running && !g.restart && s.goesOn (s.ctxOf g) p.1 &&
      ((s.crew? g.crew).map fun c => c.res == .resident).getD false && [false, true].any fun b =>
        ((g.slot b).map fun x => splitParty p.1 b x.pc == p && !x.held).getD false
  | none =>
    if p == dispatcherParty then s.agenda.any ofDispatcher
    else if p == evictionParty then s.agenda.any ofEviction
    else if p == innkeeperParty then s.inbox.any fun m => m.kind == 7
    else s.cores.any fun c => (c.2.copyQ ++ c.2.matQ).any fun o => o.party == p && o.held.isNone && s.running o.ctx

/-- Sends sluices to holders that have none outstanding: a party's service of the line begins (R362). -/
def State.sendSluices (s : State) (line : Nat) (p : Nat × DWord) (l : List (Nat × Nat)) : State :=
  match s.weirRec? line with
  | some w =>
    let fresh := l.filter fun h => !w.sluicing.contains h
    (s.setWeir line (some { w with sluicing := w.sluicing ++ fresh, service := some p })).dueAll (fresh.map fun h => .sluice h.1 h.2 line)
  | none => s

/-- A weir record that has holders, or serves a party; else none (R360). -/
def WeirRec.kept (w : WeirRec) : Option WeirRec := if w.holders.isEmpty && w.service.isNone then none else some w

/-- Wakes the splits of every group that `p` admits whose wait satisfies `q`. -/
def State.wakeGroups (s : State) (p : Nat → Group → Bool) (q : Wait → Bool) : State :=
  { s with groups := tblMap (fun i g => if p i g then g.wake q else g) s.groups }

/-- The end of a party's service of a line: other parties that wait for the line look again (R362). -/
def State.endService (s : State) (line : Nat) (p : Nat × DWord) : State :=
  match s.weirRec? line with
  | some w =>
    if w.service = some p then (s.setWeir line (WeirRec.kept { w with service := none })).wakeGroups (fun _ _ => true) Wait.isAck else s
  | none => s

/-- The services of parties that do not come back have ended: a group that has been halted, or has left its instruction, takes the
line up anew. -/
def State.endServices (s : State) : State :=
  let gone (w : WeirRec) : Bool := (w.service.map fun p => !s.comesBack p).getD false
  if s.dir.any fun e => e.2.weir.any fun w => gone w.2 then
    let drop (w : WeirRec) : WeirRec := if gone w then { w with service := none } else w
    State.wakeGroups
      { s with dir := tblMap (fun _ e => { e with weir := (tblMap (fun _ w => drop w) e.weir).filter fun w => w.2.kept.isSome }) s.dir }
      (fun _ _ => true) Wait.isAck
  else s

/-- Whether a party's service of a line is under way. -/
def State.serves (s : State) (line : Nat) (p : Nat × DWord) : Bool := ((s.weirRec? line).map fun w => w.service == some p).getD false

/-- The holders whose shares keep the sum above `tau`: the largest first, ties to the lower core (R349). -/
def chooseSluices (tau : Option Nat) : Nat → List (Nat × Nat × Nat) → List (Nat × Nat)
  | 0, _ => []
  | n + 1, l =>
    match tau with
    | none => []
    | some t =>
      if (l.map fun h => h.2.2).sum ≤ t then []
      else
        match l.foldl (fun (b : Option (Nat × Nat × Nat)) h =>
            match b with
            | none => some h
            | some x => if x.2.2 < h.2.2 || (x.2.2 == h.2.2 && decide (h.1 < x.1)) then some h else some x) none with
        | none => []
        | some h => (h.1, h.2.1) :: chooseSluices tau n (l.filter fun x => !(x.1 == h.1 && x.2.1 == h.2.1))

/-- A request of a party for a weir line: none where it can act now, else the state in which it waits. The requests for a line are
settled one at a time: one waits while another is served; the set of holders to be sluiced is formed once, as its service begins;
and it acts once every sluice is answered (R362, R363). -/
def State.weirAsk (s : State) (line : Nat) (p : Nat × DWord) (choose : WeirRec → List (Nat × Nat)) : Option State :=
  match s.weirRec? line with
  | none => none
  | some w =>
    match w.service with
    | some q => if q = p then (if w.sluicing.isEmpty then none else some s) else some s
    | none => if (choose w).isEmpty && w.sluicing.isEmpty then none else some (s.sendSluices line p (choose w))

/-- A read of a weir line under a tolerance in units of 2^-151 (`none` sluices nothing): the set H is that of the holders whose
dirty bit is set, other than the reader's core (R349, R362). -/
def State.weirRead (s : State) (core line : Nat) (p : Nat × DWord) (tau : Option Nat) : Option State :=
  s.weirAsk line p fun w =>
    let h := (w.holders.filter fun x => x.1 != core && x.2.2.2).map fun x => (x.1, x.2.1, shareUnits x.2.2.1)
    chooseSluices tau h.length h

/-- A write of a weir line: every holder is sluiced, the issuing core included (R362). -/
def State.weirWrite (s : State) (line : Nat) (p : Nat × DWord) : Option State :=
  s.weirAsk line p fun w => w.holders.map fun h => (h.1, h.2.1)

/-- Asks for the service of some weir lines for a party that is no core and writes them all: none where they can be written now. -/
def State.askParty (s : State) (p : Nat × DWord) : List Nat → Option State
  | [] => none
  | x :: r =>
    match s.weirWrite x p with
    | none => s.askParty p r
    | some s1 => some s1

/-- Inserts a line into a rising list. -/
def insertLine (x : Nat) : List Nat → List Nat
  | [] => [x]
  | y :: r => if x ≤ y then x :: y :: r else y :: insertLine x r

/-- Asks for the service of some weir lines in turn: none where all of them can be served now. The additions that the core has
issued to a line come first (R347, R348); those that its other groups issue while the service is under way come after it (R363). -/
def State.askEach (s : State) (core ctx : Nat) (p : Nat × DWord) (f : State → Nat → Option State) : List Nat → Option State
  | [] => none
  | x :: r =>
    if !s.deltaSettled core ctx x (s.serves x p) then some s
    else
      match f s x with
      | none => s.askEach core ctx p f r
      | some s1 => some s1

/-- Asks for the service of some weir lines, in rising order, so that no two parties wait for one another. -/
def State.askLines (s : State) (core ctx : Nat) (p : Nat × DWord) (f : State → Nat → Option State) (lines : List Nat) :
    Option State :=
  s.askEach core ctx p f (lines.foldl (fun l x => insertLine x l) [])

/-! ## Waking -/

/-- Whether a group's requests to a peer are outstanding. -/
def State.waitsRemote (s : State) (gid : Nat) (g : Group) : Bool :=
  decide (g.remoteOut ≠ 0) || s.outstanding.any fun t =>
    match t.purpose with
    | .load x _ _ _ _ _ => x == gid
    | _ => false

/-- Whether a group's wait is one on an acquire that has been performed: its remote accesses have been answered, and its additions
to weir lines have been performed (R236, R351). -/
def State.acquireOver (s : State) (gid : Nat) (g : Group) : Wait → Bool
  | .acquired l => !s.waitsRemote gid g && l.all fun x => s.deltaSettled (s.coreOf g) (s.ctxOf g) x false
  | _ => false

/-- The splits of a group go on whose acquires have been performed: what is clean in the core's L1 goes then (R236, R340). -/
def State.passAcquires (s : State) (gid : Nat) (g : Group) : State :=
  if g.allSplits.any fun x => s.acquireOver gid g x.wait then
    (s.invalidateClean (s.coreOf g) (s.ctxOf g) 0 lineEnd).modGroup gid fun x => x.wake (s.acquireOver gid g)
  else s

/-- The groups of a core that wait for acknowledgements execute again, and acquires that have been performed let their splits go on.
-/
def State.wakeAcks (s : State) (core : Nat) : State :=
  let s1 := s.wakeGroups (fun _ g => s.coreOf g == core) Wait.isAck
  s1.groups.foldl (fun t x => if t.coreOf x.2 = core then t.passAcquires x.1 x.2 else t) s1

/-- A `wdrain` that waits for a spill of a core's line has one spill fewer to wait for, and completes after the last
(R247). -/
def Wait.drained (core line : Nat) : Wait → Wait
  | .drains l => .drains (l.filter fun x => x != (core, line))
  | w => w

def State.drainDone (s : State) (core line group : Nat) : State :=
  let f (x : Split) : Split := { x with wait := x.wait.drained core line }
  s.modGroup group fun g =>
    Group.pass (fun w => decide (w = .drains []))
      { g with slotA := g.slotA.map f, slotB := g.slotB.map f, spilled := g.spilled.map f }

/-! ## The steps -/

/-- A new weir record: free is the whole crest (R360). -/
def WeirRec.new (crest : Word) : WeirRec where
  crest := crest
  free := shareUnits crest
  holders := []
  sluicing := []
  service := none

/-- The anchor grants a core min(free, B/4) of a weir line's crest (R361). -/
def execShareRequest (core ctx line : Nat) (crest : Word) (s : State) : Host.Outcome State Fault Refusal :=
  let s1 := s.lodge line (some core) none
  let w := (s1.weirRec? line).getD (WeirRec.new crest)
  if w.service.isSome then .next (s1.due (.shareRequest core ctx line crest))
  else
    let taken := decide (8 ≤ w.holders.length) || w.holders.any fun h => h.1 == core && h.2.1 == ctx
    let share := if taken then 0 else shareOf (min w.free (magUnits w.crest))
    let w1 : WeirRec :=
      if share = 0 then w
      else { w with free := w.free - shareUnits share, holders := w.holders ++ [(core, ctx, share, true)] }
    .next ((s1.setWeir line w1.kept).due (.shareGrant core ctx line share))

/-- A core receives a grant and applies its waiting weir additions (R357). -/
def execShareGrant (core ctx line : Nat) (share : Word) (s : State) : Host.Outcome State Fault Refusal :=
  match s.delta? core ctx line with
  | none => .next (if share = 0 then s else s.due (.returnNotice core ctx line))
  | some d =>
    if d.st = .asking then
      if share = 0 then
        .next ((((s.setDelta core { d with st := .direct, waiting := [], since := s.halvings }).dueAll
          (d.waiting.map fun a => .weirRun core ctx line a.2.2 [(a.1, a.2.1)] false)).retryAdds core).wakeAcks core)
      else .next (((s.applyAdds core { d with st := .holding, share := share, waiting := [] } d.waiting).retryAdds core).wakeAcks core)
    else .next (if share = 0 then s else s.due (.returnNotice core ctx line))

/-- The bytes of a line after a run (R359). -/
def runBytes (bank : List Byte) (isFloat : Bool) (adds : List (Nat × Word)) : List (Nat × List Byte) :=
  adds.map fun a => (a.1, leBytes (weirAdd32 isFloat (BitVec.ofNat 32 (fieldAt bank (4 * a.1) 4)) a.2).toNat 4)

/-- The lodging bank adds a run of touched element deltas (R359); an exclusive grant of the line, held through a mapping outside the
weir region, is recalled first (R235); a drain's run clears the holder's dirty bit (R361). -/
def execWeirRun (core ctx line : Nat) (isFloat : Bool) (adds : List (Nat × Word)) (ack : Bool) (s : State) :
    Host.Outcome State Fault Refusal :=
  let s1 := (s.lodge line (some core) none).recallNow line
  let s2 :=
    if s1.bankBad (line * lineBytes) lineBytes then s1.reportError ctx (line * lineBytes)
    else (runBytes (s1.bankLine line) isFloat adds).foldl
      (fun s a => s.bankWrite (line * lineBytes + 4 * a.1) core a.2 tagNone) s1
  let drained : Bool :=
    match s.delta? core ctx line with
    | some d => ack && d.spilling && d.resume && !d.leaving
    | none => false
  let clear (h : Nat × Nat × Word × Bool) : Nat × Nat × Word × Bool :=
    if h.1 = core ∧ h.2.1 = ctx then (h.1, h.2.1, h.2.2.1, false) else h
  let s3 :=
    if drained then s2.setWeir line ((s2.weirRec? line).map fun w => { w with holders := w.holders.map clear }) else s2
  .next ((if ack then s3.due (.spillAcknowledgement core ctx line) else s3).wakeAcks core)

/-- The bank acknowledges a spill, letting the core reset its delta line and hold the next addition (R358). -/
def execSpillAcknowledgement (core ctx line : Nat) (s : State) : Host.Outcome State Fault Refusal :=
  match s.delta? core ctx line with
  | none => .next s
  | some d =>
    if d.spilling then
      let d1 := { d.cleared with spilling := false }
      if d.leaving then
        let s1 := (s.dropDelta core ctx line).due (.returnNotice core ctx line)
        .next (((if d.waiting.isEmpty then s1 else s1.weirAdd core ctx d.vline line d.waiting).retryAdds core).wakeAcks core)
      else .next (((s.applyAdds core { d1 with waiting := [] } d.waiting).retryAdds core).wakeAcks core)
    else .next s

/-- A core receives a sluice, spills its delta line and returns its share. One that meets an entry that waits for its grant was sent
to an entry that has been freed, since a grant precedes a sluice to the same core: it is answered with no run (R361 to R363). -/
def execSluice (core ctx line : Nat) (s : State) : Host.Outcome State Fault Refusal :=
  match s.delta? core ctx line with
  | none => .next (s.due (.returnNotice core ctx line))
  | some d =>
    match d.st with
    | .asking => .next (s.due (.returnNotice core ctx line))
    | .direct => .next (((s.dropDelta core ctx line).retryAdds core).due (.returnNotice core ctx line))
    | .holding =>
      if d.spilling then .next (s.setDelta core { d with leaving := true })
      else if d.touched = 0 then .next (((s.dropDelta core ctx line).retryAdds core).due (.returnNotice core ctx line))
      else .next (s.spill core { d with leaving := true })

/-- Whether a share that the anchor has granted is at a core, or on its way to it: a return notice that arrives then is one without
a run, sent before the core asked for that share (R361, R363). -/
def State.granted (s : State) (core ctx line : Nat) : Bool :=
  ((s.delta? core ctx line).map fun d => d.st == .holding).getD false ||
    s.agenda.any fun i =>
      match i with
      | .shareGrant c x l share => c == core && x == ctx && l == line && share != 0
      | _ => false

/-- The anchor restores a returned share to free and removes the holder (R361); it accepts a notice that returns nothing (R363). -/
def execReturnNotice (core ctx line : Nat) (s : State) : Host.Outcome State Fault Refusal :=
  match (if s.granted core ctx line then none else s.weirRec? line) with
  | some w =>
    let back := ((w.holders.filter fun h => h.1 == core && h.2.1 == ctx).map fun h => shareUnits h.2.2.1).sum
    let w1 : WeirRec := { w with free := w.free + back, holders := w.holders.filter fun h => !(h.1 == core && h.2.1 == ctx),
                                 sluicing := w.sluicing.filter fun h => h != (core, ctx) }
    .next ((s.setWeir line w1.kept).wakeGroups (fun i _ => (w.service.map fun p => p.1 == i).getD false) Wait.isAck)
  | none => .next s

/-- The anchor sets a holder's dirty bit again after a drain spill (R361). -/
def execResumeNotice (core ctx line : Nat) (s : State) : Host.Outcome State Fault Refusal :=
  let set (h : Nat × Nat × Word × Bool) : Nat × Nat × Word × Bool :=
    if h.1 = core ∧ h.2.1 = ctx then (h.1, h.2.1, h.2.2.1, true) else h
  .next (s.setWeir line ((s.weirRec? line).map fun w => { w with holders := w.holders.map set }))

/-- A holder core spills its weir delta line on a wdrain request (R247). Additions that still wait for their grant or for an
acknowledgement are spilled once they are held, and the request is done once nothing of the line is pending. -/
def execDrainRequest (core ctx line group : Nat) (s : State) : Host.Outcome State Fault Refusal :=
  let again := s.due (.drainRequest core ctx line group)
  match s.delta? core ctx line with
  | none => .next (if s.runsOut core ctx line || s.roomlessAt core ctx line then again else s.drainDone core line group)
  | some d =>
    if !d.waiting.isEmpty || d.spilling || s.runsOut core ctx line then .next again
    else if d.touched = 0 then .next (s.drainDone core line group)
    else .next (again.spill core { d with resume := true })

end Sys2Proof.Machine
end

