-- ==== Sys2Proof/Machine/LoadStore.lean ====
section
/-! DEFINITION. The lane loads and stores of the global, scratch and private spaces, `ldw`, `lq`, and the arrival of loaded data
(R97 to R109, R143, R349). -/

namespace Sys2Proof.Machine

/-! ## Global addresses and their checks (R98, R101, R102) -/

/-- The fate of one lane's access: ALIGN, then ADDR, then its page. -/
def State.fateOf (s : State) (core ctx va n : Nat) (need : Need) (verdicts : List (PageRef × Bool)) : State × Route :=
  if va % n ≠ 0 then (s, .cause causeALIGN)
  else if addressEnd ≤ va then (s, .cause causeADDR)
  else s.route core ctx va n need verdicts

/-- The fates of the lanes of a list of lane and address, in its order. -/
def checkLanes (core ctx n : Nat) (need : Need) (verdicts : List (PageRef × Bool)) :
    State → List (Nat × Nat) → State × List (Nat × Nat × Route)
  | s, [] => (s, [])
  | s, (l, va) :: r =>
    let fate := s.fateOf core ctx va n need verdicts
    let rest := checkLanes core ctx n need verdicts fate.1 r
    (rest.1, (l, va, fate.2) :: rest.2)

/-- The lowest lane that has a trap cause, with its address and cause. -/
def firstCause : List (Nat × Nat × Route) → Option (Nat × Nat × Nat)
  | [] => none
  | (l, va, .cause c) :: _ => some (l, va, c)
  | _ :: r => firstCause r

/-- The addresses of held lanes, the lowest lane's of each page (R102). -/
def heldAddrs : List (Nat × Nat × Route) → List (Nat × PageRef)
  | [] => []
  | (_, va, .held p) :: r => (va, p) :: (heldAddrs r).filter fun x => x.2 != p
  | _ :: r => heldAddrs r

/-- Why the lanes together may not access memory: a trap outranks a held fault (R101). -/
def accessStop (acting : DWord) (l : List (Nat × Nat × Route)) : Option Stop :=
  match firstCause l with
  | some (lane, va, c) => some (.trap c lane acting (BitVec.ofNat 64 va) 0)
  | none => if (heldAddrs l).isEmpty then none else some (.hold (heldAddrs l))

/-- The weir lines among checked lanes, each once: physical line and virtual line. -/
def weirLines (s : State) (ctx : Nat) : List (Nat × Nat × Route) → List Nat
  | [] => []
  | (_, va, .mem l pa) :: r =>
    let rest := weirLines s ctx r
    if (s.regionOf ctx va l).1 = regionWeir ∧ !rest.contains (pa / lineBytes) then pa / lineBytes :: rest else rest
  | _ :: r => weirLines s ctx r

/-- The service of some lines has ended. -/
def endServicesOf (s : State) (p : Nat × DWord) (lines : List Nat) : State := lines.foldl (fun s x => s.endService x p) s

/-- A view whose instruction has been served by some weir lines: the group's other split looks again. -/
def View.woken (v : View) (weirs : List Nat) : View := if weirs.isEmpty then v else { v with g := v.g.wake Wait.isAck }

/-! ## Values (R78, R99) -/

/-- The registers' words of `n` loaded bytes. -/
def loadWords (signed : Bool) (n : Nat) (b : List Byte) : List Word :=
  if n = 1 then [if signed then (BitVec.ofNat 8 (leNat b)).signExtend 32 else BitVec.ofNat 32 (leNat b)]
  else if n = 2 then [if signed then (BitVec.ofNat 16 (leNat b)).signExtend 32 else BitVec.ofNat 32 (leNat b)]
  else (List.range (n / 4)).map fun k => BitVec.ofNat 32 (fieldAt b (4 * k) 4)

/-- Destination registers of an `n`-byte access. -/
def regsOf (d n : Nat) : List Nat := regsFrom d (if n ≤ 4 then 1 else n / 4)

/-- The values of one lane on their way to registers. -/
def arrivals (d lane : Nat) (signed : Bool) (n : Nat) (b : List Byte) (poison : Nat) : List Arriving :=
  ((loadWords signed n b).zip (regsOf d n)).map fun x =>
    { reg := x.2, lane := lane, val := x.1.zeroExtend 64, poison := poison }

/-- The bytes that a lane stores (R100). -/
def storeBytes (g : Group) (d lane n : Nat) : List Byte :=
  ((regsOf d n).map fun r => leBytes (g.lane r lane).toNat (min n 4)).flatten

/-! ## Remote accesses (R171) -/

/-- A Dzingewin request to a peer. It carries the ordered flag, so that the peer performs it after every earlier request to the same
context: accesses of a split to the same bytes, and the lanes of one instruction, keep their order (R103, R143, R169, R309; log 22).
-/
def peerMsg (p : Peer) (kind len addr : Nat) (operand : DWord) (payload : List Byte) : Msg where
  peer := p.ip
  kind := BitVec.ofNat 8 kind
  flags := 1
  context := p.tag
  status := 0
  length := BitVec.ofNat 32 len
  seq := 0
  address := BitVec.ofNat 64 addr
  operand := operand
  payload := payload

/-! ## Performing -/

/-- One lane's read: the bytes where they are known now, with their poison. A remote read is sent and its bytes come later. -/
def State.readLane (s : State) (core ctx gid tag d n hint : Nat) (signed : Bool) (x : Nat × Nat × Route) :
    State × List Arriving :=
  match x with
  | (lane, va, .mem l pa) =>
    let k := (s.regionOf ctx va l).1
    if k = regionWeir then
      let line := pa / lineBytes
      let s1 := (s.noteSheaf l line).unalias core ctx lineEnd line
      let s2 := s1.lodge line (some core) (some hint)
      (s2, arrivals d lane signed n (bytesAt (s2.weirLine core ctx line) (pa % lineBytes) n) (if s2.bankBad pa n then 1 else 0))
    else
      let (s1, b, bad) := s.l1Load core ctx va n pa hint k l .load
      (s1, arrivals d lane signed n b (if bad then 1 else 0))
  | (lane, va, .area g) =>
    let (s1, b, bad) := s.areaLoad core ctx g va n hint
    (s1, arrivals d lane signed n b (if bad then 1 else 0))
  | (lane, _, .remote p a) => (s.request (peerMsg p 1 n a 0 []) (.load gid tag d lane n signed), [])
  | (_, _, _) => (s, [])

/-- The reads of the lanes, in ascending order. -/
def readLanes (core ctx gid tag d n hint : Nat) (signed : Bool) : State → List (Nat × Nat × Route) → State × List Arriving
  | s, [] => (s, [])
  | s, x :: r =>
    let a := s.readLane core ctx gid tag d n hint signed x
    let b := readLanes core ctx gid tag d n hint signed a.1 r
    (b.1, a.2 ++ b.2)

/-- Marks the destinations empty for a new access and makes its arrival due (R99, R208). -/
def startLoad (v : View) (s : State) (lanes regs : List Nat) (arr : List Arriving) (vac : DWord) : Res :=
  if lanes.isEmpty then .done { v with s := s }
  else
    let tag := s.nextTag
    let g1 := regs.foldl (fun g r => g.emptyLanes r lanes tag) v.g
    let g2 := { g1 with arriving := tblSet g1.arriving tag arr }
    .done { v with s := State.due { s with nextTag := tag + 1 } (.loadDataArrival v.gid tag), g := g2.raise vac }

/-- One lane's write. -/
def State.writeLane (s : State) (core ctx gid hint : Nat) (g : Group) (d n : Nat) (x : Nat × Nat × Route) : State :=
  match x with
  | (lane, va, .mem l pa) =>
    let k := (s.regionOf ctx va l).1
    let b := storeBytes g d lane n
    if k = regionWeir then
      let line := pa / lineBytes
      let s1 := (s.noteSheaf l line).unalias core ctx lineEnd line
      ((s1.lodge line (some core) (some hint)).reportBad ctx line).bankWrite pa core b tagNone
    else s.l1Store core ctx va pa hint k l b tagNone
  | (lane, _, .remote p a) => s.request (peerMsg p 2 n a 0 (storeBytes g d lane n)) (.store gid)
  | _ => s

/-- Lanes whose access is remote. -/
def remoteLanes (l : List (Nat × Nat × Route)) : Nat :=
  (l.filter fun x =>
    match x.2.2 with
    | .remote _ _ => true
    | _ => false).length

/-- Placement hint of a store: repl acts as norm (R106). -/
def storeHint (p : Nat) : Nat := if p = hintRepl then hintNorm else p

/-- The body of a global load (R97 to R107). -/
def globalLoad (guard hint d vo sb n : Nat) (signed : Bool) (v : View) : Res :=
  let acting := v.acting guard
  let lanes := lanesOf acting
  let ds := regsOf d n
  guardStop v (nameStop v (vo :: ds) [sb]) <|
  guardStop v (sourceStop v lanes acting [vo] (if lanes.isEmpty then [] else [sb])) <|
  guardStop v (allocStop v lanes ds) <|
  let checked := checkLanes v.core v.ctx n .load v.sl.verdicts v.s
    (lanes.map fun l => (l, (v.g.sval sb).toNat + (v.lane vo l).toNat))
  match accessStop acting checked.2 with
  | some e => .stop checked.1 e
  | none =>
    let weirs := weirLines checked.1 v.ctx checked.2
    match checked.1.askLines v.core v.ctx v.party (fun s x => s.weirRead v.core x v.party none) weirs with
    | some s => .stop s (.wait .ack)
    | none =>
      let out := readLanes v.core v.ctx v.gid checked.1.nextTag d n hint signed checked.1 checked.2
      startLoad (v.woken weirs) (endServicesOf out.1 v.party weirs) lanes ds out.2 (vacBits v.g lanes [vo])

/-- The body of a global store (R97 to R107). -/
def globalStore (guard hint d vo sb n : Nat) (v : View) : Res :=
  let acting := v.acting guard
  let lanes := lanesOf acting
  let ds := regsOf d n
  guardStop v (nameStop v (vo :: ds) [sb]) <|
  guardStop v (sourceStop v lanes acting (vo :: ds) (if lanes.isEmpty then [] else [sb])) <|
  let checked := checkLanes v.core v.ctx n .store v.sl.verdicts v.s
    (lanes.map fun l => (l, (v.g.sval sb).toNat + (v.lane vo l).toNat))
  match accessStop acting checked.2 with
  | some e => .stop checked.1 e
  | none =>
    let weirs := weirLines checked.1 v.ctx checked.2
    match checked.1.askLines v.core v.ctx v.party (fun s x => s.weirWrite x v.party) weirs with
    | some s => .stop s (.wait .ack)
    | none =>
      let s1 := checked.2.foldl (fun s x => s.writeLane v.core v.ctx v.gid (storeHint hint) v.g d n x) checked.1
      let g1 := { (v.woken weirs).g with remoteOut := v.g.remoteOut + remoteLanes checked.2 }
      .done { v with s := endServicesOf s1 v.party weirs, g := g1.raise (vacBits v.g lanes (vo :: ds)) }

/-! ## Scratch and private spaces (R98, R108, R109) -/

/-- ALIGN, then ADDR, of the lanes' windows: the lowest failing lane. -/
def windowStop (acting : DWord) (n size : Nat) (l : List (Nat × Nat)) : Option Stop :=
  (l.find? fun x => x.2 % n != 0 || decide (size < x.2 + n)).map fun x =>
    .trap (if x.2 % n ≠ 0 then causeALIGN else causeADDR) x.1 acting (BitVec.ofNat 64 x.2) 0

/-- The crew of a view. -/
def View.crew? (v : View) : Option Crew := v.s.crew? v.g.crew

/-- Scratch bytes of the crew, with their poison (R384). -/
def View.scratchRead (v : View) (a n : Nat) : List Byte × Bool :=
  match v.crew? with
  | none => (List.replicate n 0, false)
  | some c => (memReadBytes c.scratch a n, c.scratchBad.any fun x => decide (a ≤ x) && decide (x < a + n))

/-- Writes scratch bytes; they lose their poison. -/
def Crew.scratchWrite (c : Crew) (a : Nat) (b : List Byte) : Crew :=
  { c with scratch := memWriteBytes c.scratch a b,
           scratchBad := if c.scratchBad.isEmpty then []
                         else c.scratchBad.filter fun x => !(decide (a ≤ x) && decide (x < a + b.length)) }

/-- Lane addresses of the scratch and private forms: zext(v[a]) + imm8 × size (R98). -/
def windowAddrs (v : View) (lanes : List Nat) (a imm n : Nat) : List (Nat × Nat) :=
  lanes.map fun l => (l, (v.lane a l).toNat + imm * n)

/-- The body of a scratch load. -/
def scratchLoad (guard d a imm n : Nat) (signed : Bool) (v : View) : Res :=
  let acting := v.acting guard
  let lanes := lanesOf acting
  let ds := regsOf d n
  guardStop v (nameStop v (a :: ds) []) <|
  guardStop v (sourceStop v lanes acting [a] []) <|
  guardStop v (allocStop v lanes ds) <|
  guardStop v (windowStop acting n (wbScratch v.wb) (windowAddrs v lanes a imm n)) <|
  startLoad v v.s lanes ds
    ((windowAddrs v lanes a imm n).map fun x =>
      arrivals d x.1 signed n (v.scratchRead x.2 n).1 (if (v.scratchRead x.2 n).2 then 1 else 0)).flatten
    (vacBits v.g lanes [a])

/-- The body of a scratch store: the highest lane's bytes remain (R103). -/
def scratchStore (guard d a imm n : Nat) (v : View) : Res :=
  let acting := v.acting guard
  let lanes := lanesOf acting
  let ds := regsOf d n
  guardStop v (nameStop v (a :: ds) []) <|
  guardStop v (sourceStop v lanes acting (a :: ds) []) <|
  guardStop v (windowStop acting n (wbScratch v.wb) (windowAddrs v lanes a imm n)) <|
  let put (c : Crew) (x : Nat × Nat) : Crew := c.scratchWrite x.2 (storeBytes v.g d x.1 n)
  .done { v with s := v.s.modCrew v.g.crew fun c => (windowAddrs v lanes a imm n).foldl put c,
                 g := v.g.raise (vacBits v.g lanes (a :: ds)) }

/-- The virtual address of a byte of a lane's window (R109, R399). -/
def View.windowVa (v : View) (x : Nat × Nat) : Nat := v.g.privBase.toNat + x.1 * wbPrivate v.wb + x.2

/-- The reads of the lanes' windows in ascending order, through the core's L1 (R109, R287). -/
def View.windowLoads (v : View) (d n : Nat) : State → List (Nat × Nat) → State × List Arriving
  | s, [] => (s, [])
  | s, x :: r =>
    let a := areaLoads v.core v.ctx v.gid s (piecesOf (v.windowVa x) n)
    let b := v.windowLoads d n a.1 r
    (b.1, arrivals d x.1 false n a.2.1 (if a.2.2 then 1 else 0) ++ b.2)

/-- The body of a private load (R109). -/
def privateLoad (guard d a imm n : Nat) (v : View) : Res :=
  let acting := v.acting guard
  let lanes := lanesOf acting
  let ds := regsOf d n
  let size := wbPrivate v.wb
  guardStop v (nameStop v (a :: ds) []) <|
  guardStop v (sourceStop v lanes acting [a] []) <|
  guardStop v (allocStop v lanes ds) <|
  guardStop v (windowStop acting n size (windowAddrs v lanes a imm n)) <|
  let out := v.windowLoads d n v.s (windowAddrs v lanes a imm n)
  startLoad v out.1 lanes ds out.2 (vacBits v.g lanes [a])

/-- The body of a private store (R109): dirty bytes in the core's L1 (R287); the highest lane's bytes remain (R103). -/
def privateStore (guard d a imm n : Nat) (v : View) : Res :=
  let acting := v.acting guard
  let lanes := lanesOf acting
  let ds := regsOf d n
  let size := wbPrivate v.wb
  guardStop v (nameStop v (a :: ds) []) <|
  guardStop v (sourceStop v lanes acting (a :: ds) []) <|
  guardStop v (windowStop acting n size (windowAddrs v lanes a imm n)) <|
  let put (s : State) (x : Nat × Nat) : State := s.areaStores v.core v.ctx (v.windowVa x) (storeBytes v.g d x.1 n)
  .done { v with s := (windowAddrs v lanes a imm n).foldl put v.s, g := v.g.raise (vacBits v.g lanes (a :: ds)) }

/-! ## `lq` and `ldw` -/

/-- The body of `lq` (R143): one 8-byte access into a scalar, lane 64 of an arrival. -/
def scalarLoad (guard d a b : Nat) (v : View) : Res :=
  guardStop v (nameStop v [] [d, a]) <|
  if v.g.cpred guard then
    guardStop v (sourceStop v [] v.sl.mask [] [a]) <|
    let va := (v.g.sval a).toNat + 8 * b
    let checked := v.s.fateOf v.core v.ctx va 8 .load v.sl.verdicts
    match accessStop v.sl.mask [(noLane, va, checked.2)] with
    | some e => .stop checked.1 e
    | none =>
      let weirs := weirLines checked.1 v.ctx [(64, va, checked.2)]
      match checked.1.askLines v.core v.ctx v.party (fun s x => s.weirRead v.core x v.party none) weirs with
      | some s => .stop s (.wait .ack)
      | none =>
        let tag := checked.1.nextTag
        let out := checked.1.readLane v.core v.ctx v.gid tag d 8 hintNorm false (64, va, checked.2)
        let word : List Arriving :=
          match out.2 with
          | lo :: hi :: _ => [{ reg := d, lane := 64, val := lo.val ||| (hi.val <<< 32), poison := lo.poison }]
          | l => l
        let g1 := (v.woken weirs).g.emptyScalar d tag
        let s1 := endServicesOf out.1 v.party weirs
        .done { v with s := State.due { s1 with nextTag := tag + 1 } (.loadDataArrival v.gid tag),
                       g := { g1 with arriving := tblSet g1.arriving tag word } }
  else .done v

/-- The tolerance of `ldw` in units of 2^-151: none for +∞; a NaN or a negative value is 0 (R349). -/
def tolerance (w : Word) : Option Nat :=
  if natBits w.toNat 30 0 > 0x7F800000 ∨ natBit w.toNat 31 then some 0
  else if w = 0x7F800000 then none
  else some (shareUnits w)

/-- The body of `ldw` (R349). -/
def weirLoad (guard d a b : Nat) (v : View) : Res :=
  let acting := v.acting guard
  let lanes := lanesOf acting
  guardStop v (nameStop v [d, a, a + 1] [b]) <|
  guardStop v (sourceStop v lanes acting [a, a + 1] (if lanes.isEmpty then [] else [b])) <|
  guardStop v (allocStop v lanes [d]) <|
  let checked := checkLanes v.core v.ctx 4 .load v.sl.verdicts v.s (lanes.map fun l => (l, (v.pair a l).toNat))
  match accessStop acting checked.2 with
  | some e => .stop checked.1 e
  | none =>
    let weirs := weirLines checked.1 v.ctx checked.2
    match checked.1.askLines v.core v.ctx v.party (fun s x => s.weirRead v.core x v.party (tolerance (v.low b))) weirs with
    | some s => .stop s (.wait .ack)
    | none =>
      let out := readLanes v.core v.ctx v.gid checked.1.nextTag d 4 hintNorm false checked.1 checked.2
      startLoad (v.woken weirs) (endServicesOf out.1 v.party weirs) lanes [d] out.2 (vacBits v.g lanes [a, a + 1])

/-! ## Arrival (R99, R104, R111) -/

/-- The state of a cell that data reaches. -/
def arrivedSt (p : Nat) (addr : DWord) : CellSt :=
  match p with
  | 0 => .full
  | 1 => .poisoned false 0
  | _ => .poisoned true addr

/-- One value reaches its register, unless a later instruction has taken the register (R99). -/
def Group.arrive (g : Group) (tag : Nat) (a : Arriving) : Group :=
  let addr : DWord := if a.poison = 2 then a.val else 0
  if a.lane = 64 then
    match (g.scalar a.reg).st with
    | .empty t =>
      if t = tag then { g with scalars := tblSet g.scalars a.reg { val := a.val, st := arrivedSt a.poison addr } } else g
    | _ => g
  else
    match g.lane? a.reg a.lane with
    | some { st := .empty t, .. } =>
      if t = tag then g.putLanes a.reg [a.lane] fun _ => { val := a.val.truncate 32, st := arrivedSt a.poison addr } else g
    | _ => g

def Wait.isSource : Wait → Bool
  | .source => true
  | _ => false

/-- A long-latency producer's data arrives and fills its destination lanes (R99); a remote failure sets DZWERR (R104). -/
def execLoadDataArrival (group tag : Nat) (s : State) : Host.Outcome State Fault Refusal :=
  match s.group? group with
  | none => .next s
  | some g =>
    let l := tblGet g.arriving tag []
    let g1 := l.foldl (fun g a => g.arrive tag a) g
    let g2 := if l.any fun a => a.poison == 2 then g1.raise bitDZWERR else g1
    let waiting := g.allSplits.any fun x => x.wait.isSource
    let g3 := { g2 with arriving := tblErase g2.arriving tag, active := true }
    let s1 := s.setGroup group (g3.wake Wait.isSource)
    .next (if g.swapped && waiting then s1.due (.swapIn group) else s1)

/-! ## LDG (R99) -/

/-- Global load of an unsigned byte (R99). -/
def execLdgN8 (g : BitVec 3) (p : BitVec 2) (d o : BitVec 6) (sc : BitVec 5) (_r : BitVec 1) (s : State) : Host.Outcome State Fault Refusal :=
  runSplit 4 (globalLoad g.toNat p.toNat d.toNat o.toNat sc.toNat 1 false) s

/-- Global load of a signed byte (R99). -/
def execLdgS8 (g : BitVec 3) (p : BitVec 2) (d o : BitVec 6) (sc : BitVec 5) (_r : BitVec 1) (s : State) : Host.Outcome State Fault Refusal :=
  runSplit 4 (globalLoad g.toNat p.toNat d.toNat o.toNat sc.toNat 1 true) s

/-- Global load of an unsigned halfword (R99). -/
def execLdgN16 (g : BitVec 3) (p : BitVec 2) (d o : BitVec 6) (sc : BitVec 5) (_r : BitVec 1) (s : State) : Host.Outcome State Fault Refusal :=
  runSplit 4 (globalLoad g.toNat p.toNat d.toNat o.toNat sc.toNat 2 false) s

/-- Global load of a signed halfword (R99). -/
def execLdgS16 (g : BitVec 3) (p : BitVec 2) (d o : BitVec 6) (sc : BitVec 5) (_r : BitVec 1) (s : State) : Host.Outcome State Fault Refusal :=
  runSplit 4 (globalLoad g.toNat p.toNat d.toNat o.toNat sc.toNat 2 true) s

/-- Global load of 32 bits per lane (R99). -/
def execLdgB32 (g : BitVec 3) (p : BitVec 2) (d o : BitVec 6) (sc : BitVec 5) (_r : BitVec 1) (s : State) : Host.Outcome State Fault Refusal :=
  runSplit 4 (globalLoad g.toNat p.toNat d.toNat o.toNat sc.toNat 4 false) s

/-- Global load of 64 bits into a register pair (R99). -/
def execLdgB64 (g : BitVec 3) (p : BitVec 2) (d o : BitVec 6) (sc : BitVec 5) (_r : BitVec 1) (s : State) : Host.Outcome State Fault Refusal :=
  runSplit 4 (globalLoad g.toNat p.toNat d.toNat o.toNat sc.toNat 8 false) s

/-- Global load of 128 bits into a register quad (R99). -/
def execLdgB128 (g : BitVec 3) (p : BitVec 2) (d o : BitVec 6) (sc : BitVec 5) (_r : BitVec 1) (s : State) : Host.Outcome State Fault Refusal :=
  runSplit 4 (globalLoad g.toNat p.toNat d.toNat o.toNat sc.toNat 16 false) s

/-! ## STG (R100) -/

/-- Global store of a byte per lane (R100). -/
def execStgB8 (g : BitVec 3) (p : BitVec 2) (d o : BitVec 6) (sc : BitVec 5) (_r : BitVec 1) (s : State) : Host.Outcome State Fault Refusal :=
  runSplit 4 (globalStore g.toNat p.toNat d.toNat o.toNat sc.toNat 1) s

/-- Global store of a halfword per lane (R100). -/
def execStgB16 (g : BitVec 3) (p : BitVec 2) (d o : BitVec 6) (sc : BitVec 5) (_r : BitVec 1) (s : State) : Host.Outcome State Fault Refusal :=
  runSplit 4 (globalStore g.toNat p.toNat d.toNat o.toNat sc.toNat 2) s

/-- Global store of 32 bits per lane (R100). -/
def execStgB32 (g : BitVec 3) (p : BitVec 2) (d o : BitVec 6) (sc : BitVec 5) (_r : BitVec 1) (s : State) : Host.Outcome State Fault Refusal :=
  runSplit 4 (globalStore g.toNat p.toNat d.toNat o.toNat sc.toNat 4) s

/-- Global store of a register pair per lane (R100). -/
def execStgB64 (g : BitVec 3) (p : BitVec 2) (d o : BitVec 6) (sc : BitVec 5) (_r : BitVec 1) (s : State) : Host.Outcome State Fault Refusal :=
  runSplit 4 (globalStore g.toNat p.toNat d.toNat o.toNat sc.toNat 8) s

/-- Global store of a register quad per lane (R100). -/
def execStgB128 (g : BitVec 3) (p : BitVec 2) (d o : BitVec 6) (sc : BitVec 5) (_r : BitVec 1) (s : State) : Host.Outcome State Fault Refusal :=
  runSplit 4 (globalStore g.toNat p.toNat d.toNat o.toNat sc.toNat 16) s

/-! ## LDS (R99) -/

/-- Scratch load of an unsigned byte (R99). -/
def execLdsN8 (g : BitVec 3) (d a : BitVec 6) (i : BitVec 8) (s : State) : Host.Outcome State Fault Refusal :=
  runSplit 4 (scratchLoad g.toNat d.toNat a.toNat i.toNat 1 false) s

/-- Scratch load of a signed byte (R99). -/
def execLdsS8 (g : BitVec 3) (d a : BitVec 6) (i : BitVec 8) (s : State) : Host.Outcome State Fault Refusal :=
  runSplit 4 (scratchLoad g.toNat d.toNat a.toNat i.toNat 1 true) s

/-- Scratch load of an unsigned halfword (R99). -/
def execLdsN16 (g : BitVec 3) (d a : BitVec 6) (i : BitVec 8) (s : State) : Host.Outcome State Fault Refusal :=
  runSplit 4 (scratchLoad g.toNat d.toNat a.toNat i.toNat 2 false) s

/-- Scratch load of a signed halfword (R99). -/
def execLdsS16 (g : BitVec 3) (d a : BitVec 6) (i : BitVec 8) (s : State) : Host.Outcome State Fault Refusal :=
  runSplit 4 (scratchLoad g.toNat d.toNat a.toNat i.toNat 2 true) s

/-- Scratch load of 32 bits (R99). -/
def execLdsB32 (g : BitVec 3) (d a : BitVec 6) (i : BitVec 8) (s : State) : Host.Outcome State Fault Refusal :=
  runSplit 4 (scratchLoad g.toNat d.toNat a.toNat i.toNat 4 false) s

/-- Scratch load of 64 bits (R99). -/
def execLdsB64 (g : BitVec 3) (d a : BitVec 6) (i : BitVec 8) (s : State) : Host.Outcome State Fault Refusal :=
  runSplit 4 (scratchLoad g.toNat d.toNat a.toNat i.toNat 8 false) s

/-- Scratch load of 128 bits (R99). -/
def execLdsB128 (g : BitVec 3) (d a : BitVec 6) (i : BitVec 8) (s : State) : Host.Outcome State Fault Refusal :=
  runSplit 4 (scratchLoad g.toNat d.toNat a.toNat i.toNat 16 false) s

/-! ## STS (R100) -/

/-- Scratch store of a byte (R100). -/
def execStsB8 (g : BitVec 3) (d a : BitVec 6) (i : BitVec 8) (s : State) : Host.Outcome State Fault Refusal :=
  runSplit 4 (scratchStore g.toNat d.toNat a.toNat i.toNat 1) s

/-- Scratch store of a halfword (R100). -/
def execStsB16 (g : BitVec 3) (d a : BitVec 6) (i : BitVec 8) (s : State) : Host.Outcome State Fault Refusal :=
  runSplit 4 (scratchStore g.toNat d.toNat a.toNat i.toNat 2) s

/-- Scratch store of 32 bits (R100). -/
def execStsB32 (g : BitVec 3) (d a : BitVec 6) (i : BitVec 8) (s : State) : Host.Outcome State Fault Refusal :=
  runSplit 4 (scratchStore g.toNat d.toNat a.toNat i.toNat 4) s

/-- Scratch store of 64 bits (R100). -/
def execStsB64 (g : BitVec 3) (d a : BitVec 6) (i : BitVec 8) (s : State) : Host.Outcome State Fault Refusal :=
  runSplit 4 (scratchStore g.toNat d.toNat a.toNat i.toNat 8) s

/-- Scratch store of 128 bits (R100). -/
def execStsB128 (g : BitVec 3) (d a : BitVec 6) (i : BitVec 8) (s : State) : Host.Outcome State Fault Refusal :=
  runSplit 4 (scratchStore g.toNat d.toNat a.toNat i.toNat 16) s

/-! ## PRV loads (R109) -/

/-- Private-space load of 32 bits (R109). -/
def execLdpB32 (g : BitVec 3) (d a : BitVec 6) (i : BitVec 8) (s : State) : Host.Outcome State Fault Refusal :=
  runSplit 4 (privateLoad g.toNat d.toNat a.toNat i.toNat 4) s

/-- Private-space load of 64 bits (R109). -/
def execLdpB64 (g : BitVec 3) (d a : BitVec 6) (i : BitVec 8) (s : State) : Host.Outcome State Fault Refusal :=
  runSplit 4 (privateLoad g.toNat d.toNat a.toNat i.toNat 8) s

/-- Private-space load of 128 bits (R109). -/
def execLdpB128 (g : BitVec 3) (d a : BitVec 6) (i : BitVec 8) (s : State) : Host.Outcome State Fault Refusal :=
  runSplit 4 (privateLoad g.toNat d.toNat a.toNat i.toNat 16) s

/-! ## PRV stores (R109) -/

/-- Private-space store of 32 bits (R109). -/
def execStpB32 (g : BitVec 3) (d a : BitVec 6) (i : BitVec 8) (s : State) : Host.Outcome State Fault Refusal :=
  runSplit 4 (privateStore g.toNat d.toNat a.toNat i.toNat 4) s

/-- Private-space store of 64 bits (R109). -/
def execStpB64 (g : BitVec 3) (d a : BitVec 6) (i : BitVec 8) (s : State) : Host.Outcome State Fault Refusal :=
  runSplit 4 (privateStore g.toNat d.toNat a.toNat i.toNat 8) s

/-- Private-space store of 128 bits (R109). -/
def execStpB128 (g : BitVec 3) (d a : BitVec 6) (i : BitVec 8) (s : State) : Host.Outcome State Fault Refusal :=
  runSplit 4 (privateStore g.toNat d.toNat a.toNat i.toNat 16) s

/-! ## SYS 10 and 13 (R143, R349) -/

/-- Weir load with a tolerance that sluices holders until their shares fit (R349). -/
def execLdw (g : BitVec 3) (d a b : BitVec 6) (s : State) : Host.Outcome State Fault Refusal :=
  runSplit 4 (weirLoad g.toNat d.toNat a.toNat b.toNat) s

/-- Scalar 8-byte global load (R143). -/
def execLq (g : BitVec 3) (d a b : BitVec 6) (s : State) : Host.Outcome State Fault Refusal :=
  runSplit 4 (scalarLoad g.toNat d.toNat a.toNat b.toNat) s

end Sys2Proof.Machine
end

