-- ==== Sys2Proof/Machine/Atomic.lean ====
section
/-! DEFINITION. Atomics in global and scratch memory (R229 to R238), with their orderings (R236, R337 to R342) and exclusive
grants (R235). -/

namespace Sys2Proof.Machine

/-! ## Operations (R231) -/

/-- The operations of ATOM and ATOMS, numbered by op4. -/
inductive AtomOp where
  | add | minS | maxS | minN | maxN | and | or | xor | xchg | cas | fadd | fmin | fmax | ld | st
  deriving DecidableEq, Repr

/-- A value of n bytes as a signed integer. -/
def signedOf (n x : Nat) : Int := if n = 4 then (BitVec.ofNat 32 x).toInt else (BitVec.ofNat 64 x).toInt

/-- f(old, x) on n bytes; none where nothing is written (R231). -/
def AtomOp.apply (op : AtomOp) (n old x cmp : Nat) : Option Nat :=
  match op with
  | .add => some ((old + x) % 2 ^ (8 * n))
  | .minS => some (if signedOf n x < signedOf n old then x else old)
  | .maxS => some (if signedOf n old < signedOf n x then x else old)
  | .minN => some (min old x)
  | .maxN => some (max old x)
  | .and => some (old &&& x)
  | .or => some (old ||| x)
  | .xor => some (old ^^^ x)
  | .xchg => some x
  | .cas => if old = cmp then some x else none
  | .fadd => some (f32Add 0 false (BitVec.ofNat 32 old) (BitVec.ofNat 32 x)).1.toNat
  | .fmin => some (f32MinMax false false (BitVec.ofNat 32 old) (BitVec.ofNat 32 x)).1.toNat
  | .fmax => some (f32MinMax true false (BitVec.ofNat 32 old) (BitVec.ofNat 32 x)).1.toNat
  | .ld => none
  | .st => some x

/-- Permission that an operation needs (R232); a remote page carries `ld`, `st`, `add` and `cas` alone (R171). -/
def AtomOp.need (op : AtomOp) : Need :=
  match op with
  | .ld => .load
  | .st => .store
  | .add => .both
  | .cas => .both
  | _ => .here

/-- Orders of R38: the release side and the acquire side. -/
def ordReleases (o : Nat) : Bool := o == 2 || o == 3
def ordAcquires (o : Nat) : Bool := o == 1 || o == 3

/-- The fields of an atomic instruction. -/
structure AtomForm where
  op : AtomOp
  d : Nat
  a : Nat
  ord : Nat
  scope : Nat
  /-- nr = 0 and not `st`: the old value is returned -/
  result : Bool
  /-- 4 or 8 -/
  n : Nat

/-- Registers of the value operand (R229). -/
def AtomForm.valueRegs (f : AtomForm) : List Nat :=
  match f.op with
  | .ld => []
  | .cas => regsFrom f.d (f.n / 2)
  | _ => regsFrom f.d (f.n / 4)

/-- Registers of the result. -/
def AtomForm.resultRegs (f : AtomForm) : List Nat := if f.result then regsFrom f.d (f.n / 4) else []

/-- n bytes of a lane's registers from r on. -/
def laneValue (g : Group) (r lane n : Nat) : Nat :=
  if n = 4 then (g.lane r lane).toNat else (g.lane r lane).toNat + 4294967296 * (g.lane (r + 1) lane).toNat

/-- The operand x of a lane: for cas the new value (R229). -/
def AtomForm.x (f : AtomForm) (g : Group) (lane : Nat) : Nat :=
  laneValue g (if f.op = .cas then f.d + f.n / 4 else f.d) lane f.n

/-- The compare value of a cas. -/
def AtomForm.cmp (f : AtomForm) (g : Group) (lane : Nat) : Nat := laneValue g f.d lane f.n

/-! ## Scope tags (R337, R338) -/

/-- The tag that a group's release writes. -/
def State.tagOf (s : State) (scope core : Nat) (g : Group) : Word :=
  scopeTag scope core ((s.crew? g.crew).map (·.index) |>.getD 0) g.index

/-- The core field of a host or peer, and of the dispatcher (R337). -/
def tagHost : Nat := 0x3FF
def tagDispatcher : Nat := 0x3FE

/-- Whether the party of a tag and an acquiring group include one another at their scopes (R328, R332). -/
def State.scopesMeet (s : State) (tag : Word) (scope core : Nat) (g : Group) : Bool :=
  let level := natBits tag.toNat 2 0
  let c := natBits tag.toNat 12 3
  let crew := natBits tag.toNat 19 13
  let grp := natBits tag.toNat 26 20
  let lane := c != tagHost && c != tagDispatcher
  let sameCrew := c == core && crew == ((s.crew? g.crew).map (·.index) |>.getD 0) % 128
  let sameGroup := c == core && grp == g.index % 128
  let sameRet := lane && s.reticleOf c == s.reticleOf core
  let includes (k : Nat) : Bool :=
    match k with
    | 0 => sameGroup
    | 1 => sameCrew
    | 2 => sameRet
    | _ => true
  let back : Bool :=
    match scope with
    | 0 => sameGroup
    | 1 => sameCrew
    | 2 => sameRet
    | 3 => c != tagHost
    | _ => true
  includes level && back

/-- A line's tag, with offset and length of the runs of bytes that its release wrote. -/
abbrev LineTag : Type := Word × List (Nat × Nat)

/-- `%gstat.SCOPEMIS` where an acquire of `n` bytes at an offset of a tagged line reads a byte that the tagged release wrote, and
the scopes do not meet (R332, R338). -/
def State.scopeMis (s : State) (tag : LineTag) (off n scope core : Nat) (g : Group) : DWord :=
  if natBits tag.1.toNat 2 0 = 7 then 0
  else if !tag.2.any fun r => decide (off < r.1 + r.2) && decide (r.1 < off + n) then 0
  else if s.scopesMeet tag.1 scope core g then 0
  else bitSCOPEMIS

/-! ## Performing at the lodging bank or in L1 (R234, R235) -/

/-- The tag of the line as a core sees it, with the bytes that its release wrote: of the core's own dirty bytes, else of the
directory entry. -/
def State.lineTag (s : State) (core ctx vline line : Nat) : LineTag :=
  let there : LineTag := ((s.entry? line).bind fun e => tblGet? e.tags line).getD (tagNone, [])
  match (s.coreSt core).find ctx vline with
  | some x => if x.dirty then (x.tag, x.tagAt) else there
  | none => there

/-- A later lane of one release writes to a line that an earlier lane has tagged: the tag covers the bytes of both (R337, R338). -/
def State.joinTag (s : State) (core ctx vline line : Nat) (old : LineTag) : State :=
  let both (t : LineTag) : List (Nat × Nat) := if t.1 = old.1 then old.2 ++ t.2 else t.2
  match ((s.coreSt core).find ctx vline).filter fun x => x.dirty && x.pline == line with
  | some x =>
    s.modCore core fun c =>
      { c with l1 := c.l1.map fun y => if y.ctx = ctx ∧ y.vline = vline then { y with tagAt := both (x.tag, x.tagAt) } else y }
  | none => s.modEntry line fun e => { e with tags := tblMod (fun t => (t.1, both t)) e.tags line }

/-- The issuing core's own copy of a line goes out before an atomic at the lodging bank (R238). -/
def State.yieldLine (s : State) (core ctx vline line : Nat) : State :=
  let s1 :=
    match (s.coreSt core).find ctx vline with
    | some x => if x.pline = line then s.evictL1 core x else s
    | none => s
  s1.unalias core ctx vline line

/-- Whether the line may be held exclusively by a core (R235); a move that has been decided counts as one under way. -/
def State.mayGrant (s : State) (core line kind : Nat) : Bool :=
  kind != regionWeir && kind != regionNoncoherent &&
    match s.entry? line with
    | none => true
    | some e => e.replicas.isEmpty && e.moving.isNone && e.due.isNone && !e.leaving && e.weir.isEmpty &&
        (e.excl == none || e.excl == some core)

/-- The line of an atomic in its core's L1, under the grant that the anchor gives on its request: recorded there, with the bytes
that are not dirty fetched afresh (R235). A line that the core holds under the grant of its unit, and under this virtual address,
with the right and the bytes that the atomic needs, needs none. The request is counted, and the move that it may decide leaves the
line without a grant (R292, R293): the second component says whether the grant stands. -/
def State.grant (s : State) (core ctx va n line hint kind : Nat) (need : Need) (l : Leaf) : State × Bool :=
  let vline := va / lineBytes
  let held : Bool :=
    match s.entry? line, s.l1Hit core ctx va n need with
    | some e, some x => e.excl == some core && x.excl && x.pline == line
    | _, _ => false
  if held then (s, true)
  else
    let s1 := ((s.unalias core ctx vline line).dropStale core line).touch line (some core) hint
    if s1.mayGrant core line kind then
      let p := s1.ensureLine core ctx vline line l false
      let fresh := p.1.bankServed line
      ((p.1.modCore core fun c =>
        c.put { p.2 with bytes := fillBytes p.2.bytes fresh.1 fun i => fresh.2.contains i, excl := true }).modEntry line
          fun e => { e with excl := some core }, true)
    else (s1, false)

/-- Whether an `ld` at ret or wider is served by the replica of its core's reticle: the anchor answers it, or the replica does, as
the part may (R294, R335); a replica whose invalidation the core's own write caused serves none (R334). -/
def State.replicaServes (s : State) (core line kind : Nat) : Bool :=
  !s.replicas.isEmpty && kind != regionNoncoherent && kind != regionWeir && !s.ownInval line core &&
    (tblGet? s.replicas (replicaKey (s.dirLine line) (s.reticleOf core))).isSome && Config.replicaServes s.tick

/-- A line in the replica of a core's reticle, as it is served. -/
def State.replicaLine (s : State) (core line : Nat) : LineServed :=
  ((tblGet? s.replicas (replicaKey (s.dirLine line) (s.reticleOf core))).map fun x => x.served (s.dirLine line) line).getD ([], [])

/-- Whether the replica of a core's reticle holds an older value of a line than its lodging bank. -/
def State.replicaOld (s : State) (core line : Nat) : Bool :=
  ((tblGet? s.replicas (replicaKey (s.dirLine line) (s.reticleOf core))).map fun x => x.old.contains line).getD false

/-- A sheaf block is held expanded once an atomic has acted on it, until it is evicted (R238). -/
def State.expand (s : State) (l : Leaf) (line : Nat) : State :=
  if pteSh l.pte then s.modEntry line fun e => { e with expanded := true } else s

/-- One lane of an atomic at the lodging bank: the state, the old value, whether it wrote, and whether an uncorrectable error
stopped it (R230, R238). -/
def State.atomBank (s : State) (core : Nat) (f : AtomForm) (g : Group) (tag : Word) (lane pa : Nat) (l : Leaf) : State × Nat × Bool × Bool :=
  let line := pa / lineBytes
  let s1 := (s.expand l line).recallNow line
  if s1.bankBad (line * lineBytes) lineBytes then (s1, 0, false, true)
  else
    let old := leNat (memReadBytes s1.mem pa f.n)
    match f.op.apply f.n old (f.x g lane) (f.cmp g lane) with
    | some y => (s1.bankWrite pa core (leBytes y f.n) tag, old, true, false)
    | none => (s1, old, false, false)

/-- Whether a lane of an `ld` is served by a replica, as its atomic acts on the line (R294, R335). -/
def State.ldAtReplica (s : State) (core ctx : Nat) (f : AtomForm) (va pa : Nat) (l : Leaf) : Bool :=
  let kind := (s.regionOf ctx va l).1
  let line := pa / lineBytes
  let s1 := s.noteSheaf l line
  decide (f.op = .ld) && !(decide (f.scope < 2) && s1.mayGrant core line kind) &&
    (s1.yieldLine core ctx (va / lineBytes) line).replicaServes core line kind

/-- One lane of an atomic in memory: in L1 under an exclusive grant, at a replica, or at the lodging bank (R230, R234, R235). -/
def State.atomLane (s : State) (core ctx : Nat) (f : AtomForm) (g : Group) (tag : Word) (lane va pa : Nat) (l : Leaf) :
    State × Nat × Bool × Bool :=
  let kind := (s.regionOf ctx va l).1
  let line := pa / lineBytes
  let vline := va / lineBytes
  let hint := effectiveHint hintNorm kind
  let s1 := s.noteSheaf l line
  if f.scope < 2 ∧ s1.mayGrant core line kind = true then
    match s1.grant core ctx va f.n line hint kind f.op.need l with
    | (s2, true) =>
      let s3 := s2.expand l line
      let r : State × List Byte × Bool := if f.op = .st then (s3, [], false) else s3.l1Load core ctx va f.n pa hintNorm kind l f.op.need
      if r.1.bankBad (line * lineBytes) lineBytes then (r.1, 0, false, true)
      else
        match f.op.apply f.n (leNat r.2.1) (f.x g lane) (f.cmp g lane) with
        | some y => (r.1.l1Store core ctx va pa hintNorm kind l (leBytes y f.n) tag, leNat r.2.1, true, false)
        | none => (r.1, leNat r.2.1, false, false)
    | (s2, false) => ((s2.yieldLine core ctx vline line).dropStale core line).atomBank core f g tag lane pa l
  else if s.ldAtReplica core ctx f va pa l then
    let s2 := (s1.yieldLine core ctx vline line).noteHint line hint
    let got := s2.replicaLine core line
    (s2, leNat (bytesAt got.1 (pa % lineBytes) f.n), false, !got.2.isEmpty)
  else
    let s2 := (s1.yieldLine core ctx vline line).dropStale core line
    (if kind = regionWeir then s2.lodge line (some core) (some hint) else s2.touch line (some core) hint).atomBank core f g tag lane pa l

/-- A remote atomic: read, write, atomic add or CAS, ordered (R169, R171). -/
def remoteAtom (f : AtomForm) (g : Group) (lane : Nat) (p : Peer) (addr : Nat) : Msg :=
  let m : Msg :=
    match f.op with
    | .ld => peerMsg p 1 f.n addr 0 []
    | .st => peerMsg p 2 f.n addr 0 (leBytes (f.x g lane) f.n)
    | .cas => peerMsg p 4 f.n addr (BitVec.ofNat 64 (f.cmp g lane)) (leBytes (f.x g lane) f.n)
    | _ => peerMsg p 3 f.n addr (BitVec.ofNat 64 (f.x g lane)) []
  m

/-- What the lanes of an atomic have brought about so far. -/
structure AtomOut where
  s : State
  arr : List Arriving
  /-- lines written, with a release to be recorded -/
  wrote : List Nat
  /-- remote accesses that return nothing -/
  sent : Nat
  /-- `%gstat` bits -/
  bits : DWord

/-- The arrival of an old value. -/
def AtomForm.old (f : AtomForm) (lane v : Nat) (poison : Nat) : List Arriving :=
  if f.result then
    (f.resultRegs.zip (List.range 2)).map fun r =>
      { reg := r.1, lane := lane, val := BitVec.ofNat 64 (v / 4294967296 ^ r.2 % 4294967296), poison := poison }
  else []

/-- One lane of a global atomic (R230). A copy of the line under another virtual address goes out before its tag is looked at (R287,
R338). -/
def atomStep (core ctx gid tag : Nat) (f : AtomForm) (g : Group) (word : Word) (o : AtomOut) (x : Nat × Nat × Route) : AtomOut :=
  match x with
  | (lane, va, .mem l pa) =>
    let line := pa / lineBytes
    let kind := (o.s.regionOf ctx va l).1
    if kind = regionWeir ∧ f.result = false ∧ (f.op = .fadd ∨ (f.op = .add ∧ f.n = 4)) then
      { o with s := (o.s.noteSheaf l line).weirAdd core ctx (va / lineBytes) line
                 [(va % lineBytes / 4, BitVec.ofNat 32 (f.x g lane), decide (f.op = .fadd))] }
    else
      let s0 := (o.s.noteSheaf l line).unalias core ctx (va / lineBytes) line
      let tagged := s0.lineTag core ctx (va / lineBytes) line
      let older := s0.ldAtReplica core ctx f va pa l && s0.replicaOld core line
      let seen := if ordAcquires f.ord && !older then s0.scopeMis tagged (pa % lineBytes) f.n f.scope core g else 0
      let bits := if f.op = .st then 0 else seen
      let (s1, old, wrote, bad) := s0.atomLane core ctx f g word lane va pa l
      if bad then
        { o with s := if f.result then s1 else s1.reportError ctx (line * lineBytes), arr := o.arr ++ f.old lane 0 1 }
      else
        { o with s := if wrote && word != tagNone && o.wrote.contains line then s1.joinTag core ctx (va / lineBytes) line tagged else s1,
                 arr := o.arr ++ f.old lane old 0, bits := o.bits ||| bits,
                 wrote := if wrote && !o.wrote.contains line then line :: o.wrote else o.wrote }
  | (lane, va, .area a) =>
    let line := areaLine ctx (va / lineBytes)
    let s1 := (o.s.yieldLine core ctx (va / lineBytes) line).touch line (some core) hintNorm
    { o with s := s1, arr := o.arr ++ f.old lane (leNat (s1.areaRead a va f.n)) (if s1.areaBad a va f.n then 1 else 0) }
  | (lane, _, .remote p a) =>
    if f.result then
      { o with s := o.s.request (remoteAtom f g lane p a) (.load gid tag f.d lane f.n false),
               sent := if (remoteAtom f g lane p a).kind = 1 then o.sent else o.sent + 1 }
    else { o with s := o.s.request (remoteAtom f g lane p a) (.store gid), sent := o.sent + 1 }
  | _ => o

/-! ## Ordering (R236, R339, R340, R342) -/

/-- A pending failure of a remote store traps at a fence, `bwait`, release atomic or `exit` under ASYNCTRAP (R104, R382), the
earliest one first, with the lanes that act. A `bwait` or an `exit` that completes while ASYNCTRAP = 0 settles it (R382). One that
passes a fence or a release atomic while ASYNCTRAP = 0 stays pending: DESIGN CHOICE (log 22), the spec does not say. -/
def dzwStop (v : View) (acting : DWord) : Option Stop :=
  match v.g.dzwDue with
  | a :: _ => if v.g.asynctrap then some (.trap causeDZW noLane acting a 0) else none
  | [] => none

/-- A group whose earliest failure of a remote store has been reported: the others stay pending (R382). -/
def Group.dzwTold (g : Group) : Group := { g with dzwDue := g.dzwDue.drop 1 }

/-- Remote reads of a group that have not been answered: their values can still change (R329). -/
def State.remoteReads (s : State) (gid : Nat) : Bool :=
  !s.outstanding.isEmpty && s.outstanding.any fun t =>
    match t.purpose with
    | .load g _ _ _ _ _ => g == gid
    | .template g _ => g == gid
    | _ => false

/-- Whether an access that the group has issued is still to be performed: a remote store or atomic without its answer, a remote read
without its value, or a weir addition that is neither held nor in the bank (R236, R329, R351). -/
def View.unperformed (v : View) (s : State) : Bool :=
  decide (v.g.remoteOut ≠ 0) || s.remoteReads v.gid || !s.additionsPerformed v.core v.ctx

/-- Demands that are not on their way yet. -/
def State.demand (s : State) (core gid : Nat) (l : List (Nat × Nat × Nat)) : State :=
  s.dueAll ((l.map fun x => Instr.drainDemand x.1 x.2.1 x.2.2 gid).filter fun i => !s.agenda.contains i && x_ne core i)
where
  /-- A core makes no demand of itself (R340). -/
  x_ne (core : Nat) (i : Instr) : Bool :=
    match i with
    | .drainDemand c _ _ _ => c != core
    | _ => true

/-- The local lines of checked lanes, each once. -/
def localLines : List (Nat × Nat × Route) → List Nat
  | [] => []
  | (_, _, .mem _ pa) :: r =>
    if (localLines r).contains (pa / lineBytes) then localLines r else pa / lineBytes :: localLines r
  | _ :: r => localLines r

/-- Releasers that an acquire at ret or wider makes demands of: core, context and line (R340). -/
def demandsOf (s : State) (core : Nat) (lines : List Nat) : List (Nat × Nat × Nat) :=
  (lines.map fun x => (s.demanded core x).map fun r => (r.1, r.2, x)).flatten

/-- Lines whose exclusive grant must be recalled before the atomic acts: another core's, or the issuing core's own for scope ret
or wider (R235). -/
def recallsOf (s : State) (core scope : Nat) (lines : List Nat) : List Nat :=
  lines.filter fun x =>
    match s.entry? x with
    | some { excl := some h, .. } => h != core || decide (2 ≤ scope)
    | _ => false

/-- Whether a release at ret or wider drains eagerly: for a line with 8 other records, for an addition to a weir line (R339), and
for a line of a remote page, which has no lodging bank here to record it (R171, R236; log 22). -/
def State.eagerly (s : State) (core ctx : Nat) (lines weirs : List Nat) (remote : Bool) : Bool :=
  remote || !weirs.isEmpty || lines.any fun x => s.releasersFull core ctx x

/-- What the orderings of an atomic still wait for: none where it may be performed (R236). A lane on a remote page acts at sys scope
(R171). A drain is acknowledged after every invalidation that it caused (R324). -/
def orderWait (v : View) (s : State) (ord named : Nat) (lines weirs : List Nat) (remote : Bool) : State × Bool :=
  let scope := if remote then 4 else named
  let drains := ordReleases ord && decide (2 ≤ scope) && s.eagerly v.core v.ctx lines weirs remote
  let s1 := if drains then s.drain v.core v.ctx false 0 lineEnd else s
  let demands := if ordAcquires ord && decide (2 ≤ scope) then demandsOf s1 v.core lines else []
  let recalls := recallsOf s1 v.core named lines
  let s2 := (s1.demand v.core v.gid demands).dueAll
    ((recalls.map fun x => Instr.recall x v.gid).filter fun i => !s1.agenda.contains i)
  let waits := !demands.isEmpty || !recalls.isEmpty ||
    (ordReleases ord && (s2.invalsPending v.core (if drains then 3 else scope) || v.unperformed s2))
  (s2, waits)

/-- What an acquire leaves its split to wait for (R236): the answers of remote pages, and those of its additions to weir lines that
have not been performed yet (R351). -/
def acquireRest (s : State) (core ctx ord : Nat) (remote : Bool) (weirs : List Nat) : Wait :=
  let out := weirs.filter fun x => !s.deltaSettled core ctx x false
  if ordAcquires ord && (remote || !out.isEmpty) then .acquired out else .none

/-- The body of a global atomic (R230 to R238). -/
def globalAtom (guard : Nat) (f : AtomForm) (v : View) : Res :=
  let acting := v.acting guard
  let lanes := lanesOf acting
  let vs := [f.a, f.a + 1] ++ f.valueRegs
  guardStop v (nameStop v (f.resultRegs ++ vs) []) <|
  guardStop v (sourceStop v lanes acting vs []) <|
  if lanes.isEmpty then .done v
  else
    match (if ordReleases f.ord then dzwStop v acting else none) with
    | some e => .report v.s v.g.dzwTold e
    | none =>
      guardStop v (allocStop v lanes f.resultRegs) <|
      let checked := checkLanes v.core v.ctx f.n f.op.need v.sl.verdicts v.s (lanes.map fun l => (l, (v.pair f.a l).toNat))
      let routes := checked.2
      match accessStop acting routes with
      | some e => .stop checked.1 e
      | none =>
        let weirs := weirLines checked.1 v.ctx routes
        let addition := !f.result && (f.op == .fadd || (f.op == .add && f.n == 4))
        let lines := localLines routes
        let remote := decide (remoteLanes routes ≠ 0)
        let ordered := orderWait v checked.1 f.ord f.scope (lines.filter fun x => !(addition && weirs.contains x))
          (if addition then weirs else []) remote
        if ordered.2 then .stop ordered.1 (.wait .ack)
        else
          match (if addition then none else ordered.1.askLines v.core v.ctx v.party (fun s x => s.weirWrite x v.party) weirs) with
          | some s => .stop s (.wait .ack)
          | none =>
            let tag := ordered.1.nextTag
            let word := if ordReleases f.ord then ordered.1.tagOf f.scope v.core v.g else tagNone
            let out := routes.foldl (atomStep v.core v.ctx v.gid tag f v.g word)
              { s := endServicesOf ordered.1 v.party weirs, arr := [], wrote := [], sent := 0, bits := 0 }
            let s1 :=
              if ordReleases f.ord && decide (2 ≤ f.scope) then
                out.wrote.foldl (fun s x => s.recordRelease v.core v.ctx x) out.s
              else out.s
            let s2 := if ordAcquires f.ord && decide (2 ≤ f.scope) then s1.invalidateClean v.core v.ctx 0 lineEnd else s1
            let g0 := { (v.woken weirs).g with remoteOut := v.g.remoteOut + out.sent }
            let g1 := g0.raise (vacBits v.g lanes vs ||| out.bits)
            let rest := acquireRest s2 v.core v.ctx f.ord remote (if addition then weirs else [])
            if f.result then startLoad { v with g := g1, rest := rest } s2 lanes f.resultRegs out.arr 0
            else .done { v with s := s2, g := g1, rest := rest }

/-! ## Scratch atomics (R237) -/

/-- One lane of a scratch atomic: the crew, the arrivals so far and the errors to be reported. -/
def scratchStep (f : AtomForm) (g : Group) (o : Crew × List Arriving × Nat) (x : Nat × Nat) : Crew × List Arriving × Nat :=
  let (c, arr, errs) := o
  let (lane, a) := x
  if c.scratchBad.any fun b => decide (a ≤ b) && decide (b < a + f.n) then
    (c, arr ++ f.old lane 0 1, if f.result then errs else errs + 1)
  else
    let old := leNat (memReadBytes c.scratch a f.n)
    match f.op.apply f.n old (f.x g lane) (f.cmp g lane) with
    | some y => (c.scratchWrite a (leBytes y f.n), arr ++ f.old lane old 0, errs)
    | none => (c, arr ++ f.old lane old 0, errs)

/-- The body of a scratch atomic (R230, R237). -/
def scratchAtom (guard : Nat) (f : AtomForm) (v : View) : Res :=
  let acting := v.acting guard
  let lanes := lanesOf acting
  let vs := f.a :: f.valueRegs
  guardStop v (nameStop v (f.resultRegs ++ vs) []) <|
  guardStop v (sourceStop v lanes acting vs []) <|
  if lanes.isEmpty then .done v
  else
    match (if ordReleases f.ord then dzwStop v acting else none) with
    | some e => .report v.s v.g.dzwTold e
    | none =>
      guardStop v (allocStop v lanes f.resultRegs) <|
      let addrs := lanes.map fun l => (l, (v.lane f.a l).toNat)
      guardStop v (windowStop acting f.n (wbScratch v.wb) addrs) <|
      if ordReleases f.ord && v.unperformed v.s then .stop v.s (.wait .ack)
      else
        match v.crew? with
        | none => .done v
        | some c =>
          let out := addrs.foldl (scratchStep f v.g) (c, [], 0)
          let s1 := v.s.setCrew v.g.crew out.1
          let s2 := if out.2.2 = 0 then s1 else s1.reportError v.ctx 0
          let v1 := { v with s := s2, g := v.g.raise (vacBits v.g lanes vs) }
          if f.result then startLoad v1 s2 lanes f.resultRegs out.2.1 0 else .done v1

/-- The form of an instruction's fields. -/
def atomForm (op : AtomOp) (d a : BitVec 6) (o : BitVec 2) (sc : BitVec 3) (nr w : Bool) : AtomForm where
  op := op
  d := d.toNat
  a := a.toNat
  ord := o.toNat
  scope := sc.toNat
  result := !nr && op != .st
  n := if w then 8 else 4


/-! ## ATOM (R231) -/

/-- Global atomic add (red.add when nr = 1), lanes on one address performed in ascending order (R231). -/
def execAtomAdd (g : BitVec 3) (d a : BitVec 6) (o : BitVec 2) (sc : BitVec 3) (n w : BitVec 1) (s : State) : Host.Outcome State Fault Refusal :=
  runSplit 4 (globalAtom g.toNat (atomForm .add d a o sc (n == 1) (w == 1))) s

/-- Global atomic signed minimum (R231). -/
def execAtomMinS (g : BitVec 3) (d a : BitVec 6) (o : BitVec 2) (sc : BitVec 3) (n w : BitVec 1) (s : State) : Host.Outcome State Fault Refusal :=
  runSplit 4 (globalAtom g.toNat (atomForm .minS d a o sc (n == 1) (w == 1))) s

/-- Global atomic signed maximum (R231). -/
def execAtomMaxS (g : BitVec 3) (d a : BitVec 6) (o : BitVec 2) (sc : BitVec 3) (n w : BitVec 1) (s : State) : Host.Outcome State Fault Refusal :=
  runSplit 4 (globalAtom g.toNat (atomForm .maxS d a o sc (n == 1) (w == 1))) s

/-- Global atomic unsigned minimum (R231). -/
def execAtomMinN (g : BitVec 3) (d a : BitVec 6) (o : BitVec 2) (sc : BitVec 3) (n w : BitVec 1) (s : State) : Host.Outcome State Fault Refusal :=
  runSplit 4 (globalAtom g.toNat (atomForm .minN d a o sc (n == 1) (w == 1))) s

/-- Global atomic unsigned maximum (R231). -/
def execAtomMaxN (g : BitVec 3) (d a : BitVec 6) (o : BitVec 2) (sc : BitVec 3) (n w : BitVec 1) (s : State) : Host.Outcome State Fault Refusal :=
  runSplit 4 (globalAtom g.toNat (atomForm .maxN d a o sc (n == 1) (w == 1))) s

/-- Global atomic and (R231). -/
def execAtomAnd (g : BitVec 3) (d a : BitVec 6) (o : BitVec 2) (sc : BitVec 3) (n w : BitVec 1) (s : State) : Host.Outcome State Fault Refusal :=
  runSplit 4 (globalAtom g.toNat (atomForm .and d a o sc (n == 1) (w == 1))) s

/-- Global atomic or (R231). -/
def execAtomOr (g : BitVec 3) (d a : BitVec 6) (o : BitVec 2) (sc : BitVec 3) (n w : BitVec 1) (s : State) : Host.Outcome State Fault Refusal :=
  runSplit 4 (globalAtom g.toNat (atomForm .or d a o sc (n == 1) (w == 1))) s

/-- Global atomic xor (R231). -/
def execAtomXor (g : BitVec 3) (d a : BitVec 6) (o : BitVec 2) (sc : BitVec 3) (n w : BitVec 1) (s : State) : Host.Outcome State Fault Refusal :=
  runSplit 4 (globalAtom g.toNat (atomForm .xor d a o sc (n == 1) (w == 1))) s

/-- Global atomic exchange (R231). -/
def execAtomXchg (g : BitVec 3) (d a : BitVec 6) (o : BitVec 2) (sc : BitVec 3) (n w : BitVec 1) (s : State) : Host.Outcome State Fault Refusal :=
  runSplit 4 (globalAtom g.toNat (atomForm .xchg d a o sc (n == 1) (w == 1))) s

/-- Global compare-and-swap, needing write permission whether or not it succeeds (R232). -/
def execAtomCas (g : BitVec 3) (d a : BitVec 6) (o : BitVec 2) (sc : BitVec 3) (n w : BitVec 1) (s : State) : Host.Outcome State Fault Refusal :=
  runSplit 4 (globalAtom g.toNat (atomForm .cas d a o sc (n == 1) (w == 1))) s

/-- Global FP32 atomic add with RNE; the weir path when it is a reduction on a weir line (R231). -/
def execAtomFaddF32 (g : BitVec 3) (d a : BitVec 6) (o : BitVec 2) (sc : BitVec 3) (n : BitVec 1) (s : State) : Host.Outcome State Fault Refusal :=
  runSplit 4 (globalAtom g.toNat (atomForm .fadd d a o sc (n == 1) false)) s

/-- Global FP32 atomic minimum (R231). -/
def execAtomFminF32 (g : BitVec 3) (d a : BitVec 6) (o : BitVec 2) (sc : BitVec 3) (n : BitVec 1) (s : State) : Host.Outcome State Fault Refusal :=
  runSplit 4 (globalAtom g.toNat (atomForm .fmin d a o sc (n == 1) false)) s

/-- Global FP32 atomic maximum (R231). -/
def execAtomFmaxF32 (g : BitVec 3) (d a : BitVec 6) (o : BitVec 2) (sc : BitVec 3) (n : BitVec 1) (s : State) : Host.Outcome State Fault Refusal :=
  runSplit 4 (globalAtom g.toNat (atomForm .fmax d a o sc (n == 1) false)) s

/-- Global atomic load, with acquire drain demands at ret or wider (R236). -/
def execAtomLd (g : BitVec 3) (d a : BitVec 6) (o : BitVec 2) (sc : BitVec 3) (w : BitVec 1) (s : State) : Host.Outcome State Fault Refusal :=
  runSplit 4 (globalAtom g.toNat (atomForm .ld d a o sc false (w == 1))) s

/-- Global atomic store, recording a releaser for a lazy release (R236). -/
def execAtomSt (g : BitVec 3) (d a : BitVec 6) (o : BitVec 2) (sc : BitVec 3) (_n w : BitVec 1) (s : State) : Host.Outcome State Fault Refusal :=
  runSplit 4 (globalAtom g.toNat (atomForm .st d a o sc true (w == 1))) s

/-! ## ATOMS (R237) -/

/-- Scratch atomic add (R237). -/
def execAtomsAdd (g : BitVec 3) (d a : BitVec 6) (o : BitVec 2) (sc : BitVec 3) (n w : BitVec 1) (s : State) : Host.Outcome State Fault Refusal :=
  runSplit 4 (scratchAtom g.toNat (atomForm .add d a o sc (n == 1) (w == 1))) s

/-- Scratch atomic signed minimum (R237). -/
def execAtomsMinS (g : BitVec 3) (d a : BitVec 6) (o : BitVec 2) (sc : BitVec 3) (n w : BitVec 1) (s : State) : Host.Outcome State Fault Refusal :=
  runSplit 4 (scratchAtom g.toNat (atomForm .minS d a o sc (n == 1) (w == 1))) s

/-- Scratch atomic signed maximum (R237). -/
def execAtomsMaxS (g : BitVec 3) (d a : BitVec 6) (o : BitVec 2) (sc : BitVec 3) (n w : BitVec 1) (s : State) : Host.Outcome State Fault Refusal :=
  runSplit 4 (scratchAtom g.toNat (atomForm .maxS d a o sc (n == 1) (w == 1))) s

/-- Scratch atomic unsigned minimum (R237). -/
def execAtomsMinN (g : BitVec 3) (d a : BitVec 6) (o : BitVec 2) (sc : BitVec 3) (n w : BitVec 1) (s : State) : Host.Outcome State Fault Refusal :=
  runSplit 4 (scratchAtom g.toNat (atomForm .minN d a o sc (n == 1) (w == 1))) s

/-- Scratch atomic unsigned maximum (R237). -/
def execAtomsMaxN (g : BitVec 3) (d a : BitVec 6) (o : BitVec 2) (sc : BitVec 3) (n w : BitVec 1) (s : State) : Host.Outcome State Fault Refusal :=
  runSplit 4 (scratchAtom g.toNat (atomForm .maxN d a o sc (n == 1) (w == 1))) s

/-- Scratch atomic and (R237). -/
def execAtomsAnd (g : BitVec 3) (d a : BitVec 6) (o : BitVec 2) (sc : BitVec 3) (n w : BitVec 1) (s : State) : Host.Outcome State Fault Refusal :=
  runSplit 4 (scratchAtom g.toNat (atomForm .and d a o sc (n == 1) (w == 1))) s

/-- Scratch atomic or (R237). -/
def execAtomsOr (g : BitVec 3) (d a : BitVec 6) (o : BitVec 2) (sc : BitVec 3) (n w : BitVec 1) (s : State) : Host.Outcome State Fault Refusal :=
  runSplit 4 (scratchAtom g.toNat (atomForm .or d a o sc (n == 1) (w == 1))) s

/-- Scratch atomic xor (R237). -/
def execAtomsXor (g : BitVec 3) (d a : BitVec 6) (o : BitVec 2) (sc : BitVec 3) (n w : BitVec 1) (s : State) : Host.Outcome State Fault Refusal :=
  runSplit 4 (scratchAtom g.toNat (atomForm .xor d a o sc (n == 1) (w == 1))) s

/-- Scratch atomic exchange (R237). -/
def execAtomsXchg (g : BitVec 3) (d a : BitVec 6) (o : BitVec 2) (sc : BitVec 3) (n w : BitVec 1) (s : State) : Host.Outcome State Fault Refusal :=
  runSplit 4 (scratchAtom g.toNat (atomForm .xchg d a o sc (n == 1) (w == 1))) s

/-- Scratch compare-and-swap (R237). -/
def execAtomsCas (g : BitVec 3) (d a : BitVec 6) (o : BitVec 2) (sc : BitVec 3) (n w : BitVec 1) (s : State) : Host.Outcome State Fault Refusal :=
  runSplit 4 (scratchAtom g.toNat (atomForm .cas d a o sc (n == 1) (w == 1))) s

/-- Scratch FP32 atomic add (R237). -/
def execAtomsFaddF32 (g : BitVec 3) (d a : BitVec 6) (o : BitVec 2) (sc : BitVec 3) (n : BitVec 1) (s : State) : Host.Outcome State Fault Refusal :=
  runSplit 4 (scratchAtom g.toNat (atomForm .fadd d a o sc (n == 1) false)) s

/-- Scratch FP32 atomic minimum (R237). -/
def execAtomsFminF32 (g : BitVec 3) (d a : BitVec 6) (o : BitVec 2) (sc : BitVec 3) (n : BitVec 1) (s : State) : Host.Outcome State Fault Refusal :=
  runSplit 4 (scratchAtom g.toNat (atomForm .fmin d a o sc (n == 1) false)) s

/-- Scratch FP32 atomic maximum (R237). -/
def execAtomsFmaxF32 (g : BitVec 3) (d a : BitVec 6) (o : BitVec 2) (sc : BitVec 3) (n : BitVec 1) (s : State) : Host.Outcome State Fault Refusal :=
  runSplit 4 (scratchAtom g.toNat (atomForm .fmax d a o sc (n == 1) false)) s

/-- Scratch atomic load (R237). -/
def execAtomsLd (g : BitVec 3) (d a : BitVec 6) (o : BitVec 2) (sc : BitVec 3) (w : BitVec 1) (s : State) : Host.Outcome State Fault Refusal :=
  runSplit 4 (scratchAtom g.toNat (atomForm .ld d a o sc false (w == 1))) s

/-- Scratch atomic store (R237). -/
def execAtomsSt (g : BitVec 3) (d a : BitVec 6) (o : BitVec 2) (sc : BitVec 3) (_n w : BitVec 1) (s : State) : Host.Outcome State Fault Refusal :=
  runSplit 4 (scratchAtom g.toNat (atomForm .st d a o sc true (w == 1))) s

end Sys2Proof.Machine
end

