-- ==== Sys2Proof/Machine/Sync.lean ====
section
/-! DEFINITION. Fences, monitors, batches, barriers, the tollgate and the weir drain, and the steps that drains, acknowledgements,
recalls and wakes take (R220 to R222, R239 to R248, R295, R324, R340). -/

namespace Sys2Proof.Machine

/-- A c-guarded instruction that only touches scalars `ss`: nothing at all happens where its guard is false (R248). -/
def cBody (guard : Nat) (named srcs : List Nat) (k : View → Res) (v : View) : Res :=
  guardStop v (nameStop v [] named) <|
  if v.g.cpred guard then guardStop v (sourceStop v [] v.sl.mask [] srcs) (k v) else .done v

/-! ## Performing a group's earlier accesses (R130, R221, R223, R227, R329) -/

/-- Drains the core's dirty lines of the context at ret or wider, and says whether the invalidations of the drain, or an access that
the group has issued, are still to be awaited (R324, R329, R351). -/
def performAt (v : View) (scope : Nat) : State × Bool :=
  if scope < 2 then (v.s, v.unperformed v.s)
  else
    let s1 := v.s.drain v.core v.ctx false 0 lineEnd
    (s1, s1.invalsPending v.core 3 || v.unperformed s1)

/-! ## Fences (R239, R240) -/

/-- Virtual lines of a range; a length of 0 covers the whole space. -/
def rangeLines (base len : Nat) : Nat × Nat :=
  if len = 0 then (0, lineEnd) else (base / lineBytes, (base + len + lineBytes - 1) / lineBytes)

/-- Every releaser that a line records, but for a core itself: an acquire at ret or wider that names no line, by a read and a
`fence.acq`, makes demands of all of them, whichever line the read took its value from (R331, R332, R340; log 9). -/
def State.allDemanded (s : State) (core : Nat) : List (Nat × Nat × Nat) :=
  (s.dir.map fun e => (e.2.releasers.filter fun r => r.1 != core).map fun r => (r.1, r.2, e.1)).flatten

/-- The body of `fence` (R239, R240). A release waits for what its range covers; an acquire waits for every earlier access of the
split, in either space, and at ret or wider for the drains of the releasers (R332, R340). -/
def fenceBody (a b ord scope space : Nat) (v : View) : Res :=
  let base := (v.g.sval a).toNat
  let len := (v.g.sval b).toNat
  let global := natBit space 0
  match dzwStop v v.sl.mask with
  | some e => .report v.s v.g.dzwTold e
  | none =>
    if global && decide (len ≠ 0) && decide (addressEnd < base + len) then
      .stop v.s (.trap causeADDR noLane v.sl.mask (BitVec.ofNat 64 base) 0)
    else
      let r := rangeLines base len
      let wide := global && decide (2 ≤ scope)
      let s1 := if ordReleases ord && wide then v.s.drain v.core v.ctx true r.1 r.2 else v.s
      let demands := if ordAcquires ord && wide then s1.allDemanded v.core else []
      if (ordReleases ord && wide && s1.invalsPending v.core 3) || ((ordAcquires ord || global) && v.unperformed s1) ||
          !demands.isEmpty then
        .stop (s1.demand v.core v.gid demands) (.wait .ack)
      else .done { v with s := if ordAcquires ord && wide then s1.invalidateClean v.core v.ctx r.1 r.2 else s1 }

/-! ## Monitors (R241) -/

/-- The watch that an access's fate gives. A private area's line counts as written at once: reason 0 may be spurious. -/
def watchOf (va : Nat) : Route → Watch
  | .mem l pa => { vline := va / lineBytes, pline := pa / lineBytes, remote := false, parks := pteHw l.pte, fired := false,
                   lost := false, bytes := [] }
  | .remote _ a => { vline := va / lineBytes, pline := a / lineBytes, remote := true, parks := true, fired := false,
                     lost := false, bytes := [] }
  | _ => { vline := va / lineBytes, pline := 0, remote := false, parks := false, fired := true, lost := false, bytes := [] }

/-- Arms or drops a group's watch. -/
def State.setWatch (s : State) (gid : Nat) (w : Option Watch) : State := s.modGroup gid fun g => { g with watch := w }

/-- The body of `marm`. On a remote page the watch begins with the bytes that the line holds at the `marm`: the instruction
completes once the peer has read them (R241). -/
def armBody (a : Nat) (v : View) : Res :=
  let va := (v.g.sval a).toNat
  let fate := v.s.fateOf v.core v.ctx va 1 .load v.sl.verdicts
  match accessStop v.sl.mask [(noLane, va, fate.2)] with
  | some e => .stop fate.1 e
  | none =>
    let s1 := fate.1.setWatch v.gid (some (watchOf va fate.2))
    match fate.2 with
    | .remote p x => .stop (s1.request (peerMsg p 1 lineBytes (x / lineBytes * lineBytes) 0 []) (.poll v.gid)) (.wait .arming)
    | _ => .done { v with s := s1 }

/-- `t` nanoseconds after a time, or the last moment of `%clock` where the sum exceeds it. -/
def deadlineAt (now t : DWord) : DWord := BitVec.ofNat 64 (min (now.toNat + t.toNat) (2 ^ 64 - 1))

/-- The body of `mwait`. -/
def mwaitBody (a b : Nat) (v : View) : Res :=
  match v.g.watch with
  | none => .done { v with g := v.g.setScalar a 2 }
  | some w =>
    if w.lost then .done { v with s := v.s.setWatch v.gid none, g := v.g.setScalar a 2 }
    else if w.fired then .done { v with s := v.s.setWatch v.gid none, g := v.g.setScalar a 0 }
    else
      let t := v.g.sval b
      .stop (if w.remote then v.s.due (.remoteWatchPoll v.gid) else v.s)
        (.wait (.monitor (if t = 0 then none else some (deadlineAt v.s.clock t)) a))

def Wait.isMonitor : Wait → Bool
  | .monitor _ _ => true
  | _ => false

/-- The scalar that a sleeping `mwait` writes. -/
def Group.monitorDst (g : Group) : Option Nat :=
  g.allSplits.findSome? fun x =>
    match x.wait with
    | .monitor _ d => some d
    | _ => none

/-- Whether a split waits in a way that makes its group a candidate for the swap area: `mwait`, `qpop`, `bwait`, `bar` or `tgate`
(R209), or `qpush` (R250); with `alloc`, a stalled allocation too. -/
def Split.swapWait (alloc : Bool) (x : Split) : Bool := x.wait.kind == 1 || (alloc && x.wait.kind == 2)

/-- A group that has woken while its registers lie in the swap area is restored before it issues again (R209). -/
def State.restore (s : State) (gid : Nat) : State :=
  match s.group? gid with
  | some g =>
    if g.swapped && (g.slotA.toList ++ g.slotB.toList).any fun x => !x.swapWait true then s.due (.swapIn gid) else s
  | none => s

/-- Every sleeping `mwait` of a group ends, each writing the reason that `why` gives it to its own scalar; the watch is consumed. -/
def Group.endMonitors (why : Split → Nat) (g : Group) : Group :=
  let write (g : Group) (x : Split) : Group :=
    match x.wait with
    | .monitor _ d => g.setScalar d (BitVec.ofNat 64 (why x))
    | _ => g
  Group.passEach (fun x => x.wait.isMonitor) write { g with watch := none }

/-- The `mwait`s that sleep on a group's watch end with a reason. -/
def State.wakeMonitor (s : State) (gid : Nat) (why : Split → Nat) : State :=
  match s.group? gid with
  | none => s
  | some g => if g.monitorDst.isSome then (s.setGroup gid (g.endMonitors why)).restore gid else s

/-! ## Batches (R242, R243, R382) -/

/-- Cause of a failed engine operation. -/
def Failure.cause (f : Failure) : Nat :=
  if f.matrix && f.code == 10 then causeDFMETA
  else if f.code = 7 then causeUCE
  else if f.code = 8 then causeDZW
  else causeASYNC

/-- Detail of the trap record of a failure (R382). -/
def Failure.detail (f : Failure) : DWord :=
  BitVec.ofNat 64 (f.batch % 4294967296 + (if f.matrix then 4294967296 else 0) + f.code * 68719476736)

/-- What failures that a wait covers come to: a trap for the earliest under ASYNCTRAP, with the lanes that act; else they count as
reported. -/
def failureEnd (v : View) (acting : DWord) (covered : Failure → Bool) (k : View → Res) : Res :=
  let l := v.g.failures.filter covered
  match (if v.g.asynctrap then earliest l else none) with
  | some f =>
    .report v.s { v.g with failures := v.g.failures.filter fun x => decide (x ≠ f) }
      (.trap f.cause noLane acting f.addr f.detail)
  | none => k { v with g := { v.g with failures := v.g.failures.filter fun x => !covered x } }

/-- Whether the group has an operation in a queue of its core. -/
def State.opsOut (s : State) (core gid : Nat) (matrix : Bool) (p : EngOp → Bool) : Bool :=
  (if matrix then (s.coreSt core).matQ else (s.coreSt core).copyQ).any fun o => o.group == gid && p o

/-- The body of `bwait`: kind, and the number waited for. It settles the failures that it covers, and those of remote stores (R243,
R382). -/
def bwaitBody (a : Nat) (matrix : Bool) (v : View) : Res :=
  let last := if matrix then v.g.bnm else v.g.bnc
  let n := min (v.g.sval a).toNat last.toNat
  match dzwStop v v.sl.mask with
  | some e => .report v.s v.g.dzwTold e
  | none =>
    if v.s.opsOut v.core v.gid matrix fun o => decide (o.batch ≤ n) then .stop v.s (.wait .batch)
    else
      failureEnd { v with g := { v.g with dzwDue := [] } } v.sl.mask (fun f => f.matrix == matrix && decide (f.batch ≤ n)) .done

/-! ## Crew barriers (R244) -/

/-- The group's lanes that have not exited. -/
def Group.present (g : Group) : DWord := fullMask g.width &&& ~~~g.exited

def BarPhase.new : BarPhase where
  count := 0
  lanes := []
  arrived := []

/-- The groups of a crew that have not ended. -/
def Crew.live (c : Crew) : List Nat := c.groups.filter fun g => !c.ended.contains g

/-- A group's lanes reach a barrier; `c` is the count it supplies. The phase, and whether the counts disagree. -/
def BarPhase.reach (p : BarPhase) (gid : Nat) (mask present : DWord) (c : Option Nat) : BarPhase × Bool :=
  let have_ := tblGet p.lanes gid 0 ||| mask
  let p1 := { p with lanes := tblSet p.lanes gid have_ }
  if present &&& ~~~have_ = 0 ∧ present ≠ 0 ∧ !p.arrived.contains gid then
    match c with
    | some n =>
      if p.arrived.isEmpty then ({ p1 with count := n, arrived := [gid] }, false)
      else ({ p1 with arrived := p.arrived ++ [gid] }, decide (n ≠ p.count))
    | none => ({ p1 with arrived := p.arrived ++ [gid] }, false)
  else (p1, false)

/-- Whether a phase is complete. -/
def BarPhase.complete (p : BarPhase) (live : Nat) : Bool :=
  !p.arrived.isEmpty && decide ((if p.count = 0 then live else min p.count live) ≤ p.arrived.length)

/-- The next phase: lanes of groups that have not arrived stay. -/
def BarPhase.next (p : BarPhase) : BarPhase :=
  { count := 0, lanes := tblFilter (fun g _ => !p.arrived.contains g) p.lanes, arrived := [] }

def Wait.isBar (id : Nat) : Wait → Bool
  | .bar i => i == id
  | _ => false

/-- The groups that a completed phase lets go on; `me` is the group of a split that executes, whose slots its end puts in order. -/
def State.passBar (s : State) (me : Option Nat) (id : Nat) (l : List Nat) : State :=
  l.foldl (fun s g => (s.modGroup g fun x =>
    if me = some g then x.passHere (Wait.isBar id) else x.pass (Wait.isBar id)).restore g) s

/-- The body of `bar`. An arrival acts as a release at crew scope: the accesses that the group has issued are performed first
(R236, R244). -/
def barBody (id b : Nat) (v : View) : Res :=
  match v.crew? with
  | none => .done v
  | some c =>
    if v.unperformed v.s then .stop v.s (.wait .ack) else
    let p := tblGet c.bars id BarPhase.new
    let (p1, mis) := p.reach v.gid v.sl.mask v.g.present (some (v.g.sval b).toNat)
    let g1 := if mis then v.g.raise bitSYNCMIS else v.g
    if p1.complete c.live.length then
      let s1 := v.s.setCrew v.g.crew { c with bars := tblSet c.bars id p1.next }
      .done { v with s := s1.passBar none id (p1.arrived.filter fun g => g != v.gid),
                     g := if p1.arrived.contains v.gid then g1.passHere (Wait.isBar id) else g1 }
    else .report (v.s.setCrew v.g.crew { c with bars := tblSet c.bars id p1 }) g1 (.wait (.bar id))

/-- The phases of a crew after lanes or a group have gone: an arrival that this completes, and the phases that it completes
(R244). The count of a phase whose first arrival comes about by exit is 0. `me` is the group of a split that executes. -/
def State.recheckBars (s : State) (me : Option Nat) (crew : Nat) : State :=
  match s.crew? crew with
  | none => s
  | some c =>
    c.bars.foldl (fun s x =>
      match s.crew? crew with
      | none => s
      | some c =>
        let p := tblGet c.bars x.1 BarPhase.new
        let p1 := c.live.foldl (fun p g =>
          match s.group? g, tblGet? p.lanes g with
          | some y, some _ => (p.reach g 0 y.present none).1
          | _, _ => p) p
        if p1.complete c.live.length then
          (s.setCrew crew { c with bars := tblSet c.bars x.1 p1.next }).passBar me x.1 p1.arrived
        else s.setCrew crew { c with bars := tblSet c.bars x.1 p1 }) s

/-! ## Lane synchronisation (R245) -/

def Wait.isLanes : Wait → Bool
  | .lanes => true
  | _ => false

/-- Whether a phase of `bar.lanes` is complete. -/
def LanePhase.complete (p : LanePhase) (exited : DWord) : Bool := p.members &&& ~~~(p.arrived ||| exited) == 0

/-- Ends a complete phase, at the exit of a split of the group: every waiting split goes on. -/
def Group.recheckLanes (g : Group) : Group :=
  match g.lanePhase with
  | some p => if p.complete g.exited then Group.passHere Wait.isLanes { g with lanePhase := none } else g
  | none => g

/-- The body of `bar.lanes`. A member acts as a release at grp scope: the accesses that the group has issued are performed first
(R236, R245). -/
def barLanesBody (a : Nat) (v : View) : Res :=
  let m := v.g.sval a &&& fullMask v.width
  let members : DWord :=
    match v.g.lanePhase with
    | none => m
    | some p => p.members
  if v.sl.mask &&& members ≠ 0 ∧ v.unperformed v.s = true then .stop v.s (.wait .ack) else
  match v.g.lanePhase with
  | none =>
    if m &&& v.g.present = 0 then .done v
    else
      let p : LanePhase := { members := m, arrived := v.sl.mask &&& m }
      if p.complete v.g.exited then .done v
      else if v.sl.mask &&& m = 0 then .done { v with g := { v.g with lanePhase := some p } }
      else .report v.s { v.g with lanePhase := some p } (.wait .lanes)
  | some p =>
    let g1 := if m = p.members then v.g else v.g.raise bitSYNCMIS
    let p1 : LanePhase := { p with arrived := p.arrived ||| (v.sl.mask &&& p.members) }
    if p1.complete v.g.exited then .done { v with g := Group.passHere Wait.isLanes { g1 with lanePhase := none } }
    else if v.sl.mask &&& p.members = 0 then .done { v with g := g1 }
    else .report v.s { g1 with lanePhase := some p1 } (.wait .lanes)

/-! ## The tollgate (R220 to R222) -/

/-- The tree of a group's launch. -/
def State.treeOf (s : State) (g : Group) : Option (Nat × Tree) :=
  match s.launch? (s.launchOf g) with
  | some { tree := some t, .. } => (tblGet? s.trees t).map fun x => (t, x)
  | _ => none

/-- Every core's line is raised. -/
def Tree.raised (t : Tree) : Bool := t.counters.all fun c => c.2.1 == 0

/-- A group's arrival: its core's counter goes down. -/
def Tree.arrive (t : Tree) (core gid : Nat) : Tree :=
  { t with counters := tblMod (fun c => (c.1 - 1, c.2)) t.counters core, arrived := t.arrived ++ [gid] }

/-- The tree after an arrival; a complete phase is due to end. -/
def State.putTree (s : State) (k : Nat) (t : Tree) : State :=
  let s1 := { s with trees := tblSet s.trees k t }
  if t.raised then s1.due (.tollgatePhaseCompletion k) else s1

/-- The body of `tgate`: `arrives` for k3 = 0 and 1, `waits` for 0 and 2. -/
def tgateBody (arrives waits : Bool) (v : View) : Res :=
  match v.s.treeOf v.g with
  | none => .done { v with g := v.g.raise bitSYNCMIS }
  | some (k, t) =>
    if arrives then
      let p := performAt v 3
      if p.2 then .stop p.1 (.wait .ack)
      else if t.arrived.contains v.gid then .stop p.1 (.wait (.tgate true waits))
      else
        let s1 := p.1.putTree k (t.arrive v.core v.gid)
        if waits then .stop s1 (.wait (.tgate false true)) else .done { v with s := s1 }
    else .stop v.s (.wait (.tgate false true))

def Wait.isTgate (again : Bool) : Wait → Bool
  | .tgate a _ => a == again
  | _ => false

/-- One group at the end of a phase: a split that waited goes on; a second arrival counts in the next phase. -/
def Group.endPhase (g : Group) : Group × Bool :=
  let g1 := g.pass (Wait.isTgate false)
  let second := g1.allSplits.any fun x => Wait.isTgate true x.wait
  let f (x : Split) : Split :=
    match x.wait with
    | .tgate true true => { x with wait := .tgate false true }
    | _ => x
  let h (w : Wait) : Bool :=
    match w with
    | .tgate true false => true
    | _ => false
  (({ g1 with slotA := g1.slotA.map f, slotB := g1.slotB.map f, spilled := g1.spilled.map f } : Group).pass h, second)

/-- The groups of a launch, with their cores. -/
def State.launchGroups (s : State) (l : Nat) : List (Nat × Group × Nat) :=
  (s.groups.filter fun x => s.launchOf x.2 == l).map fun x => (x.1, x.2, s.coreOf x.2)

/-! ## Weir drain (R247) -/

/-- The cores that a scope reaches. -/
def State.scopeCores (s : State) (core scope : Nat) : List Nat :=
  if scope < 2 then [core]
  else if scope = 2 then (s.cores.map fun c => c.1).filter fun c => s.reticleOf c == s.reticleOf core
  else s.cores.map fun c => c.1

/-- The delta lines of a context in a range of virtual lines on some cores, with the lines whose additions wait for a way. -/
def State.deltasIn (s : State) (ctx : Nat) (cores : List Nat) (lo hi : Nat) : List (Nat × Nat) :=
  (cores.map fun c =>
    ((((s.coreSt c).deltas.filter fun d => d.ctx == ctx && decide (lo ≤ d.vline) && decide (d.vline < hi)).map fun d => (c, d.pline)) ++
      (((s.coreSt c).roomless.filter fun d => d.ctx == ctx && decide (lo ≤ d.vline) && decide (d.vline < hi)).map fun d =>
        (c, d.line))).eraseDups).flatten

/-- The body of `wdrain`. -/
def wdrainBody (a b scope : Nat) (v : View) : Res :=
  let base := (v.g.sval a).toNat
  let len := (v.g.sval b).toNat
  if addressEnd < base + len then .stop v.s (.trap causeADDR noLane v.sl.mask (BitVec.ofNat 64 base) 0)
  else
    let r := rangeLines base len
    let todo := v.s.deltasIn v.ctx (v.s.scopeCores v.core scope) r.1 r.2
    if todo.isEmpty then .done v
    else .stop (v.s.dueAll (todo.map fun x => .drainRequest x.1 v.ctx x.2 v.gid)) (.wait (.drains todo))

/-! ## SYNC -/

/-- Range fence ordering and, at ret or wider, draining or invalidating L1 lines in its range (R240). -/
def execFence (g : BitVec 3) (a b : BitVec 6) (o : BitVec 2) (sc : BitVec 3) (k : BitVec 2) (s : State) : Host.Outcome State Fault Refusal :=
  runSplit 4 (cBody g.toNat [a.toNat, b.toNat] [a.toNat, b.toNat] (fenceBody a.toNat b.toNat o.toNat sc.toNat k.toNat)) s

/-- Arms a watch on a global line (R241). -/
def execMarm (g : BitVec 3) (a : BitVec 6) (s : State) : Host.Outcome State Fault Refusal :=
  runSplit 4 (cBody g.toNat [a.toNat] [a.toNat] (armBody a.toNat)) s

/-- Sleeps until the watched line is written, a timeout passes or the watch is lost (R241). -/
def execMwait (g : BitVec 3) (a b : BitVec 6) (s : State) : Host.Outcome State Fault Refusal :=
  runSplit 4 (cBody g.toNat [a.toNat, b.toNat] [b.toNat] (mwaitBody a.toNat b.toNat)) s

/-- Closes and numbers the group's open copy batch (R242). -/
def execBsealCopy (g : BitVec 3) (a : BitVec 6) (s : State) : Host.Outcome State Fault Refusal :=
  runSplit 4 (cBody g.toNat [a.toNat] [] fun v =>
    .done { v with g := { v.g.setScalar a.toNat (v.g.bnc + 1) with bnc := v.g.bnc + 1 } }) s

/-- Closes and numbers the group's open matrix batch (R242). -/
def execBsealMat (g : BitVec 3) (a : BitVec 6) (s : State) : Host.Outcome State Fault Refusal :=
  runSplit 4 (cBody g.toNat [a.toNat] [] fun v =>
    .done { v with g := { v.g.setScalar a.toNat (v.g.bnm + 1) with bnm := v.g.bnm + 1 } }) s

/-- Sleeps until copy batches up to a number complete, trapping on failures under ASYNCTRAP (R243). -/
def execBwaitCopy (g : BitVec 3) (a : BitVec 6) (s : State) : Host.Outcome State Fault Refusal :=
  runSplit 4 (cBody g.toNat [a.toNat] [a.toNat] (bwaitBody a.toNat false)) s

/-- Sleeps until matrix batches up to a number complete (R243). -/
def execBwaitMat (g : BitVec 3) (a : BitVec 6) (s : State) : Host.Outcome State Fault Refusal :=
  runSplit 4 (cBody g.toNat [a.toNat] [a.toNat] (bwaitBody a.toNat true)) s

/-- Arrives at a crew barrier and sleeps until the phase completes (R244). -/
def execBar (g : BitVec 3) (b : BitVec 6) (k : BitVec 3) (s : State) : Host.Outcome State Fault Refusal :=
  runSplit 4 (cBody g.toNat [b.toNat] [b.toNat] (barBody k.toNat b.toNat)) s

/-- Masked lane synchronisation within the group (R245). -/
def execBarLanes (g : BitVec 3) (a : BitVec 6) (s : State) : Host.Outcome State Fault Refusal :=
  runSplit 4 (cBody g.toNat [a.toNat] [a.toNat] (barLanesBody a.toNat)) s

/-- Arrives at the tollgate and waits for the phase (R221). -/
def execTgateArriveWait (g : BitVec 3) (s : State) : Host.Outcome State Fault Refusal :=
  runSplit 4 (cBody g.toNat [] [] (tgateBody true true)) s

/-- Arrives at the tollgate without waiting (R221). -/
def execTgateArrive (g : BitVec 3) (s : State) : Host.Outcome State Fault Refusal :=
  runSplit 4 (cBody g.toNat [] [] (tgateBody true false)) s

/-- Waits for the next tollgate phase completion (R221). -/
def execTgateWait (g : BitVec 3) (s : State) : Host.Outcome State Fault Refusal :=
  runSplit 4 (cBody g.toNat [] [] (tgateBody false true)) s

/-- Spills weir delta lines in a range from the holders its scope reaches (R247). -/
def execWdrain (g : BitVec 3) (a b : BitVec 6) (sc : BitVec 3) (s : State) : Host.Outcome State Fault Refusal :=
  runSplit 4 (cBody g.toNat [a.toNat, b.toNat] [a.toNat, b.toNat] (wdrainBody a.toNat b.toNat sc.toNat)) s

/-! ## The steps of the other agents -/

/-- A recorded releaser core drains its dirty lines of the context, gives up its grants of the context's lines and acknowledges
(R235, R340). -/
def execDrainDemand (core ctx line group : Nat) (s : State) : Host.Outcome State Fault Refusal :=
  .next ((s.drainDemanded core ctx).due (.drainAcknowledgement core ctx line group))

/-- A drain is acknowledged after its collapse invalidations arrive, completing the waiting release or acquire (R324); its
record is removed (R340). What the core has written since the drain is drained too, as R340 lets it, so that no release that it has
made on the line meanwhile goes with the record. -/
def execDrainAcknowledgement (core ctx line group : Nat) (s : State) : Host.Outcome State Fault Refusal :=
  let s0 := s.drainDemanded core ctx
  if s0.invals.any fun x => x.2.2 == core then .next (s0.due (.drainAcknowledgement core ctx line group))
  else
    let s1 := s0.modEntry line fun e => { e with releasers := e.releasers.filter fun r => r != (core, ctx) }
    .next ((s1.modGroup group fun g => g.wake Wait.isAck).restore group)

/-- Removes the first element equal to `a`. -/
def removeOne {α : Type} [BEq α] (a : α) : List α → List α
  | [] => []
  | b :: r => if b == a then r else b :: removeOne a r

/-- An invalidation arrives at a replica and drops it (R295), a newer one that has been made there meanwhile included, whose bit the
anchor then clears as for one that its bank evicts; releases of the core that caused it look again (R342). -/
def execReplicaInvalidation (line reticle core : Nat) (s : State) : Host.Outcome State Fault Refusal :=
  let s1 := { s.dropReplica line reticle with invals := removeOne (line, reticle, core) s.invals }
  .next (s1.settleOwed.wakeAcks core)

/-- An exclusive grant is recalled, sending dirty bytes to the lodging bank (R235); it is acknowledged once the invalidations of
the line have arrived (R324). -/
def execRecall (line group : Nat) (s : State) : Host.Outcome State Fault Refusal :=
  let s1 := s.recallNow line
  if s1.invals.any fun x => x.1 == s1.dirLine line then .next (s1.due (.recall line group))
  else .next ((s1.modGroup group fun g => g.wake Wait.isAck).restore group)

/-- A write, invalidation or eviction of a watched line wakes mwait with reason 0 (R241); reason 2 is a watch that was lost. -/
def execMonitorWake (group reason : Nat) (s : State) : Host.Outcome State Fault Refusal :=
  .next (s.wakeMonitor group fun _ => reason)

/-- The deadline of a sleeping `mwait`. -/
def Split.deadline (x : Split) : Option DWord :=
  match x.wait with
  | .monitor d _ => d
  | _ => none

/-- An mwait timeout expires with reason 1 (R241); the clock has reached the earliest deadline of the group. A split that sleeps on
the same watch with another deadline loses it: the watch is consumed, and its reason is 2 (log 9). -/
def execMwaitTimeout (group : Nat) (s : State) : Host.Outcome State Fault Refusal :=
  let times : List DWord := ((s.group? group).map fun g => g.allSplits.filterMap Split.deadline).getD []
  match times with
  | [] => .next s
  | t0 :: r =>
    let t := r.foldl (fun a b => if b.ult a then b else a) t0
    .next (State.wakeMonitor { s with clock := if s.clock.ult t then t else s.clock } group
      fun x => if x.deadline = some t then 1 else 2)

/-- A watched remote line is re-read every 2 µs and compared (R241): the read is sent; its completion compares. -/
def execRemoteWatchPoll (group : Nat) (s : State) : Host.Outcome State Fault Refusal :=
  match s.group? group with
  | none => .next s
  | some g =>
    match g.watch, g.monitorDst with
    | some w, some _ =>
      if w.remote then
        let core := s.coreOf g
        match s.fateOf core (s.ctxOf g) (w.vline * lineBytes) 1 .load [] with
        | (s1, .remote p a) =>
          .next (State.request { s1 with clock := s1.clock + 2000 } (peerMsg p 1 lineBytes (a / lineBytes * lineBytes) 0 [])
            (.poll group))
        | (s1, _) => .next (s1.due (.monitorWake group 2))
      else .next s
    | _, _ => .next s

/-- The wired-AND tree completes a phase, reloads counters and releases waiters (R221). -/
def execTollgatePhaseCompletion (tree : Nat) (s : State) : Host.Outcome State Fault Refusal :=
  match tblGet? s.trees tree with
  | none => .next s
  | some t =>
    if t.raised then
      let t1 : Tree := { t with counters := tblMap (fun _ c => (c.2, c.2)) t.counters, arrived := [] }
      let out := (s.launchGroups t.launch).foldl (fun (o : State × Tree) x =>
        let (gid, g, core) := x
        let (g1, second) := g.endPhase
        let woken := g.allSplits.any fun y => Wait.isTgate false y.wait
        let s1 := (o.1.setGroup gid g1).restore gid
        (if woken then s1.invalidateClean core (ctxOfKey t.launch) 0 lineEnd else s1,
         if second then o.2.arrive core gid else o.2)) (s, t1)
      .next (if out.2.counters.all fun c => c.2.2 == 0 then { out.1 with trees := tblSet out.1.trees tree out.2 }
             else out.1.putTree tree out.2)
    else .next s

end Sys2Proof.Machine
end

