-- ==== Sys2Proof/Machine/System.lean ====
section
/-! DEFINITION. Special registers and system functions, `exit`, and the scratch queues (R130, R133 to R142, R249, R250). -/

namespace Sys2Proof.Machine

/-! ## Special registers (R133 to R137) -/

/-- Fields 0 to 5 of the work identifier of a lane (R136, R194). -/
def State.widField (s : State) (g : Group) (lane k : Nat) : Nat :=
  let c := s.crew? g.crew
  match k with
  | 0 => lane
  | 1 => g.f1
  | 2 => (c.map (·.f2)).getD 0
  | 3 => (c.map (·.f3)).getD 0
  | 4 => (c.map (·.f4)).getD 0
  | _ => (c.map (·.f5)).getD 0

/-- Widths of the fields 0 to k - 1 together. -/
def widthBelow (w : List Byte) (k : Nat) : Nat := ((List.range k).map fun i => wbWidth w i).sum

/-- The work identifier of a lane: f0 | f1 << w0 | f2 << (w0 + w1) and so on (R136). -/
def State.workId (s : State) (g : Group) (lane : Nat) : DWord :=
  let w := s.groupWb g
  (List.range 6).foldl (fun a k => a ||| (BitVec.ofNat 64 (s.widField g lane k) <<< widthBelow w k)) 0

/-- `%crew` (R133). -/
def State.crewNumber (s : State) (g : Group) : Nat :=
  let w := s.groupWb g
  s.widField g 0 2 + wbCount w 2 * (s.widField g 0 3 + wbCount w 3 * (s.widField g 0 4 + wbCount w 4 * s.widField g 0 5))

/-- The value of a special register by index. -/
def View.special (v : View) (i : Nat) : DWord :=
  match i with
  | 0 => v.s.clock
  | 1 => (v.s.coreSt v.core).cycle
  | 2 => BitVec.ofNat 64 v.core
  | 3 => BitVec.ofNat 64 (reticleName (v.s.reticleOf v.core))
  | 4 => BitVec.ofNat 64 (v.s.crewNumber v.g)
  | 5 => BitVec.ofNat 64 v.g.f1
  | 6 => BitVec.ofNat 64 v.g.width
  | 7 => BitVec.ofNat 64 v.ctx
  | 8 => BitVec.ofNat 64 (v.s.launchOf v.g % 4294967296)
  | 9 => v.g.gstat
  | 10 => v.g.gc
  | 11 => v.sl.fm.zeroExtend 64
  | 12 => v.g.mst
  | 13 => v.g.prog
  | 14 => v.g.bnc
  | 15 => v.g.bnm
  | 16 => v.g.ire
  | 17 => BitVec.ofNat 64 v.g.splits
  | 18 => v.s.workId v.g 0
  | _ => (v.s.coreSt v.core).dress

/-- The body of `gsr`: `%gstat` waits for outstanding loads, and for the remote stores and atomics whose failure would set a bit of
it (R104, R133). -/
def gsrBody (d i : Nat) (v : View) : Res :=
  if i = 9 ∧ v.s.loadsOut v.gid v.g = true then .stop v.s (.wait .source)
  else if i = 9 ∧ v.g.remoteOut ≠ 0 then .stop v.s (.wait .ack)
  else .done { v with g := v.g.setScalar d (v.special i) }

/-- A check whose failure traps without an address. -/
def trapIf (v : View) (bad : Bool) (cause : Nat) (acting : DWord) (k : Res) : Res :=
  if bad then .stop v.s (.trap cause noLane acting 0 0) else k

/-- A `topo` value (R137). -/
def View.topology (v : View) (k : Nat) : DWord :=
  let r := v.s.reticleOf v.core
  match k with
  | 0 => BitVec.ofNat 64 v.s.part.coreCount
  | 1 => 0x808
  | 2 => BitVec.ofNat 64 v.s.part.mapSize
  | 3 => BitVec.ofNat 64 (v.s.part.mapSize * 0x600000)
  | 4 => BitVec.ofNat 64 Config.hbmBytes
  | 5 => BitVec.ofNat 64 v.s.part.grade
  | 6 => BitVec.ofNat 64 (reticleName r)
  | 7 => BitVec.ofNat 64 (v.s.numbersOf r).length
  | 8 => BitVec.ofNat 64 ((v.s.numbersOf r).headD 0)
  | _ => BitVec.ofNat 64 Config.isaLevel

/-! ## System functions (R138 to R142) -/

/-- The body of `wid` (R136). -/
def widBody (guard d k : Nat) (v : View) : Res :=
  let lanes := lanesOf (v.acting guard)
  guardStop v (nameStop v [d] []) <|
  guardStop v (allocStop v lanes [d]) <|
  .done { v with g := v.g.writeLanes d lanes fun l =>
            if k = 6 then (v.s.workId v.g l).truncate 32 else BitVec.ofNat 32 (v.s.widField v.g l k) }

/-- The body of `chk` (R138). -/
def chkBody (guard p a : Nat) (v : View) : Res :=
  guardStop v (nameStop v [a] []) <|
  let acting := v.acting guard
  .done { v with g := v.g.setPred p acting (~~~maskOf ((lanesOf acting).filter fun l => v.g.laneEmpty a l)) }

/-- The body of `idem` (R139). -/
def idemBody (v : View) : Res :=
  let alone := (v.g.slot (!v.slotB)).isNone && v.g.records.isEmpty && v.g.spilled.isEmpty
  if alone then
    let r : Region := { mask := v.sl.mask, fm := v.sl.fm, restarts := 0, firstOp := v.g.opCount }
    .done { v with g := { v.g with ire := v.sl.pc + 4, region := some r } }
  else .done { v with g := { v.g with ire := 0, region := none } }

/-- The body of `brk` (R140, R389). -/
def brkBody (code : Nat) (v : View) : Res :=
  if wbDebug v.wb then
    .report (v.s.due (.debugHaltSettled v.gid)) { v.g with halt := .debug false v.slotB v.g.failures.length [] } (.wait .none)
  else .stop v.s (.trap causeBRK noLane v.sl.mask 0 (BitVec.ofNat 64 code))

/-- What `lodge` answers of a line (R141). -/
def State.lodging (s : State) (core line : Nat) : DWord :=
  match s.entry? line with
  | none => 0
  | some e =>
    let r := s.reticleOf core
    let state := if e.moving.isSome then 2 else if e.leaving then 3 else 1
    BitVec.ofNat 64 (reticleName e.ret + e.bank * 2 ^ 16 + state * 2 ^ 22 + (if e.pin then 2 ^ 24 else 0) +
      (if e.replicas.contains r then 2 ^ 25 else 0) + (if state = 3 then 0 else e.replicas.length * 2 ^ 32) +
      requesterCount e.requesters r * 2 ^ 40)

/-- The body of `lodge`. -/
def lodgeBody (d a : Nat) (v : View) : Res :=
  trapIf v (!v.g.debug) causePRIV v.sl.mask <|
  guardStop v (sourceStop v [] v.sl.mask [] [a]) <|
  let va := (v.g.sval a).toNat
  let fate := v.s.fateOf v.core v.ctx va 1 .load v.sl.verdicts
  match accessStop v.sl.mask [(noLane, va, fate.2)] with
  | some e => .stop fate.1 e
  | none =>
    let answer : DWord :=
      match fate.2 with
      | .mem _ pa => fate.1.lodging v.core (pa / lineBytes)
      | _ => 0
    .done { v with s := fate.1, g := v.g.setScalar d answer }

/-- The body of `pfg` (R142). -/
def prefetchBody (a : Nat) (v : View) : Res :=
  let va := (v.g.sval a).toNat
  match v.s.fateOf v.core v.ctx va 1 .load [] with
  | (s1, .mem l pa) =>
    let k := (s1.regionOf v.ctx va l).1
    if k = regionWeir then .done { v with s := s1 }
    else .done { v with s := (s1.l1Load v.core v.ctx va 1 pa hintNorm k l .load).1 }
  | (s1, _) => .done { v with s := s1 }

/-! ## Exit (R130) -/

/-- Takes lanes out of the records; those left without a lane are discarded. -/
def exitRecords (x : DWord) (t : Tbl Rejoin) : Tbl Rejoin :=
  tblFilter (fun _ r => r.union != 0) (tblMap (fun _ r => { r with union := r.union &&& ~~~x, arrived := r.arrived &&& ~~~x }) t)

/-- The innermost record of a chain that still stands; `old` holds the records before the exit. -/
def standing (old now : Tbl Rejoin) : Nat → Option Nat → Option Nat
  | 0, _ => none
  | _, none => none
  | n + 1, some k =>
    match tblGet? now k, tblGet? old k with
    | some _, _ => some k
    | none, some r => standing old now n r.outer
    | none, none => none

/-- The split after its lanes `x` have ended: it goes on, pops a record that is now complete, or leaves its slot. Handler mode ends
once no lane of the handler split remains (R383). -/
def exitSplit (v : View) (x : DWord) : View :=
  let g1 := { v.g with exited := v.g.exited ||| x, records := exitRecords x v.g.records,
                       handler := v.g.handler.filter fun h => h.lanes &&& ~~~(v.g.exited ||| x) != 0 }
  let rest := v.sl.mask &&& ~~~x
  if rest ≠ 0 then { v with g := g1, sl := { v.sl with mask := rest } }
  else
    let k := standing v.g.records g1.records (v.g.records.length + 1) v.sl.link
    match k.bind fun k => (tblGet? g1.records k).map fun r => (k, r) with
    | some (k, r) =>
      if r.union &&& ~~~r.arrived = 0 then popRecord { v with g := g1 } g1 k r
      else { v with g := g1, sl := { v.sl with mask := 0 }, idle := true }
    | none => { v with g := g1, sl := { v.sl with mask := 0 }, idle := true }

/-- The body of `exit`: the exiting lanes' accesses are performed at the scope; the group's final exit waits for its engine
operations (R130). An exit that completes settles the failures of remote stores (R382). -/
def exitBody (guard scope : Nat) (v : View) : Res :=
  let x := v.acting guard
  if x = 0 then .done v
  else
    match dzwStop v x with
    | some e => .report v.s v.g.dzwTold e
    | none =>
      let p := performAt v scope
      if p.2 then .stop p.1 (.wait .ack)
      else
        let final := (fullMask v.width &&& ~~~(v.g.exited ||| x)) == 0
        let settled : View := { v with s := p.1, g := { v.g with dzwDue := [] } }
        let finish (w : View) : Res :=
          let w1 := exitSplit w x
          let g1 := w1.s.keepWatch w1.gid w1.g.recheckLanes
          let s1 := (w1.s.setGroup w1.gid g1).recheckBars (some w1.gid) g1.crew
          .done { w1 with s := s1, g := (s1.group? w1.gid).getD g1 }
        if final then
          if p.1.opsOut v.core v.gid false (fun _ => true) || p.1.opsOut v.core v.gid true (fun _ => true) then
            .stop p.1 (.wait .final)
          else failureEnd settled x (fun _ => true) fun w =>
            .done { exitSplit w x with s := p.1.due (.groupCompletion v.gid) }
        else finish settled

/-! ## Queues (R249, R250) -/

/-- Address of entry `i` of a queue, counted from the oldest. -/
def Queue.slotAddr (q : Queue) (i : Nat) : Nat := q.base + 4 * ((q.head + i) % q.depth)

def Crew.setQueue (c : Crew) (k : Nat) (q : Queue) : Crew := { c with queues := tblSet c.queues k q }

/-- Appends a word to a queue that is not full. -/
def Crew.push (c : Crew) (k : Nat) (q : Queue) (w : Word) : Crew :=
  (c.scratchWrite (q.slotAddr q.occ) (leBytes w.toNat 4)).setQueue k { q with occ := q.occ + 1 }

/-- The oldest entry, and whether it is poisoned. -/
def Crew.front (c : Crew) (q : Queue) : Word × Bool :=
  let a := q.slotAddr 0
  (BitVec.ofNat 32 (leNat (memReadBytes c.scratch a 4)), c.scratchBad.any fun b => decide (a ≤ b) && decide (b < a + 4))

/-- Removes the oldest entry of a queue that is not empty. -/
def Queue.popped (q : Queue) : Queue := { q with head := (q.head + 1) % q.depth, occ := q.occ - 1 }

def Wait.isQueue (k : Nat) : Wait → Bool
  | .queue j => j == k
  | _ => false

/-- The sleepers that may now be served look again. -/
def State.wakeQueue (s : State) (k : Nat) (l : List (Nat × Bool)) : State :=
  match l with
  | [] => s
  | x :: _ => (s.modGroup x.1 fun g => g.wake (Wait.isQueue k)).restore x.1

/-- Whether the executing split has slept on a queue and has not been served yet: its instruction has begun, and its guard, which
was true then, is not looked at again (R249). -/
def View.sleepsOn (v : View) (k : Nat) : Bool :=
  ((v.crew?.bind fun c => tblGet? c.queues k).map fun q => (q.pushers ++ q.poppers).contains (v.gid, v.slotB)).getD false

/-- A QUE instruction that may sleep, under its guard. -/
def queueGuard (guard k : Nat) (named srcs : List Nat) (body : View → Res) (v : View) : Res :=
  cBody (if v.sleepsOn k then 7 else guard) named srcs body v

/-- Whether a split in a queue's list still waits to be served: one that has trapped, or that has left its slot, waits no more. -/
def State.stillSleeps (s : State) (x : Nat × Bool) : Bool :=
  (((s.group? x.1).bind fun g => g.slot x.2).map fun y => y.since.isSome).getD false

/-- The sleepers that are left in a queue's lists. -/
def State.sleepers (s : State) (q : Queue) : Queue :=
  { q with pushers := q.pushers.filter s.stillSleeps, poppers := q.poppers.filter s.stillSleeps }

/-- Splits that wait no more leave the lists of the queues, and those behind them look again (R249). -/
def State.pruneQueues (s : State) : State :=
  if s.crews.any fun c => c.2.queues.any fun q => !(q.2.pushers ++ q.2.poppers).all s.stillSleeps then
    let s1 : State := { s with crews := tblMap (fun _ c => { c with queues := tblMap (fun _ q => s.sleepers q) c.queues }) s.crews }
    s1.crews.foldl (fun t c => c.2.queues.foldl (fun t q => (t.wakeQueue q.1 q.2.pushers).wakeQueue q.1 q.2.poppers) t) s1
  else s

/-- A queue's operation: QUE where the queue is uninitialised. -/
def queueBody (k : Nat) (f : Crew → Queue → Res) (v : View) : Res :=
  match v.crew? with
  | none => .done v
  | some c =>
    match tblGet? c.queues k with
    | none => .stop v.s (.trap causeQUE noLane v.sl.mask 0 (BitVec.ofNat 64 k))
    | some q => f c q

/-- Puts a changed queue back and wakes the sleepers at its two ends. -/
def queueDone (v : View) (k : Nat) (c : Crew) (q : Queue) (g : Group) : Res :=
  let s1 := v.s.setCrew v.g.crew c
  let s2 := if q.occ < q.depth then s1.wakeQueue k q.pushers else s1
  let s3 := if 0 < q.occ then s2.wakeQueue k q.poppers else s2
  .done { v with s := s3, g := if (q.pushers ++ q.poppers).any fun x => x.1 == v.gid then g.wake (Wait.isQueue k) else g }

/-- The scalar that a pop writes. -/
def Group.popScalar (g : Group) (d : Nat) (x : Word × Bool) : Group :=
  if d = 0 then g
  else { g with scalars := tblSet g.scalars d { val := x.1.zeroExtend 64, st := if x.2 then .poisoned false 0 else .full } }

/-- The body of `qpush`: a release at crew scope, it waits for the accesses that the group has issued (R236, R249). -/
def pushBody (k d : Nat) (v : View) : Res :=
  queueBody k (fun c q =>
    let me := (v.gid, v.slotB)
    if v.unperformed v.s then .stop v.s (.wait .ack)
    else if (q.pushers.isEmpty || q.pushers.head? == some me) && decide (q.occ < q.depth) then
      let q1 := { q with pushers := q.pushers.drop 1 }
      queueDone v k (c.push k q1 (v.low d)) { q1 with occ := q1.occ + 1 } v.g
    else
      let q1 := if q.pushers.contains me then q else { q with pushers := q.pushers ++ [me] }
      .stop (v.s.setCrew v.g.crew (c.setQueue k q1)) (.wait (.queue k))) v

/-- The body of `qpop`. -/
def popBody (k d : Nat) (v : View) : Res :=
  queueBody k (fun c q =>
    let me := (v.gid, v.slotB)
    if (q.poppers.isEmpty || q.poppers.head? == some me) && decide (0 < q.occ) then
      let q1 := { q with poppers := q.poppers.drop 1 }.popped
      queueDone v k (c.setQueue k q1) q1 (v.g.popScalar d (c.front q))
    else
      let q1 := if q.poppers.contains me then q else { q with poppers := q.poppers ++ [me] }
      .stop (v.s.setCrew v.g.crew (c.setQueue k q1)) (.wait (.queue k))) v

/-- The body of `qtpush`: it never overtakes a sleeper. -/
def tryPushBody (k d p : Nat) (v : View) : Res :=
  queueBody k (fun c q =>
    if v.unperformed v.s then .stop v.s (.wait .ack)
    else if q.occ + q.pushers.length < q.depth then
      queueDone v k (c.push k q (v.low d)) { q with occ := q.occ + 1 } (v.g.setC p true)
    else .done { v with g := v.g.setC p false }) v

/-- The body of `qtpop`. -/
def tryPopBody (k d p : Nat) (v : View) : Res :=
  queueBody k (fun c q =>
    if q.poppers.length < q.occ then
      queueDone v k (c.setQueue k q.popped) q.popped ((v.g.popScalar d (c.front q)).setC p true)
    else .done { v with g := v.g.setC p false }) v

/-- The body of `qinit` (R250). -/
def initBody (k d depth : Nat) (v : View) : Res :=
  match v.crew? with
  | none => .done v
  | some c =>
    let base := (v.g.sval d).toNat
    let asleep : Bool :=
      match tblGet? c.queues k with
      | some q => !q.pushers.isEmpty || !q.poppers.isEmpty
      | none => false
    if base % 4 ≠ 0 then .stop v.s (.trap causeALIGN noLane v.sl.mask (BitVec.ofNat 64 base) 0)
    else if wbScratch v.wb < base + 4 * depth then .stop v.s (.trap causeADDR noLane v.sl.mask (BitVec.ofNat 64 base) 0)
    else if asleep then .stop v.s (.trap causeQUE noLane v.sl.mask 0 (BitVec.ofNat 64 k))
    else
      let q : Queue := { base := base, depth := depth, head := 0, occ := 0, pushers := [], poppers := [] }
      .done { v with s := v.s.setCrew v.g.crew (c.setQueue k q) }

/-! ## SYS -/

/-- Reads a special register into a scalar (R133). -/
def execGsr (g : BitVec 3) (d i : BitVec 6) (s : State) : Host.Outcome State Fault Refusal :=
  runSplit 4 (cBody g.toNat [d.toNat] [] (gsrBody d.toNat i.toNat)) s

/-- Write-one-to-clear of %gstat bits (R135). -/
def execSsrGstat (g : BitVec 3) (b : BitVec 6) (s : State) : Host.Outcome State Fault Refusal :=
  runSplit 4 (cBody g.toNat [b.toNat] [b.toNat] fun v =>
    .done { v with g := { v.g with gstat := writeOneClear v.g.gstat (v.g.sval b.toNat) } }) s

/-- Writes %gc, trapping on reserved bits or unpermitted DEBUG (R135). -/
def execSsrGc (g : BitVec 3) (b : BitVec 6) (s : State) : Host.Outcome State Fault Refusal :=
  runSplit 4 (cBody g.toNat [b.toNat] [b.toNat] fun v =>
    trapIf v ((v.g.sval b.toNat) >>> 3 != 0) causeILLEGAL 0 <|
    trapIf v ((v.g.sval b.toNat).getLsbD 2 && !wbDebug v.wb) causePRIV v.sl.mask <|
    .done { v with g := { v.g with gc := v.g.sval b.toNat } }) s

/-- Writes the slot's %fm, trapping on reserved bits (R135). -/
def execSsrFm (g : BitVec 3) (b : BitVec 6) (s : State) : Host.Outcome State Fault Refusal :=
  runSplit 4 (cBody g.toNat [b.toNat] [b.toNat] fun v =>
    trapIf v ((v.g.sval b.toNat).getLsbD 13 || (v.g.sval b.toNat) >>> 23 != 0) causeILLEGAL 0 <|
    .done { v with sl := { v.sl with fm := v.low b.toNat } }) s

/-- Write-one-to-clear of %mst bits (R135). -/
def execSsrMst (g : BitVec 3) (b : BitVec 6) (s : State) : Host.Outcome State Fault Refusal :=
  runSplit 4 (cBody g.toNat [b.toNat] [b.toNat] fun v =>
    .done { v with g := { v.g with mst := writeOneClear v.g.mst (v.g.sval b.toNat) } }) s

/-- Writes a work-identifier field into each acting lane (R136). -/
def execWid (g : BitVec 3) (d k : BitVec 6) (s : State) : Host.Outcome State Fault Refusal :=
  runSplit 4 (widBody g.toNat d.toNat k.toNat) s

/-- Returns a wafer topology value (R137). -/
def execTopo (g : BitVec 3) (d k : BitVec 6) (s : State) : Host.Outcome State Fault Refusal :=
  runSplit 4 (cBody g.toNat [d.toNat] [] fun v =>
    .done { v with g := v.g.setScalar d.toNat (v.topology k.toNat) }) s

/-- Sets a predicate from whether a lane register is empty, never waiting (R138). -/
def execChk (g p : BitVec 3) (a : BitVec 6) (s : State) : Host.Outcome State Fault Refusal :=
  runSplit 4 (chkBody g.toNat p.toNat a.toNat) s

/-- Opens an idempotent region and sets %ire (R139). -/
def execIdem (g : BitVec 3) (s : State) : Host.Outcome State Fault Refusal :=
  runSplit 4 (cBody g.toNat [] [] idemBody) s

/-- Closes the idempotent region (R139). -/
def execIdemx (g : BitVec 3) (s : State) : Host.Outcome State Fault Refusal :=
  runSplit 4 (cBody g.toNat [] [] fun v =>
    .done { v with g := { v.g with ire := 0, region := none } }) s

/-- Debug halt under the debug flag, otherwise a BRK trap (R140). -/
def execBrk (g : BitVec 3) (h l : BitVec 6) (s : State) : Host.Outcome State Fault Refusal :=
  runSplit 4 (cBody g.toNat [] [] (brkBody (l.toNat + 64 * h.toNat))) s

/-- Queries where a line lodges in the wafer cache (R141). -/
def execLodge (g : BitVec 3) (d a : BitVec 6) (s : State) : Host.Outcome State Fault Refusal :=
  runSplit 4 (cBody g.toNat [d.toNat, a.toNat] [] (lodgeBody d.toNat a.toNat)) s

/-- Prefetches a line into L1 without faulting (R142). -/
def execPfg (g : BitVec 3) (a : BitVec 6) (s : State) : Host.Outcome State Fault Refusal :=
  runSplit 4 (cBody g.toNat [a.toNat] [a.toNat] (prefetchBody a.toNat)) s

/-! ## Exit -/

/-- Ends the acting lanes, performing their outstanding stores at the named scope (R130). -/
def execExit (g sc : BitVec 3) (s : State) : Host.Outcome State Fault Refusal :=
  runSplit 4 (exitBody g.toNat sc.toNat) s

/-! ## QUE -/

/-- Appends to a crew queue, sleeping while it is full; a crew-scope release (R249). -/
def execQpush (g : BitVec 3) (q : BitVec 4) (d : BitVec 6) (s : State) : Host.Outcome State Fault Refusal :=
  runSplit 4 (queueGuard g.toNat q.toNat [d.toNat] [d.toNat] (pushBody q.toNat d.toNat)) s

/-- Removes the oldest entry, sleeping while empty; a crew-scope acquire (R249). -/
def execQpop (g : BitVec 3) (q : BitVec 4) (d : BitVec 6) (s : State) : Host.Outcome State Fault Refusal :=
  runSplit 4 (queueGuard g.toNat q.toNat [d.toNat] [] (popBody q.toNat d.toNat)) s

/-- Tries to push, reporting success in a group predicate (R249). -/
def execQtpush (g : BitVec 3) (q : BitVec 4) (d : BitVec 6) (c : BitVec 3) (s : State) : Host.Outcome State Fault Refusal :=
  runSplit 4 (cBody g.toNat [d.toNat] [d.toNat] (tryPushBody q.toNat d.toNat c.toNat)) s

/-- Tries to pop, reporting success in a group predicate (R249). -/
def execQtpop (g : BitVec 3) (q : BitVec 4) (d : BitVec 6) (c : BitVec 3) (s : State) : Host.Outcome State Fault Refusal :=
  runSplit 4 (cBody g.toNat [d.toNat] [] (tryPopBody q.toNat d.toNat c.toNat)) s

/-- Initialises a queue's base and depth and empties it (R250). -/
def execQinit (g : BitVec 3) (q : BitVec 4) (d : BitVec 6) (i : BitVec 7) (s : State) : Host.Outcome State Fault Refusal :=
  runSplit 4 (cBody g.toNat [d.toNat] [d.toNat] (initBody q.toNat d.toNat i.toNat)) s

/-- Returns a queue's occupancy and free space (R249). -/
def execQstat (g : BitVec 3) (q : BitVec 4) (d : BitVec 6) (s : State) : Host.Outcome State Fault Refusal :=
  runSplit 4 (cBody g.toNat [d.toNat] [] fun v => queueBody q.toNat (fun _ x =>
    .done { v with g := v.g.setScalar d.toNat (BitVec.ofNat 64 (x.occ + (x.depth - x.occ) * 65536)) }) v) s

end Sys2Proof.Machine
end

