-- ==== Sys2Proof/Machine/Engine.lean ====
section
/-! DEFINITION. What the copy and matrix engines share: reading and writing global and scratch memory under their own faults, and
the queues (R256, R274, R275, R301, R303, R308, R345). -/

namespace Sys2Proof.Machine

/-- What an engine's access comes to. -/
inductive Got (α : Type) where
  | ok (s : State) (a : α)
  /-- a held translation fault at an address, on a page -/
  | held (s : State) (va : Nat) (p : PageRef)
  /-- a failure with its code (R311, R382) and address -/
  | fail (s : State) (code va : Nat)
  /-- the line is still being settled -/
  | later (s : State)
  /-- a remote access is on its way -/
  | asleep (s : State)

/-- Goes on where an access has been served. -/
def Got.andThen {α β : Type} (x : Got α) (f : State → α → Got β) : Got β :=
  match x with
  | .ok s a => f s a
  | .held s va p => .held s va p
  | .fail s c va => .fail s c va
  | .later s => .later s
  | .asleep s => .asleep s

/-- Status codes of R311; a matrix operation uses 5 to 7 and 10 (R382). -/
def codeDIR : Nat := 1
def codeRECORD : Nat := 2
def codeRANGE : Nat := 3
def codeALIGN : Nat := 4
def codePERM : Nat := 5
def codeADDR : Nat := 6
def codeUCE : Nat := 7
def codeDZW : Nat := 8
def codeSHEAF : Nat := 9
def codeLENGTH : Nat := 10
/-- Illegal difference-form metadata (R382). -/
def codeDFMETA : Nat := 10

/-! ## Global reads -/

/-- `n` bytes of a line as an engine reads them: the dirty bytes that the issuing core's L1 holds over those that are served; and
which of them is the first that is uncorrectable (R345, R381). -/
def State.engineOver (s : State) (core line off n : Nat) (served : LineServed) : List Byte × Option Nat :=
  let own := (s.coreSt core).l1.find? fun x => x.pline == line
  let mine (i : Nat) : Option L1Byte := (own.bind fun x => tblGet? x.bytes (off + i)).filter fun b => b.dirty
  ((List.range n).map fun i => ((mine i).map (·.val)).getD (served.1.getD (off + i) 0),
   (List.range n).find? fun i => ((mine i).map (·.bad)).getD (served.2.contains (off + i)))

/-- Bytes of a line as an engine reads them: from the issuing core's L1 where they are dirty, else from the lodging bank or a
replica of its reticle (R308, R345). -/
def State.engineBytes (s : State) (core pa n kind : Nat) (l : Leaf) : State × List Byte × Option Nat :=
  let line := pa / lineBytes
  let (s1, fresh) := (s.noteSheaf l line).serveLine core line (effectiveHint hintNorm kind) kind l
  (s1, s1.engineOver core line (pa % lineBytes) n fresh)

/-- Bytes of a private line as an engine reads them: its request is counted, as one of global data (R287, R308, R345, R399). -/
def State.engineArea (s : State) (core ctx gid va n : Nat) : State × List Byte × Option Nat :=
  let vline := va / lineBytes
  let first := vline * lineBytes
  let s1 := s.touch (areaLine ctx vline) (some core) hintNorm
  (s1, s1.engineOver core (areaLine ctx vline) (va % lineBytes) n
    (s1.areaRead gid first lineBytes, (List.range lineBytes).filter fun i => s1.areaBad gid (first + i) 1))

/-- Whether an operation is another state of one. -/
def EngOp.same (op x : EngOp) : Bool := x.group == op.group && x.num == op.num

/-- An operation as its queue holds it. -/
def State.opNow (s : State) (core : Nat) (matrix : Bool) (op : EngOp) : EngOp :=
  ((if matrix then (s.coreSt core).matQ else (s.coreSt core).copyQ).find? op.same).getD op

/-- Bytes that an operation has read stay with it. -/
def State.keepRead (s : State) (core : Nat) (matrix : Bool) (op : EngOp) (l : List (Nat × List Byte)) : State :=
  let f (x : EngOp) : EngOp := if op.same x then { x with cache := x.cache ++ l } else x
  s.modCore core fun c => if matrix then { c with matQ := c.matQ.map f } else { c with copyQ := c.copyQ.map f }

/-- The aligned 16-byte units that `n` bytes at an address touch (R105). -/
def unitsAt (a n : Nat) : List Nat := if n = 0 then [] else (List.range ((a % 16 + n + 15) / 16)).map fun i => a / 16 * 16 + 16 * i

/-- A unit has read a weir line: the aligned 16-byte units that it read, those without an uncorrectable byte, stay with the
operation, so that the line's service ends at once (R362) and no later read of the operation finds another value in them (R105). -/
def State.keepWeir (s : State) (core : Nat) (matrix : Bool) (op : EngOp) (va n pa : Nat) : State :=
  let b := s.weirLine core op.ctx (pa / lineBytes)
  let good := (unitsAt va n).filter fun u => !s.bankBad (pa + u - va) 16
  s.keepRead core matrix op (good.map fun u => (u, bytesAt b (u % lineBytes) 16))

/-- A byte that an operation has read already, by the key of its address. -/
def EngOp.keptByte (op : EngOp) (a : Nat) : Option Byte :=
  op.cache.findSome? fun x => if x.1 ≤ a then x.2[a - x.1]? else none

/-- What an operation has read already at an address, where it has read all of it: a remote page's bytes, or a weir line's. -/
def EngOp.kept (op : EngOp) (va n : Nat) : Option (List Byte) :=
  let l := (List.range n).map fun i => op.keptByte (va + i)
  if !op.cache.isEmpty && l.all Option.isSome then some (l.map fun b => b.getD 0) else none

/-- What an operation reads at an address: a byte that it has read before has that value still (R105, R259). -/
def EngOp.overKept (op : EngOp) (a : Nat) (b : List Byte) : List Byte :=
  if op.cache.isEmpty then b else (List.range b.length).map fun i => (op.keptByte (a + i)).getD (b.getD i 0)

/-- Whether an address lies on a remote page, whatever its peer slot holds (R171, R274); an engine consults no TLB (R285). -/
def State.remotePage (s : State) (core ctx va : Nat) : Bool :=
  match (s.walk (some core) ctx va).2 with
  | .leaf l => pteRm l.pte
  | _ => false

/-- The code of an engine access that a cause denies: every remote page is PERM for a matrix operation (R274, R308). -/
def State.denyCode (s : State) (core : Nat) (op : EngOp) (matrix : Bool) (va c : Nat) : Nat :=
  if c ≠ causeADDR then codePERM
  else if matrix && !inPrivateRange va && !inReservedPage va && s.remotePage core op.ctx va then codePERM
  else codeADDR

/-- One read within a line. -/
def State.enginePiece (s : State) (core : Nat) (op : EngOp) (matrix : Bool) (va n : Nat) : Got (List Byte) :=
  if addressEnd ≤ va then .fail s codeADDR va
  else
    match s.route core op.ctx va n .load op.fatal false with
    | (s1, .cause c) => .fail s1 (s1.denyCode core op matrix va c) va
    | (s1, .held p) => .held s1 va p
    | (s1, .area g) =>
      match s1.engineArea core op.ctx g va n with
      | (s2, _, some i) => .fail s2 codeUCE (va + i)
      | (s2, b, none) => .ok s2 b
    | (s1, .remote p a) =>
      if matrix then .fail s1 codePERM va
      else
        match op.kept va n with
        | some b => .ok s1 b
        | none => .asleep (s1.request (peerMsg p 1 n a 0 []) (.engineRead core op.group op.num va))
    | (s1, .mem l pa) =>
      let kind := (s1.regionOf op.ctx va l).1
      if kind = regionWeir then
        let line := pa / lineBytes
        match op.kept va n with
        | some b => .ok s1 b
        | none =>
          match s1.askLines core op.ctx op.party (fun s x => s.weirRead core x op.party none) [line] with
          | some s2 => .later s2
          | none =>
            let s2 := (((s1.noteSheaf l line).unalias core op.ctx lineEnd line).lodge line (some core) (some hintNorm)).endService line op.party
            match (List.range n).find? fun i => s2.bankBad (pa + i) 1 with
            | some i => .fail s2 codeUCE (va + i)
            | none =>
              let b := bytesAt (s2.weirLine core op.ctx line) (pa % lineBytes) n
              .ok (s2.keepWeir core matrix op va n pa) b
      else
        match s1.engineBytes core pa n kind l with
        | (s2, _, some i) => .fail s2 codeUCE (va + i)
        | (s2, b, none) => .ok s2 b

/-- Reads of several pieces, joined. -/
def readPieces (core : Nat) (op : EngOp) (matrix : Bool) : State → List (Nat × Nat) → Got (List Byte)
  | s, [] => .ok s []
  | s, (va, n) :: r =>
    (s.enginePiece core op matrix va n).andThen fun s1 b =>
      (readPieces core op matrix s1 r).andThen fun s2 c => .ok s2 (b ++ c)

/-! ## Scratch, and both spaces (R301, R313) -/

/-- The place of a logical scratch byte under a swizzle mode (R301). -/
def swizzle (m a : Nat) : Nat :=
  match m with
  | 0 => a
  | 1 => a ^^^ (natBits a 7 7 * 16)
  | 2 => a ^^^ (natBits a 8 7 * 16)
  | _ => a ^^^ (natBits a 9 7 * 16)

/-- The crew of an operation. -/
def State.opCrew (s : State) (op : EngOp) : Nat := ((s.group? op.group).map (·.crew)).getD 0

/-- Scratch bytes under a swizzle mode. -/
def State.engineScratch (s : State) (op : EngOp) (m a n : Nat) : Got (List Byte) :=
  match s.crew? (s.opCrew op) with
  | none => .ok s (List.replicate n 0)
  | some c =>
    let bytes := (List.range n).map fun i => a + i
    match bytes.find? fun b => c.scratchBad.contains (swizzle m b) with
    | some b => .fail s codeUCE b
    | none => .ok s (bytes.map fun b => memRead c.scratch (swizzle m b))

/-- A read by an engine: `global` or scratch under a mode. -/
structure Rd where
  global : Bool
  mode   : Nat
  addr   : Nat
  n      : Nat
  deriving DecidableEq, Repr

/-- The key under which an operation keeps what it reads at an address: those of scratch stand above the global ones. -/
def Rd.key (r : Rd) : Nat := if r.global then r.addr else 18446744073709551616 * (r.mode + 1) + r.addr

/-- A read, but for what the operation has read before. -/
def State.engineFresh (s : State) (core : Nat) (op : EngOp) (matrix : Bool) (r : Rd) : Got (List Byte) :=
  if r.global then readPieces core op matrix s (piecesOf r.addr r.n) else s.engineScratch op r.mode r.addr r.n

def State.engineRead (s : State) (core : Nat) (op : EngOp) (matrix : Bool) (r : Rd) : Got (List Byte) :=
  (s.engineFresh core op matrix r).andThen fun s1 b => .ok s1 (op.overKept r.key b)

/-- The aligned 16-byte units of some reads, as they stand, stay with an operation that a hold divides where the next read may touch
them again (R105, R259): nothing else of the state changes. -/
def State.keepUnits (s : State) (core : Nat) (op : EngOp) (l : List Rd) : State :=
  let got (r : Rd) : List (Nat × List Byte) := (unitsAt r.addr r.n).filterMap fun u =>
    let x : Rd := { r with addr := u, n := 16 }
    match s.engineRead core op true x with
    | .ok _ b => some (x.key, b)
    | _ => none
  s.keepRead core true op (l.map got).flatten

/-- Several reads. -/
def readAll (core : Nat) (op : EngOp) (matrix : Bool) : State → List Rd → Got (List (List Byte))
  | s, [] => .ok s []
  | s, r :: q =>
    (s.engineRead core op matrix r).andThen fun s1 b =>
      (readAll core op matrix s1 q).andThen fun s2 c => .ok s2 (b :: c)

/-! ## Writes -/

/-- A write by an engine. -/
structure Wr where
  global : Bool
  mode   : Nat
  addr   : Nat
  bytes  : List Byte
  deriving DecidableEq, Repr

/-- Whether one piece of a write may be performed, and where it goes. -/
def State.checkPiece (s : State) (core : Nat) (op : EngOp) (matrix : Bool) (va : Nat) : Got Route :=
  if addressEnd ≤ va then .fail s codeADDR va
  else
    match s.route core op.ctx va 1 .store op.fatal false with
    | (s1, .cause c) => .fail s1 (s1.denyCode core op matrix va c) va
    | (s1, .held p) => .held s1 va p
    | (s1, .area _) => .fail s1 codePERM va
    | (s1, .remote p a) => if matrix then .fail s1 codePERM va else .ok s1 (.remote p a)
    | (s1, .mem l pa) => .ok s1 (.mem l pa)

/-- The pieces of the global writes of a unit. -/
def globalPieces (l : List Wr) : List (Nat × List Byte) :=
  ((l.filter fun w => w.global).map fun w => cutBytes (piecesOf w.addr w.bytes.length) w.bytes).flatten

/-- Checks every piece before any is written, so that a unit that meets a fault has written nothing of itself (R274, R308). -/
def checkPieces (core : Nat) (op : EngOp) (matrix : Bool) : State → List (Nat × List Byte) → Got (List (Route × List Byte × Nat))
  | s, [] => .ok s []
  | s, (va, b) :: r =>
    (s.checkPiece core op matrix va).andThen fun s1 x =>
      (checkPieces core op matrix s1 r).andThen fun s2 c => .ok s2 ((x, b, va) :: c)

/-- Performs one global piece at the lodging bank; the issuing core's L1 drops its copy (R345). A line with an uncorrectable error
is written and reported, as by a store (R104, R308). A remote piece is sent. The stores of a matrix operation are not counted
(R292). -/
def State.enginePut (s : State) (core : Nat) (op : EngOp) (matrix : Bool) (x : Route × List Byte × Nat) : State :=
  match x with
  | (.mem l pa, b, va) =>
    let line := pa / lineBytes
    let kind := (s.regionOf op.ctx va l).1
    let s1 := s.noteSheaf l line
    let s2 :=
      match (s1.coreSt core).l1.find? fun y => y.pline == line with
      | some y => s1.evictL1 core y
      | none => s1
    let h := effectiveHint hintNorm kind
    (((if matrix || kind == regionWeir then s2.lodge line (some core) (some h) else s2.touch line (some core) h).reportBad op.ctx
      line).dropStale core line).bankWrite pa core b tagNone
  | (.remote p a, b, va) => s.request (peerMsg p 2 b.length a 0 b) (.engineWrite core op.group op.num va)
  | _ => s

/-- Writes scratch bytes under a mode. -/
def Crew.engineWrite (c : Crew) (m a : Nat) (b : List Byte) : Crew :=
  (List.range b.length).foldl (fun c i => c.scratchWrite (swizzle m (a + i)) [b.getD i 0]) c

/-- Remote pieces among checked ones. -/
def remotePieces (l : List (Route × List Byte × Nat)) : Nat :=
  (l.filter fun x =>
    match x.1 with
    | .remote _ _ => true
    | _ => false).length

/-- The weir lines among checked pieces, each once. -/
def weirPieces (s : State) (ctx : Nat) (l : List (Route × List Byte × Nat)) : List Nat :=
  weirLines s ctx (l.map fun x => (0, x.2.2, x.1))

/-- The key under which an operation keeps a byte that it is still to write. -/
def Wr.key (w : Wr) : Nat := if w.global then w.addr else 18446744073709551616 + w.addr

/-- The write of some bytes by their key, under no swizzle mode. -/
def writeAt (x : Nat × List Byte) : Wr :=
  { global := decide (x.1 < 18446744073709551616), mode := 0, addr := x.1 % 18446744073709551616, bytes := x.2 }

/-- Bytes at rising addresses as runs. -/
def byteRuns : List (Nat × Byte) → List (Nat × List Byte)
  | [] => []
  | (a, b) :: r =>
    match byteRuns r with
    | (c, l) :: q => if c = a + 1 then (a, b :: l) :: q else (a, [b]) :: (c, l) :: q
    | [] => [(a, [b])]

/-- Performs the writes of a unit, once its weir lines are at its service: the number of remote ones. -/
def engineWrites (core : Nat) (op : EngOp) (matrix : Bool) (s : State) (l : List Wr) : Got Nat :=
  (checkPieces core op matrix s (globalPieces l)).andThen fun s1 ps =>
    let weirs := weirPieces s1 op.ctx ps
    match s1.askLines core op.ctx op.party (fun s x => s.weirWrite x op.party) weirs with
    | some s2 => .later s2
    | none =>
      let s2 := ps.foldl (fun s x => s.enginePut core op matrix x) s1
      .ok ((endServicesOf s2 op.party weirs).modCrew (s2.opCrew op) fun c =>
          (l.filter fun w => !w.global).foldl (fun c w => c.engineWrite w.mode w.addr w.bytes) c)
        (remotePieces ps)

/-! ## The queues -/

/-- The queue of a kind. -/
def CoreSt.queue (c : CoreSt) (matrix : Bool) : List EngOp := if matrix then c.matQ else c.copyQ

/-- Changes the queue of a kind. -/
def State.modQueue (s : State) (core : Nat) (matrix : Bool) (f : List EngOp → List EngOp) : State :=
  s.modCore core fun c => if matrix then { c with matQ := f c.matQ } else { c with copyQ := f c.copyQ }

/-- Entries of a queue (R256, R303). -/
def queueEntries : Nat := 64

/-- The step that executes a queue's operations. -/
def engineStep (core : Nat) (matrix : Bool) : Instr := if matrix then .matrixOperationExecute core else .copyCommandExecute core

/-- Puts a changed operation back. -/
def State.putOp (s : State) (core : Nat) (matrix : Bool) (op : EngOp) : State :=
  s.modQueue core matrix fun q => q.map fun x => if x.group = op.group ∧ x.num = op.num then op else x

def Wait.isSettle : Wait → Bool
  | .batch => true
  | .final => true
  | _ => false

/-- A group that the debugger has halted, once an operation of it has left its queue: a sealed batch none of whose operations stands
there any longer has completed since, with the code of the earliest of its operations that failed meanwhile (R389). -/
def Group.noteBatch (g : Group) (matrix done : Bool) (batch : Nat) : Group :=
  match g.halt with
  | .debug false b kept l =>
    if done && decide (batch ≤ (if matrix then g.bnm else g.bnc).toNat) && !(l.any fun x => x.1 == matrix && x.2.1 == batch) then
      let failed := (g.failures.drop kept).filter fun f => f.matrix == matrix && f.batch == batch
      { g with halt := .debug false b kept (l ++ [(matrix, batch, ((earliest failed).map fun f => f.code).getD 0)]) }
    else g
  | _ => g

/-- Takes an operation out of its queue: waits for batches and for room look again. -/
def State.dropOp (s : State) (core : Nat) (matrix : Bool) (op : EngOp) : State :=
  let s1 := s.modQueue core matrix fun q => q.filter fun x => !(x.group == op.group && x.num == op.num)
  let rest := ((s1.coreSt core).queue matrix).any fun x => x.group == op.group && x.batch == op.batch
  let s2 := (s1.wakeGroups (fun i _ => i == op.group) Wait.isSettle).modGroup op.group fun g => g.noteBatch matrix (!rest) op.batch
  ((s2.wakeGroups (fun _ g => s2.coreOf g == core) fun w => decide (w = .engine)).restore op.group)

/-- Wakes sleeping operations of a queue. -/
def State.wakeOps (s : State) (core : Nat) (matrix : Bool) (p : EngOp → Bool) (f : EngOp → EngOp) : State :=
  let n := (((s.coreSt core).queue matrix).filter fun x => p x).length
  (s.modQueue core matrix fun q => q.map fun x => if p x then { f x with asleep := false } else x).dueAll
    (List.replicate n (engineStep core matrix))

/-- Counts a failed operation with its group, for the wait that covers it (R243, R382). -/
def State.opFailed (s : State) (matrix : Bool) (op : EngOp) (code va : Nat) : State :=
  let f : Failure := { matrix := matrix, num := op.num, batch := op.batch, code := code, addr := BitVec.ofNat 64 va }
  s.modGroup op.group fun g => { g with failures := g.failures ++ [f] }

/-- A new operation of the executing split. -/
def View.newOp (v : View) (matrix : Bool) (num code mode : Nat) (regs : List DWord) (za octet : Nat) : EngOp where
  group := v.gid
  ctx := v.ctx
  num := num
  batch := (if matrix then v.g.bnm.toNat else v.g.bnc.toNat) + 1
  code := code
  mode := mode
  regs := regs
  fm := v.sl.fm
  za := za
  octet := octet
  units := 0
  record := []
  begun := false
  src := 0
  dst := 0
  counted := 0
  owed := 0
  held := none
  asleep := false
  fatal := []
  cache := []
  pend := []
  out := 0
  lost := none
  bits := 0
  event := none

/-- Appends operations to the core's queue, each with its step (R256, R303); the group counts them. -/
def View.enqueue (v : View) (matrix : Bool) (ops : List EngOp) : View :=
  { v with s := (v.s.modQueue v.core matrix fun q => q ++ ops).dueAll (ops.map fun _ => engineStep v.core matrix),
           g := { v.g with opCount := v.g.opCount + ops.length } }

end Sys2Proof.Machine
end

