-- ==== Sys2Proof/Machine/Copy.lean ====
section
/-! DEFINITION. Asynchronous copies and transforms: `xcp` and the execution of its commands (R302 to R321), with the block formats
they read and write (R70 to R74). -/

namespace Sys2Proof.Machine

/-! ## Block formats -/

/-- Format of a transform's elements: 0 FP32, 1 BF16 (R305). -/
def elemFmt (f : Nat) : Fmt := if f = 0 then fp32 else bf16

/-- floor(log2 |x|) of a nonzero value. -/
def floorLog2 (m : Nat) (e : Int) : Int := e + (Nat.log2 m : Int)

/-- The largest floor(log2 |x|) of the nonzero values; none where all are zero. -/
def maxLog2 (l : List FV) : Option Int :=
  l.foldl (fun b v =>
    match v with
    | .num _ m e =>
      if m = 0 then b
      else
        match b with
        | none => some (floorLog2 m e)
        | some x => some (max x (floorLog2 m e))
    | _ => b) none

/-- A value that is a NaN or infinite. -/
def FV.special : FV → Bool
  | .num .. => false
  | _ => true

/-- One TXB4 element: sel, sign and magnitude (R72). -/
def txb4Elem (ea eb : Nat) : FV → Nat
  | .num neg m e =>
    let small := m = 0 || decide (floorLog2 m e < (ea : Int) - 128)
    let ex : Int := if small then eb else ea
    let mag := min 3 (roundAt 0 false m (e + 1 - (ex - 127)) false 0).1
    mag + (if neg then 4 else 0) + (if small then 8 else 0)
  | _ => 0

/-- Pairs of nibbles. -/
def packNibbles : List Nat → List Byte
  | a :: b :: r => BitVec.ofNat 8 (a + 16 * b) :: packNibbles r
  | [a] => [BitVec.ofNat 8 a]
  | [] => []

/-- TXB4 compression of 32 elements (R72): an 18-byte block. -/
def txb4Block (l : List FV) : List Byte :=
  if l.any FV.special then 0xFF#8 :: 0xFF#8 :: List.replicate 16 0
  else
    let ea : Nat :=
      match maxLog2 l with
      | none => 0
      | some e => (max (e + 127) 0).toNat
    let eb := ea - 2
    BitVec.ofNat 8 ea :: BitVec.ofNat 8 eb :: packNibbles (l.map (txb4Elem ea eb))

/-- The value of TXB4 element k of a block (R71). -/
def txb4Value (b : List Byte) (k : Nat) : FV :=
  let ea := fieldAt b 0 1
  let eb := fieldAt b 1 1
  if ea = 255 ∨ eb = 255 then .nan false
  else
    let x := natBits (fieldAt b (2 + k / 2) 1) (4 * (k % 2) + 3) (4 * (k % 2))
    .num (natBit x 2) (x % 4) ((if natBit x 3 then (eb : Int) else ea) - 128)

/-- The value of TXB8 element k of a block (R71). -/
def txb8Value (b : List Byte) (k : Nat) : FV :=
  let ea := fieldAt b 0 1
  let eb := fieldAt b 1 1
  if ea = 255 ∨ eb = 255 then .nan false
  else
    let x := fieldAt b (2 + k) 1
    .num (natBit x 6) (x % 64) ((if natBit x 7 then (eb : Int) else ea) - 132)

/-- The pattern of an exact value in a format. -/
def patternOf (f : Fmt) (v : FV) : Nat := (narrowF f v).1

/-- Whether an element is greater than zero (R74). -/
def FV.positive : FV → Bool
  | .num neg m _ => !neg && m != 0
  | .inf neg => !neg
  | .nan _ => false

/-! ## Fields of a command (R303, R306) -/

def EngOp.dstBase (op : EngOp) : Nat := ((op.regs[0]?).getD 0).toNat
def EngOp.srcBase (op : EngOp) : Nat := ((op.regs[1]?).getD 0).toNat
def EngOp.recAddr (op : EngOp) : Nat := ((op.regs[2]?).getD 0).toNat
/-- The byte count n. -/
def EngOp.bytes (op : EngOp) : Nat := natBits ((op.regs[3]?).getD 0).toNat 31 0
/-- Scratch address of the arrival word, 0 for none. -/
def EngOp.word (op : EngOp) : Nat := natBits ((op.regs[3]?).getD 0).toNat 63 32

/-- Whether the destination and the source are global (R302). -/
def EngOp.dstGlobal (op : EngOp) : Bool := op.mode == 1 || op.mode == 2
def EngOp.srcGlobal (op : EngOp) : Bool := op.mode == 0 || op.mode == 2

/-- Transform codes (R305). -/
def tfCopy : Nat := 0
def tfStrided : Nat := 1
def tfSwizzle : Nat := 2
def tfCbexp : Nat := 3
def tfTxb4c : Nat := 4
def tfTxb4x : Nat := 5
def tfSgnpk : Nat := 6
def tfSgnun : Nat := 7
def tfShenc : Nat := 8
def tfShdec : Nat := 9
def tfGather : Nat := 10
def tfFill : Nat := 11

/-- A transform that requires a record, and one that ignores it (R305). -/
def needsRecord (c : Nat) : Bool := c == tfStrided || c == tfSwizzle || c == tfCbexp || c == tfShdec || c == tfGather
def ignoresRecord (c : Nat) : Bool := c == tfCopy || c == tfFill

/-- Whether the command has a record that its transform reads. -/
def EngOp.given (op : EngOp) : Bool := !ignoresRecord op.code && op.recAddr != 0

/-- A field of the record; 0 without one (R305, R306). -/
def EngOp.field (op : EngOp) (off n : Nat) : Nat := if op.given then fieldAt op.record off n else 0

def EngOp.rank (op : EngOp) : Nat := op.field 0 1
def EngOp.es (op : EngOp) : Nat := op.field 1 1
def EngOp.dmode (op : EngOp) : Nat := natBits (op.field 2 1) 1 0
def EngOp.smode (op : EngOp) : Nat := natBits (op.field 2 1) 3 2
def EngOp.iw (op : EngOp) : Nat := op.field 3 1
def EngOp.cbl (op : EngOp) : Nat := if op.field 4 2 = 0 then 128 else op.field 4 2
def EngOp.fmt (op : EngOp) : Nat := op.field 6 1
def EngOp.extent (op : EngOp) (k : Nat) : Nat := op.field (0x08 + 4 * k) 4
def EngOp.srcStride (op : EngOp) (k : Nat) : Nat := op.field (0x18 + 4 * k) 4
def EngOp.dstStride (op : EngOp) (k : Nat) : Nat := op.field (0x28 + 4 * k) 4
def EngOp.tab (op : EngOp) : Nat := op.field 0x38 8
/-- Element size of the element side. -/
def EngOp.size (op : EngOp) : Nat := elemSize op.fmt

/-- Product of the extents below the rank. -/
def EngOp.elements (op : EngOp) : Nat := ((List.range op.rank).map op.extent).foldl (· * ·) 1

/-- Element count of a sign bitmap (R316). -/
def EngOp.signs (op : EngOp) : Nat :=
  if op.given then op.extent 0 else if op.code = tfSgnpk then 8 * op.bytes else op.bytes / op.size

/-- Bytes that the command counts: n, or the declared bytes of `shdec`, once its record has been read (R305, R319). -/
def EngOp.total (op : EngOp) : Nat := if op.code = tfShdec ∧ op.record.isEmpty = false then op.extent 0 else op.bytes

/-- Row stride of a `gather`'s destination (R320). -/
def EngOp.rowStride (op : EngOp) : Nat := if op.dstStride 0 = 0 then op.extent 0 else op.dstStride 0

/-- Index j of a `gather` (R320): the array stands behind the record. -/
def EngOp.index (op : EngOp) (j : Nat) : Nat := fieldAt op.record (64 + 4 * j) 4

/-! ## The checks of R307 -/

/-- Record fields outside R306, or n inconsistent with R305. -/
def EngOp.badRecord (op : EngOp) : Bool :=
  let n := op.bytes
  (op.given && (decide (natBits (op.field 2 1) 7 4 ≠ 0) || decide (op.field 7 1 ≠ 0))) ||
  (if op.code = tfStrided then
    decide (op.rank = 0) || decide (4 < op.rank) || !([1, 2, 4, 8, 16].contains op.es) ||
      ((List.range op.rank).any fun k => op.extent k == 0) || decide (n ≠ op.es * op.elements)
  else if op.code = tfCbexp then
    !([3, 4].contains op.iw) || decide (op.cbl % 32 ≠ 0) || decide (1024 < op.cbl) || decide (n % 2 ≠ 0)
  else if op.code = tfTxb4c then decide (1 < op.fmt) || decide (n % 18 ≠ 0)
  else if op.code = tfTxb4x then decide (1 < op.fmt) || decide (n % (32 * op.size) ≠ 0)
  else if op.code = tfSgnpk then decide (1 < op.fmt) || decide (n ≠ (op.signs + 7) / 8)
  else if op.code = tfSgnun then decide (1 < op.fmt) || decide (n ≠ op.signs * op.size)
  else if op.code = tfShenc then decide (2 < op.fmt) || decide (n % 256 ≠ 0)
  else if op.code = tfGather then decide (n ≠ op.extent 0 * op.extent 1)
  else false)

/-- Whether a range of `n` bytes leaves its space. -/
def State.outside (s : State) (op : EngOp) (global : Bool) (a n : Nat) : Bool :=
  n != 0 && (if global then decide (addressEnd < a + n)
             else decide (wbScratch (s.wbOf (((s.crew? (s.opCrew op)).map (·.launch)).getD 0)) < a + n))

/-- Bytes from the first to the last of a strided side. -/
def EngOp.span (op : EngOp) (stride : Nat → Nat) : Nat :=
  ((List.range op.rank).map fun k => (op.extent k - 1) * stride k).sum + op.es

/-- Bytes of the source and the destination that a command names, from their bases on; `shenc` writes at least 4 bytes for each
block (R317, R318). -/
def EngOp.spans (op : EngOp) : Nat × Nat :=
  let n := op.bytes
  if op.code = tfStrided then (op.span op.srcStride, op.span op.dstStride)
  else if op.code = tfCbexp then ((op.iw * (n / 2) + 7) / 8, n)
  else if op.code = tfTxb4c then (32 * (n / 18) * op.size, n)
  else if op.code = tfTxb4x then (18 * (n / (32 * op.size)), n)
  else if op.code = tfSgnpk then (op.signs * op.size, n)
  else if op.code = tfSgnun then ((op.signs + 7) / 8, n)
  else if op.code = tfShenc then (n, 4 * (n / 256))
  else if op.code = tfShdec then (n, op.extent 0)
  else if op.code = tfGather then (0, if n = 0 then 0 else (op.extent 1 - 1) * op.rowStride + op.extent 0)
  else if op.code = tfFill then (0, n)
  else (n, n)

/-- Bytes read or written at `tab` (R314, R318, R320). -/
def EngOp.tabSpan (op : EngOp) : Nat :=
  if op.code = tfCbexp then ((op.bytes / 2 + op.cbl - 1) / op.cbl) * 2 ^ op.iw * 2
  else if op.code = tfGather then 4 * op.extent 1
  else if op.code = tfShenc ∧ op.tab ≠ 0 then 8
  else 0

/-- RANGE, with the first base that fails (R307). -/
def State.badRange (s : State) (op : EngOp) : Option Nat :=
  if s.outside op op.dstGlobal op.dstBase op.spans.2 then some op.dstBase
  else if s.outside op op.srcGlobal op.srcBase op.spans.1 then some op.srcBase
  else if s.outside op true op.tab op.tabSpan then some op.tab
  else none

/-- Whether every element address of a strided side is a multiple of the element size. -/
def EngOp.strideAligned (op : EngOp) (base : Nat) (stride : Nat → Nat) : Bool :=
  base % op.es == 0 && (List.range op.rank).all fun k => op.extent k == 1 || stride k % op.es == 0

/-- ALIGN (R312 to R320). -/
def EngOp.badAlign (op : EngOp) : Option Nat :=
  if op.code = tfStrided then
    if !op.strideAligned op.dstBase op.dstStride then some op.dstBase
    else if !op.strideAligned op.srcBase op.srcStride then some op.srcBase
    else none
  else if op.code = tfCbexp then
    if op.dstBase % 2 ≠ 0 then some op.dstBase else if op.tab % 2 ≠ 0 then some op.tab else none
  else if op.code = tfTxb4c then (if op.srcBase % op.size ≠ 0 then some op.srcBase else none)
  else if op.code = tfTxb4x then (if op.dstBase % op.size ≠ 0 then some op.dstBase else none)
  else if op.code = tfShenc then (if op.tab % 8 ≠ 0 then some op.tab else none)
  else if op.code = tfGather then (if op.tab % 4 ≠ 0 then some op.tab else none)
  else none

/-- A row of a `gather` that leaves its space (R320). -/
def State.badRow (s : State) (op : EngOp) : Option Nat :=
  if op.code = tfGather then
    ((List.range (op.extent 1)).map fun j => op.srcBase + op.index j * op.srcStride 0).find? fun a =>
      s.outside op op.srcGlobal a (op.extent 0)
  else none

/-- A failure, where there is one. -/
def Got.check {α : Type} (s : State) (bad : Option Nat) (code : Nat) (k : Got α) : Got α :=
  match bad with
  | some a => .fail s code a
  | none => k

/-- A source read, and a destination write, at logical addresses. -/
def EngOp.rd (op : EngOp) (a n : Nat) : Rd := { global := op.srcGlobal, mode := op.smode, addr := a, n := n }
def EngOp.wr (op : EngOp) (a : Nat) (b : List Byte) : Wr := { global := op.dstGlobal, mode := op.dmode, addr := a, bytes := b }

/-- The blocks of `shenc`, back to back (R318). -/
def encodedBlocks (core : Nat) (s : State) (op : EngOp) : Got (List Byte) :=
  (readAll core op false s ((List.range (op.bytes / 256)).map fun i => op.rd (op.srcBase + 256 * i) 256)).andThen fun s1 got =>
    .ok s1 (got.map (sheafEncode op.fmt)).flatten

/-- Whether the blocks of a `shenc` whose source can be read now leave its destination's space: RANGE comes before ALIGN (R307; log
19). -/
def encodedOutside (core : Nat) (s : State) (op : EngOp) : Bool :=
  op.code == tfShenc &&
    match encodedBlocks core s op with
    | .ok s1 out => s1.outside op op.dstGlobal op.dstBase out.length
    | _ => false

/-- The start of a command: its record and its checks, in the order of R307. The record stays with the operation, for what a command
that fails counts. -/
def beginCopy (core : Nat) (s : State) (op : EngOp) : Got EngOp :=
  if op.code = tfSwizzle ∧ op.mode = 2 then .fail s codeDIR 0
  else if needsRecord op.code ∧ op.recAddr = 0 then .fail s codeRECORD 0
  else if op.given ∧ op.recAddr % 64 ≠ 0 then .fail s codeRECORD op.recAddr
  else
    (if op.given then readPieces core op false s (piecesOf op.recAddr 64) else .ok s []).andThen fun s0 r =>
      let op1 := { op with record := r }
      let s1 := s0.putOp core false { s0.opNow core false op with record := r }
      if op1.badRecord then .fail s1 codeRECORD op.recAddr
      else
        Got.check s1 (s1.badRange op1) codeRANGE <|
        Got.check s1 (if op1.badAlign.isSome && encodedOutside core s1 op1 then some op1.dstBase else none) codeRANGE <|
        Got.check s1 op1.badAlign codeALIGN <|
        (if op.code = tfGather then readPieces core op false s1 (piecesOf op1.tab (4 * op1.extent 1)) else .ok s1 []).andThen
          fun s2 x =>
            let op2 := { op1 with record := r ++ x }
            Got.check s2 (s2.badRow op2) codeRANGE (.ok s2 { op2 with begun := true, cache := [] })

/-! ## Units -/

/-- Counted bytes of a unit (R307). -/
def EngOp.unitBytes (op : EngOp) : Nat :=
  if op.code = tfCbexp then 2 * op.cbl else if op.code = tfShenc ∨ op.code = tfShdec then 256 else 128

/-- Source and destination address of element e of a strided transfer, i0 varying fastest (R312). -/
def EngOp.elemAddr (op : EngOp) (base : Nat) (stride : Nat → Nat) (e : Nat) : Nat :=
  ((List.range op.rank).foldl (fun (x : Nat × Nat) k => (x.1 + x.2 % op.extent k * stride k, x.2 / op.extent k)) (base, e)).1

/-- Destination bytes lo to hi - 1 of a `gather`, cut into runs of one row: row, first byte, length. -/
def rowRuns (row : Nat) : Nat → Nat → Nat → List (Nat × Nat × Nat)
  | 0, _, _ => []
  | f + 1, lo, hi =>
    if hi ≤ lo then []
    else
      let k := min (hi - lo) (row - lo % row)
      (lo / row, lo % row, k) :: rowRuns row f (lo + k) hi

/-- The reads of the unit of counted bytes lo to hi - 1. -/
def EngOp.unitReads (op : EngOp) (lo hi : Nat) : List Rd :=
  if op.code = tfStrided then
    (List.range ((hi - lo) / op.es)).map fun i => op.rd (op.elemAddr op.srcBase op.srcStride (lo / op.es + i)) op.es
  else if op.code = tfCbexp then
    let k0 := lo / 2
    let first := op.iw * k0 / 8
    let last := (op.iw * (hi / 2) + 7) / 8
    [op.rd (op.srcBase + first) (last - first),
     { global := true, mode := 0, addr := op.tab + k0 / op.cbl * 2 ^ op.iw * 2, n := 2 ^ op.iw * 2 }]
  else if op.code = tfTxb4c then
    let b0 := lo / 18
    [op.rd (op.srcBase + 32 * op.size * b0) (32 * op.size * ((hi + 17) / 18 - b0))]
  else if op.code = tfTxb4x then
    let w := 32 * op.size
    [op.rd (op.srcBase + 18 * (lo / w)) (18 * ((hi + w - 1) / w - lo / w))]
  else if op.code = tfSgnpk then
    [op.rd (op.srcBase + 8 * lo * op.size) ((min (8 * hi) op.signs - 8 * lo) * op.size)]
  else if op.code = tfSgnun then
    let e0 := lo / op.size
    [op.rd (op.srcBase + e0 / 8) ((hi / op.size + 7) / 8 - e0 / 8)]
  else if op.code = tfGather then
    (rowRuns (op.extent 0) (hi - lo) lo hi).map fun r => op.rd (op.srcBase + op.index r.1 * op.srcStride 0 + r.2.1) r.2.2
  else if op.code = tfFill then []
  else [op.rd (op.srcBase + lo) (hi - lo)]

/-- The writes of that unit, from what its reads gave. -/
def EngOp.unitWrites (op : EngOp) (lo hi : Nat) (got : List (List Byte)) : List Wr :=
  let b := got.headD []
  if op.code = tfStrided then
    (List.range ((hi - lo) / op.es)).map fun i =>
      op.wr (op.elemAddr op.dstBase op.dstStride (lo / op.es + i)) (got.getD i [])
  else if op.code = tfCbexp then
    let t := got.getD 1 []
    let bit0 := op.iw * (lo / 2) % 8
    [op.wr (op.dstBase + lo)
      (((List.range ((hi - lo) / 2)).map fun i => bytesAt t (2 * streamBits b (bit0 + op.iw * i) op.iw) 2).flatten)]
  else if op.code = tfTxb4c then
    let vs := (elemsOf op.fmt b).map (unpack (elemFmt op.fmt))
    let blocks := (List.range (vs.length / 32)).map fun i => txb4Block ((vs.drop (32 * i)).take 32)
    [op.wr (op.dstBase + lo) (bytesAt blocks.flatten (lo % 18) (hi - lo))]
  else if op.code = tfTxb4x then
    let out := ((List.range (b.length / 18)).map fun i =>
      ((List.range 32).map fun k => leBytes (patternOf (elemFmt op.fmt) (txb4Value (b.drop (18 * i)) k)) op.size).flatten).flatten
    [op.wr (op.dstBase + lo) (bytesAt out (lo % (32 * op.size)) (hi - lo))]
  else if op.code = tfSgnpk then
    [op.wr (op.dstBase + lo) (bitsToBytes ((elemsOf op.fmt b).map fun x => (unpack (elemFmt op.fmt) x).positive))]
  else if op.code = tfSgnun then
    let e0 := lo / op.size
    [op.wr (op.dstBase + lo) (((List.range ((hi - lo) / op.size)).map fun i =>
      leBytes (if streamBit b (e0 % 8 + i) then (if op.fmt = 0 then 0x3F800000 else 0x3F80) else 0) op.size).flatten)]
  else if op.code = tfGather then
    ((rowRuns (op.extent 0) (hi - lo) lo hi).zip got).map fun x => op.wr (op.dstBase + x.1.1 * op.rowStride + x.1.2.1) x.2
  else if op.code = tfFill then
    [op.wr (op.dstBase + lo) ((List.range (hi - lo)).map fun i =>
      BitVec.ofNat 8 (op.srcBase / 256 ^ ((lo + i) % 8)))]
  else [op.wr (op.dstBase + lo) b]

/-- The writes of several units, from what the reads of all of them gave. -/
def EngOp.unitsWrites (op : EngOp) : List (Nat × Nat) → List (List Byte) → List Wr
  | [], _ => []
  | c :: r, got =>
    let n := (op.unitReads c.1 c.2).length
    op.unitWrites c.1 c.2 (got.take n) ++ op.unitsWrites r (got.drop n)

/-- Counted bytes after which every transform stands on 16-byte boundaries again, where its bases stand on them: units of 128 bytes,
but a TXB4 block has 18 bytes, and a unit of `sgnun` or `txb4x` may end inside an aligned source unit. -/
def EngOp.grain (op : EngOp) : Nat :=
  if op.code = tfTxb4c then 1152
  else if op.code = tfTxb4x then 256 * op.size
  else if op.code = tfSgnun then 128 * op.size
  else if op.code = tfCbexp then 4 * op.unitBytes
  else op.unitBytes

/-- Whether steps of the grain divide no aligned 16-byte unit of what the command reads or writes (R105, R309). -/
def EngOp.aligned (op : EngOp) : Bool :=
  op.dstBase % 16 == 0 && (op.srcBase % 16 == 0 || op.code == tfFill) && (op.tab % 16 == 0 || op.code != tfCbexp) &&
    (op.code != tfStrided || op.es == 16) &&
    (op.code != tfGather || (op.extent 0 % 16 == 0 && op.rowStride % 16 == 0 && op.srcStride 0 % 16 == 0))

/-- The end of the counted bytes of a step that begins at `lo`: units that share an aligned 16-byte unit run at once, as R307 allows
(log 19). -/
def EngOp.stepEnd (op : EngOp) (lo : Nat) : Nat := if op.aligned then min op.total (lo + op.grain) else op.total

/-- What a step brings: the operation with its positions moved on, the bytes to count, and the number of remote writes. -/
abbrev UnitOut := EngOp × Nat × Nat

/-- Units of a transform whose counted bytes have fixed places. -/
def plainUnits (core : Nat) (s : State) (op : EngOp) : Got UnitOut :=
  let lo := op.counted
  let hi := op.stepEnd lo
  let cuts := (List.range ((hi - lo + op.unitBytes - 1) / op.unitBytes)).map fun i =>
    (lo + op.unitBytes * i, min hi (lo + op.unitBytes * (i + 1)))
  (readAll core op false s (cuts.map fun c => op.unitReads c.1 c.2).flatten).andThen fun s1 got =>
    (engineWrites core op false s1 (op.unitsWrites cuts got)).andThen fun s2 remote =>
      .ok s2 ({ op with units := op.units + cuts.length }, hi - lo, remote)

/-- The units of `shenc` (R318), which run at once: the place of a block depends on the lengths of those before it, and R307 checks
every destination byte before any unit. After the last block, in a step of its own, the total goes to `tab`. -/
def encodeUnits (core : Nat) (s : State) (op : EngOp) : Got UnitOut :=
  if op.counted < op.bytes then
    (encodedBlocks core s op).andThen fun s1 out =>
      Got.check s1 (if s1.outside op op.dstGlobal op.dstBase out.length then some op.dstBase else none) codeRANGE <|
      (engineWrites core op false s1 [op.wr op.dstBase out]).andThen fun s2 remote =>
        .ok s2 ({ op with units := op.units + op.bytes / 256, dst := out.length }, op.bytes, remote)
  else
    (engineWrites core op false s [{ global := true, mode := 0, addr := op.tab, bytes := leBytes op.dst 8 }]).andThen fun s1 remote =>
      .ok s1 ({ op with src := 8 }, 0, remote)

/-- One block of `shdec` at the command's source position (R319): its encoded length and its plain bytes. -/
def decodeBlock (core : Nat) (s : State) (op : EngOp) : Got (Nat × List Byte) :=
  let left := op.bytes - op.src
  let at_ := op.srcBase + op.src
  if left < 4 then .fail s codeSHEAF at_
  else
    (s.engineRead core op false (op.rd at_ 4)).andThen fun s1 h =>
      let len := fieldAt h 2 2
      if left < len ∨ len < 4 ∨ 262 < len then .fail s1 codeSHEAF at_
      else
        (s1.engineRead core op false (op.rd at_ len)).andThen fun s2 b =>
          match sheafDecode b with
          | none => .fail s2 codeSHEAF at_
          | some plain => .ok s2 (len, plain)

/-- The blocks of one step of `shdec`, up to where no aligned 16-byte unit is divided; a block that fails ends the step before it.
The operation comes back with its positions moved on, with the plain bytes of the step. -/
def decodeBlocks (core : Nat) : Nat → State → EngOp → List Byte → Got (EngOp × List Byte)
  | 0, s, op, out => .ok s (op, out)
  | f + 1, s, op, out =>
    match decodeBlock core s op with
    | .fail s1 c va => if out.isEmpty then .fail s1 c va else .ok s1 (op, out)
    | .ok s1 (len, plain) =>
      let op1 := { op with units := op.units + 1, src := op.src + len, dst := op.dst + 256 }
      if op.bytes ≤ op1.src ∨ ((op.srcBase + op1.src) % 16 = 0 ∧ op.dstBase % 16 = 0) then .ok s1 (op1, out ++ plain)
      else decodeBlocks core f s1 op1 (out ++ plain)
    | .held s1 va p => .held s1 va p
    | .later s1 => .later s1
    | .asleep s1 => .asleep s1

/-- Units of `shdec` (R319), with the zeros that the last block may leave to be filled; bytes beyond those declared are discarded.
-/
def decodeUnits (core : Nat) (s : State) (op : EngOp) : Got UnitOut :=
  (decodeBlocks core (op.bytes / 4 + 1) s op []).andThen fun s1 x =>
    let (op1, plain) := x
    let d := op.total
    let keep := plain.take (d - op.dst)
    let fill := if op.bytes ≤ op1.src then d - (op.dst + keep.length) else 0
    (engineWrites core op false s1 [op.wr (op.dstBase + op.dst) (keep ++ List.replicate fill 0)]).andThen fun s2 remote =>
      .ok s2 (op1, keep.length + fill, remote)

def copyUnits (core : Nat) (s : State) (op : EngOp) : Got UnitOut :=
  if op.code = tfShenc then encodeUnits core s op
  else if op.code = tfShdec then decodeUnits core s op
  else plainUnits core s op

/-! ## Arrival words (R310, R311) -/

/-- Adds counted bytes to an arrival word: arrived and generation move on as target says (R310). -/
def arriveBytes (w : List Byte) (c : Nat) : List Byte :=
  let target := fieldAt w 0 4
  let arrived := (fieldAt w 4 4 + c) % 4294967296
  let gen := fieldAt w 8 4
  if target = 0 then leBytes target 4 ++ leBytes arrived 4 ++ leBytes gen 4 ++ bytesAt w 12 4
  else leBytes target 4 ++ leBytes (arrived % target) 4 ++ leBytes (gen + arrived / target) 4 ++ bytesAt w 12 4

/-- The status of a failed command: ERR always; the code where none stands; a length mismatch only with LENGTH (R311). -/
def failStatus (st code : Nat) (short long : Bool) (mismatch : Nat) : Nat :=
  let old := natBits st 7 4
  let base := 1 + 16 * (if old = 0 then code else old)
  let mis : Nat :=
    if code = codeLENGTH then (if short then 256 else 0) + (if long then 512 else 0) + 65536 * min mismatch 65535
    else st / 256 % 4 * 256 + st / 65536 * 65536
  base + mis

/-- Changes an operation's arrival word. -/
def State.modWord (s : State) (op : EngOp) (f : List Byte → List Byte) : State :=
  if op.word = 0 then s
  else s.modCrew (s.opCrew op) fun c => c.scratchWrite op.word (f (memReadBytes c.scratch op.word 16))

/-- Counts the bytes of the units of a step, one update for each unit (R310). -/
def State.countBytes (s : State) (op : EngOp) (n : Nat) : State :=
  s.modWord op fun w =>
    let w1 := (List.range (n / op.unitBytes)).foldl (fun w _ => arriveBytes w op.unitBytes) w
    if n % op.unitBytes = 0 then w1 else arriveBytes w1 (n % op.unitBytes)

/-- A command fails: the uncounted bytes are counted, the status records the code, and the command completes with error
(R307). -/
def State.failCopy (s : State) (core : Nat) (op : EngOp) (code va : Nat) (short long : Bool) (mismatch : Nat) : State :=
  let status (w : List Byte) : List Byte := bytesAt w 0 12 ++ leBytes (failStatus (fieldAt w 12 4) code short long mismatch) 4
  let rest := op.total - op.counted
  ((s.modWord op fun w => status (if rest = 0 then w else arriveBytes w rest)).opFailed false op code va).dropOp core false op

/-! ## Execution (R307, R308) -/

/-- Whether every unit has run, and the store to `tab` that follows those of `shenc` (R318). -/
def EngOp.over (op : EngOp) : Bool :=
  if op.code = tfShdec then decide (op.bytes ≤ op.src)
  else decide (op.total ≤ op.counted) && (op.code != tfShenc || op.tab == 0 || op.src != 0)

/-- What a command comes to after a unit. -/
def State.afterUnit (s : State) (core : Nat) (op : EngOp) : State :=
  if op.over then
    if op.code = tfShdec ∧ op.dst ≠ op.total then
      s.failCopy core op codeLENGTH 0 (decide (op.dst < op.total)) (decide (op.total < op.dst))
        (if op.dst < op.total then op.total - op.dst else op.dst - op.total)
    else s.dropOp core false op
  else (s.putOp core false op).due (.copyCommandExecute core)

/-- Puts the outcome of an attempt of a command back. -/
def State.afterCopy (core : Nat) (op : EngOp) : Got UnitOut → State
  | .ok s (op1, n, remote) =>
    let op2 := { op1 with cache := [] }
    if remote = 0 then (s.countBytes op2 n).afterUnit core { op2 with counted := op2.counted + n }
    else s.putOp core false { op2 with owed := n, out := remote, asleep := true }
  | .held s va p =>
    (s.putOp core false { s.opNow core false op with held := some (BitVec.ofNat 64 va), asleep := true }).requestPage op.ctx va p
  | .fail s code va => s.failCopy core (s.opNow core false op) code va false false 0
  | .later s => s.due (.copyCommandExecute core)
  | .asleep s => s.putOp core false { s.opNow core false op with asleep := true }

/-- One turn of a command: its remote writes are counted, or it begins, or runs a unit. -/
def State.runCopy (s : State) (core : Nat) (op : EngOp) : State :=
  match op.lost with
  | some (bad, va) => s.failCopy core op (if bad then codeUCE else codeDZW) va.toNat false false 0
  | none =>
    if op.bytes = 0 then s.dropOp core false op
    else if op.owed ≠ 0 then
      (s.countBytes op op.owed).afterUnit core { op with counted := op.counted + op.owed, owed := 0 }
    else if op.begun && op.over then s.afterUnit core op
    else if op.begun then State.afterCopy core op (copyUnits core s op)
    else
      match beginCopy core s op with
      | .ok s1 op1 => (s1.putOp core false op1).due (.copyCommandExecute core)
      | .held s1 va p => State.afterCopy core op (.held s1 va p)
      | .fail s1 c va => State.afterCopy core op (.fail s1 c va)
      | .later s1 => State.afterCopy core op (.later s1)
      | .asleep s1 => State.afterCopy core op (.asleep s1)

/-- A copy engine executes a queued command unit by unit (R307): the first command of the queue that does not wait. -/
def execCopyCommandExecute (core : Nat) (s : State) : Host.Outcome State Fault Refusal :=
  match (s.coreSt core).copyQ.find? fun op => !op.asleep with
  | none => .next s
  | some op => .next (s.runCopy core op)

/-! ## `xcp` (R302 to R304) -/

/-- The body of `xcp`. -/
def copyBody (tf dr a : Nat) (v : View) : Res :=
  let word := natBits (v.g.sval (a + 3)).toNat 63 32
  if word ≠ 0 ∧ word % 16 ≠ 0 then .stop v.s (.trap causeALIGN noLane v.sl.mask (BitVec.ofNat 64 word) 0)
  else if word ≠ 0 ∧ wbScratch v.wb < word + 16 then .stop v.s (.trap causeADDR noLane v.sl.mask (BitVec.ofNat 64 word) 0)
  else if queueEntries ≤ (v.s.coreSt v.core).copyQ.length then .stop v.s (.wait .engine)
  else .done (v.enqueue false [v.newOp false v.g.opCount tf dr ((List.range 4).map fun i => v.g.sval (a + i)) 0 0])

/-- The four scalars of a command. -/
def quadOf (a : Nat) : List Nat := [a, a + 1, a + 2, a + 3]

/-- Queues a plain copy (R305). -/
def execXcpCopy (g : BitVec 3) (a _b : BitVec 6) (_e : BitVec 4) (r : BitVec 2) (s : State) : Host.Outcome State Fault Refusal :=
  runSplit 4 (cBody g.toNat (quadOf a.toNat) (quadOf a.toNat) (copyBody tfCopy r.toNat a.toNat)) s

/-- Queues a strided copy (R312). -/
def execXcpStrided (g : BitVec 3) (a _b : BitVec 6) (_e : BitVec 4) (r : BitVec 2) (s : State) : Host.Outcome State Fault Refusal :=
  runSplit 4 (cBody g.toNat (quadOf a.toNat) (quadOf a.toNat) (copyBody tfStrided r.toNat a.toNat)) s

/-- Queues a copy under swizzle modes (R313). -/
def execXcpSwizzle (g : BitVec 3) (a _b : BitVec 6) (_e : BitVec 4) (r : BitVec 2) (s : State) : Host.Outcome State Fault Refusal :=
  runSplit 4 (cBody g.toNat (quadOf a.toNat) (quadOf a.toNat) (copyBody tfSwizzle r.toNat a.toNat)) s

/-- Queues a codebook expansion (R314). -/
def execXcpCbexp (g : BitVec 3) (a _b : BitVec 6) (_e : BitVec 4) (r : BitVec 2) (s : State) : Host.Outcome State Fault Refusal :=
  runSplit 4 (cBody g.toNat (quadOf a.toNat) (quadOf a.toNat) (copyBody tfCbexp r.toNat a.toNat)) s

/-- Queues a TXB4 compression (R315). -/
def execXcpTxb4c (g : BitVec 3) (a _b : BitVec 6) (_e : BitVec 4) (r : BitVec 2) (s : State) : Host.Outcome State Fault Refusal :=
  runSplit 4 (cBody g.toNat (quadOf a.toNat) (quadOf a.toNat) (copyBody tfTxb4c r.toNat a.toNat)) s

/-- Queues a TXB4 expansion (R315). -/
def execXcpTxb4x (g : BitVec 3) (a _b : BitVec 6) (_e : BitVec 4) (r : BitVec 2) (s : State) : Host.Outcome State Fault Refusal :=
  runSplit 4 (cBody g.toNat (quadOf a.toNat) (quadOf a.toNat) (copyBody tfTxb4x r.toNat a.toNat)) s

/-- Queues a sign-bitmap pack (R316). -/
def execXcpSgnpk (g : BitVec 3) (a _b : BitVec 6) (_e : BitVec 4) (r : BitVec 2) (s : State) : Host.Outcome State Fault Refusal :=
  runSplit 4 (cBody g.toNat (quadOf a.toNat) (quadOf a.toNat) (copyBody tfSgnpk r.toNat a.toNat)) s

/-- Queues a sign-bitmap unpack (R316). -/
def execXcpSgnun (g : BitVec 3) (a _b : BitVec 6) (_e : BitVec 4) (r : BitVec 2) (s : State) : Host.Outcome State Fault Refusal :=
  runSplit 4 (cBody g.toNat (quadOf a.toNat) (quadOf a.toNat) (copyBody tfSgnun r.toNat a.toNat)) s

/-- Queues a sheaf encoding (R318). -/
def execXcpShenc (g : BitVec 3) (a _b : BitVec 6) (_e : BitVec 4) (r : BitVec 2) (s : State) : Host.Outcome State Fault Refusal :=
  runSplit 4 (cBody g.toNat (quadOf a.toNat) (quadOf a.toNat) (copyBody tfShenc r.toNat a.toNat)) s

/-- Queues a sheaf decoding (R319). -/
def execXcpShdec (g : BitVec 3) (a _b : BitVec 6) (_e : BitVec 4) (r : BitVec 2) (s : State) : Host.Outcome State Fault Refusal :=
  runSplit 4 (cBody g.toNat (quadOf a.toNat) (quadOf a.toNat) (copyBody tfShdec r.toNat a.toNat)) s

/-- Queues a gather of rows (R320). -/
def execXcpGather (g : BitVec 3) (a _b : BitVec 6) (_e : BitVec 4) (r : BitVec 2) (s : State) : Host.Outcome State Fault Refusal :=
  runSplit 4 (cBody g.toNat (quadOf a.toNat) (quadOf a.toNat) (copyBody tfGather r.toNat a.toNat)) s

/-- Queues a fill with an 8-byte pattern (R320). -/
def execXcpFill (g : BitVec 3) (a _b : BitVec 6) (_e : BitVec 4) (r : BitVec 2) (s : State) : Host.Outcome State Fault Refusal :=
  runSplit 4 (cBody g.toNat (quadOf a.toNat) (quadOf a.toNat) (copyBody tfFill r.toNat a.toNat)) s

end Sys2Proof.Machine
end

