-- ==== Sys2Proof/WellFormed.lean ====
section
/-! DEFINITION. Which field values make an instruction: the register rules of R24 and the combinations that R31 to R43 mark
ILLEGAL (R46). Fields that must be zero are not fields of an instruction, so the decoder alone checks them. -/

namespace Sys2Proof

/-- The register of a 64-bit operand (R24). -/
def isEven (r : BitVec 6) : Bool := decide (r.toNat % 2 = 0)

/-- The register of a 128-bit operand, or of the command block of `xcp` (R24, R41). -/
def isMul4 (r : BitVec 6) : Bool := decide (r.toNat % 4 = 0)

/-- Scope codes 0 to 4 (R36, R38, R39). -/
def scopeOk (s : BitVec 3) : Bool := decide (s.toNat ≤ 4)

/-- ctype 7 is not assigned, and the two predicates differ unless both are 7 (R35). -/
def comparePairOk (p q t : BitVec 3) : Bool := decide (t ≠ 7) && (decide (p ≠ q) || decide (p = 7))

/-- The 64-bit value of an atomic is a pair (R38). -/
def widePairOk (w : BitVec 1) (d : BitVec 6) : Bool := decide (w = 0) || isEven d

/-- The compare and new values of `cas` lie in d and above it (R38). -/
def casPairOk (w : BitVec 1) (d : BitVec 6) : Bool :=
  if w = 0 then decide (d ≠ 63) else isEven d && decide (d.toNat ≤ 60)

/-- Whether the fields make an instruction (R46). The steps of the other agents have no encoding to check. -/
def wellFormed : Instr → Bool
  | .shortMov _ _ => true
  | .shortAddI32 _ _ => true
  | .shortSubI32 _ _ => true
  | .shortAnd _ _ => true
  | .shortOr _ _ => true
  | .shortXor _ _ => true
  | .shortShl _ _ => true
  | .shortShrN32 _ _ => true
  | .shortShrS32 _ _ => true
  | .movi _ _ => true
  | .shortAddi _ _ => true
  | .shortShli _ _ => true
  | .shortFaddF32 _ _ => true
  | .shortFmulF32 _ _ => true
  | .shortFmaxF32 _ _ => true
  | .shortFminF32 _ _ => true
  | .addI32 _ _ _ _ _ _ => true
  | .subI32 _ _ _ _ _ _ => true
  | .mulI32 _ _ _ _ _ _ => true
  | .mulhS32 _ _ _ _ _ _ => true
  | .mulhN32 _ _ _ _ _ _ => true
  | .minS32 _ _ _ _ _ _ => true
  | .maxS32 _ _ _ _ _ _ => true
  | .madI32 _ _ _ _ _ _ => true
  | .and _ _ _ _ _ _ => true
  | .or _ _ _ _ _ _ => true
  | .xor _ _ _ _ _ _ => true
  | .shl _ _ _ _ _ _ => true
  | .shrN32 _ _ _ _ _ _ => true
  | .shrS32 _ _ _ _ _ _ => true
  | .minN32 _ _ _ _ _ _ => true
  | .maxN32 _ _ _ _ _ _ => true
  | .addI32Ic _ _ _ _ _ => true
  | .subI32Ic _ _ _ _ _ => true
  | .mulI32Ic _ _ _ _ _ => true
  | .andIc _ _ _ _ _ => true
  | .orIc _ _ _ _ _ => true
  | .shlIc _ _ _ _ _ => true
  | .madI32Ic _ _ _ _ _ => true
  | .addw _ d _ _ _ => isEven d
  | .faddF32 _ _ _ _ _ _ => true
  | .fsubF32 _ _ _ _ _ _ => true
  | .fmulF32 _ _ _ _ _ _ => true
  | .ffmaF32 _ _ _ _ _ _ => true
  | .ffmsF32 _ _ _ _ _ _ => true
  | .fminF32 _ _ _ _ _ _ => true
  | .fmaxF32 _ _ _ _ _ _ => true
  | .packBf16x2 _ _ _ _ _ _ => true
  | .faddF32Fb _ _ _ _ _ => true
  | .fsubF32Fb _ _ _ _ _ => true
  | .fmulF32Fb _ _ _ _ _ => true
  | .ffmaF32Fb _ _ _ _ _ => true
  | .ffmsF32Fb _ _ _ _ _ => true
  | .fminF32Fb _ _ _ _ _ => true
  | .fmaxF32Fb _ _ _ _ _ => true
  | .fscaleF32 _ _ _ _ _ => true
  | .mov _ _ _ _ => true
  | .not _ _ _ _ => true
  | .negI32 _ _ _ _ => true
  | .absI32 _ _ _ _ => true
  | .popc _ _ _ _ => true
  | .clz _ _ _ _ => true
  | .brev _ _ _ _ => true
  | .sext8 _ _ _ _ => true
  | .sext16 _ _ _ _ => true
  | .fabs _ _ _ _ => true
  | .fneg _ _ _ _ => true
  | .frcp _ _ _ _ => true
  | .frsq _ _ _ _ => true
  | .fsqrt _ _ _ _ => true
  | .fexp2 _ _ _ _ => true
  | .flog2 _ _ _ _ => true
  | .fsin _ _ _ _ => true
  | .fcos _ _ _ _ => true
  | .ftanh _ _ _ _ => true
  | .ffloor _ _ _ _ => true
  | .fceil _ _ _ _ => true
  | .ftrunc _ _ _ _ => true
  | .frint _ _ _ _ => true
  | .ffract _ _ _ _ => true
  | .cvtF32S32 _ _ _ _ => true
  | .cvtF32N32 _ _ _ _ => true
  | .cvtS32F32Rz _ _ _ _ => true
  | .cvtS32F32Rn _ _ _ _ => true
  | .cvtN32F32Rz _ _ _ _ => true
  | .cvtBf16F32 _ _ _ _ => true
  | .cvtF32Bf16Lo _ _ _ _ => true
  | .cvtF32Bf16Hi _ _ _ _ => true
  | .cvtF16F32 _ _ _ _ => true
  | .cvtF32F16Lo _ _ _ _ => true
  | .cvtF32F16Hi _ _ _ _ => true
  | .cvtE4m3F32 _ _ _ _ => true
  | .cvtF32E4m3 _ _ _ _ => true
  | .cvtE5m2F32 _ _ _ _ => true
  | .cvtF32E5m2 _ _ _ _ => true
  | .fsat _ _ _ _ => true
  | .cmps _ p q _ _ t _ => comparePairOk p q t
  | .cmpn _ p q _ _ t _ => comparePairOk p q t
  | .cmpf _ p q _ _ t _ => comparePairOk p q t
  | .cmpq _ p q _ _ t _ => comparePairOk p q t
  | .addi _ _ _ _ => true
  | .andi _ _ _ _ => true
  | .ori _ _ _ _ => true
  | .xori _ _ _ _ => true
  | .shli _ _ _ _ => true
  | .shriN32 _ _ _ _ => true
  | .shriS32 _ _ _ _ => true
  | .muli _ _ _ _ => true
  | .addSr _ _ _ _ => true
  | .subSr _ _ _ _ => true
  | .mulSr _ _ _ _ => true
  | .mulhSSr _ _ _ _ => true
  | .mulhNSr _ _ _ _ => true
  | .andSr _ _ _ _ => true
  | .orSr _ _ _ _ => true
  | .xorSr _ _ _ _ => true
  | .andnSr _ _ _ _ => true
  | .shlSr _ _ _ _ => true
  | .shrNSr _ _ _ _ => true
  | .shrSSr _ _ _ _ => true
  | .minSSr _ _ _ _ => true
  | .maxSSr _ _ _ _ => true
  | .minNSr _ _ _ _ => true
  | .maxNSr _ _ _ _ => true
  | .divSSr _ _ _ _ => true
  | .divNSr _ _ _ _ => true
  | .remSSr _ _ _ _ => true
  | .remNSr _ _ _ _ => true
  | .clzSr _ _ _ => true
  | .popcSr _ _ _ => true
  | .movSr _ _ _ => true
  | .bfx _ _ _ _ => true
  | .addiSi _ _ _ _ => true
  | .andiSi _ _ _ _ => true
  | .oriSi _ _ _ _ => true
  | .xoriSi _ _ _ _ => true
  | .shliSi _ _ _ _ => true
  | .shriNSi _ _ _ _ => true
  | .shriSSi _ _ _ _ => true
  | .muliSi _ _ _ _ => true
  | .li _ _ _ => true
  | .lis _ _ _ => true
  | .addis _ _ _ => true
  | .bcast _ _ _ => true
  | .rdlane _ _ _ _ _ => true
  | .wrlane _ _ _ _ => true
  | .shfl _ _ _ _ _ _ => true
  | .shflX _ _ _ _ _ _ => true
  | .ballot _ _ _ => true
  | .redi _ _ _ _ => true
  | .redf _ _ _ _ => true
  | .sel _ _ _ _ _ _ _ => true
  | .braP _ _ => true
  | .braC _ _ => true
  | .brx _ _ j => decide (j ≠ 0)
  | .join => true
  | .jmpr _ _ => true
  | .callr _ _ => true
  | .ret _ => true
  | .brxr _ _ _ => true
  | .exit _ s => scopeOk s
  | .trap _ _ => true
  | .yield _ _ => true
  | .call _ _ => true
  | .ldgN8 _ _ _ _ _ _ => true
  | .ldgS8 _ _ _ _ _ _ => true
  | .ldgN16 _ _ _ _ _ _ => true
  | .ldgS16 _ _ _ _ _ _ => true
  | .ldgB32 _ _ _ _ _ _ => true
  | .ldgB64 _ _ d _ _ _ => isEven d
  | .ldgB128 _ _ d _ _ _ => isMul4 d
  | .stgB8 _ _ _ _ _ _ => true
  | .stgB16 _ _ _ _ _ _ => true
  | .stgB32 _ _ _ _ _ _ => true
  | .stgB64 _ _ d _ _ _ => isEven d
  | .stgB128 _ _ d _ _ _ => isMul4 d
  | .ldsN8 _ _ _ _ => true
  | .ldsS8 _ _ _ _ => true
  | .ldsN16 _ _ _ _ => true
  | .ldsS16 _ _ _ _ => true
  | .ldsB32 _ _ _ _ => true
  | .ldsB64 _ d _ _ => isEven d
  | .ldsB128 _ d _ _ => isMul4 d
  | .stsB8 _ _ _ _ => true
  | .stsB16 _ _ _ _ => true
  | .stsB32 _ _ _ _ => true
  | .stsB64 _ d _ _ => isEven d
  | .stsB128 _ d _ _ => isMul4 d
  | .ldpB32 _ _ _ _ => true
  | .ldpB64 _ d _ _ => isEven d
  | .ldpB128 _ d _ _ => isMul4 d
  | .stpB32 _ _ _ _ => true
  | .stpB64 _ d _ _ => isEven d
  | .stpB128 _ d _ _ => isMul4 d
  | .atomAdd _ d a _ s _ w => isEven a && widePairOk w d && scopeOk s
  | .atomMinS _ d a _ s _ w => isEven a && widePairOk w d && scopeOk s
  | .atomMaxS _ d a _ s _ w => isEven a && widePairOk w d && scopeOk s
  | .atomMinN _ d a _ s _ w => isEven a && widePairOk w d && scopeOk s
  | .atomMaxN _ d a _ s _ w => isEven a && widePairOk w d && scopeOk s
  | .atomAnd _ d a _ s _ w => isEven a && widePairOk w d && scopeOk s
  | .atomOr _ d a _ s _ w => isEven a && widePairOk w d && scopeOk s
  | .atomXor _ d a _ s _ w => isEven a && widePairOk w d && scopeOk s
  | .atomXchg _ d a _ s _ w => isEven a && widePairOk w d && scopeOk s
  | .atomCas _ d a _ s _ w => isEven a && casPairOk w d && scopeOk s
  | .atomFaddF32 _ _ a _ s _ => isEven a && scopeOk s
  | .atomFminF32 _ _ a _ s _ => isEven a && scopeOk s
  | .atomFmaxF32 _ _ a _ s _ => isEven a && scopeOk s
  | .atomLd _ d a o s w => isEven a && widePairOk w d && decide (o < 2) && scopeOk s
  | .atomSt _ d a o s _ w => isEven a && widePairOk w d && decide (o = 0 ∨ o = 2) && scopeOk s
  | .atomsAdd _ d _ _ s _ w => widePairOk w d && scopeOk s
  | .atomsMinS _ d _ _ s _ w => widePairOk w d && scopeOk s
  | .atomsMaxS _ d _ _ s _ w => widePairOk w d && scopeOk s
  | .atomsMinN _ d _ _ s _ w => widePairOk w d && scopeOk s
  | .atomsMaxN _ d _ _ s _ w => widePairOk w d && scopeOk s
  | .atomsAnd _ d _ _ s _ w => widePairOk w d && scopeOk s
  | .atomsOr _ d _ _ s _ w => widePairOk w d && scopeOk s
  | .atomsXor _ d _ _ s _ w => widePairOk w d && scopeOk s
  | .atomsXchg _ d _ _ s _ w => widePairOk w d && scopeOk s
  | .atomsCas _ d _ _ s _ w => casPairOk w d && scopeOk s
  | .atomsFaddF32 _ _ _ _ s _ => scopeOk s
  | .atomsFminF32 _ _ _ _ s _ => scopeOk s
  | .atomsFmaxF32 _ _ _ _ s _ => scopeOk s
  | .atomsLd _ d _ o s w => widePairOk w d && decide (o < 2) && scopeOk s
  | .atomsSt _ d _ o s _ w => widePairOk w d && decide (o = 0 ∨ o = 2) && scopeOk s
  | .fence _ _ _ o s k => decide (k ≠ 0) && decide (o ≠ 0) && scopeOk s
  | .marm _ _ => true
  | .mwait _ _ _ => true
  | .bsealCopy _ _ => true
  | .bsealMat _ _ => true
  | .bwaitCopy _ _ => true
  | .bwaitMat _ _ => true
  | .bar _ _ k => decide (k ≠ 7)
  | .barLanes _ _ => true
  | .tgateArriveWait _ => true
  | .tgateArrive _ => true
  | .tgateWait _ => true
  | .wdrain _ _ _ s => scopeOk s
  | .qpush _ _ _ => true
  | .qpop _ _ _ => true
  | .qtpush _ _ _ _ => true
  | .qtpop _ _ _ _ => true
  | .qinit _ _ _ i => decide (1 ≤ i ∧ i ≤ 64)
  | .qstat _ _ _ => true
  | .xcpCopy _ a _ _ _ => isMul4 a
  | .xcpStrided _ a _ _ _ => isMul4 a
  | .xcpSwizzle _ a _ _ _ => isMul4 a
  | .xcpCbexp _ a _ _ _ => isMul4 a
  | .xcpTxb4c _ a _ _ _ => isMul4 a
  | .xcpTxb4x _ a _ _ _ => isMul4 a
  | .xcpSgnpk _ a _ _ _ => isMul4 a
  | .xcpSgnun _ a _ _ _ => isMul4 a
  | .xcpShenc _ a _ _ _ => isMul4 a
  | .xcpShdec _ a _ _ _ => isMul4 a
  | .xcpGather _ a _ _ _ => isMul4 a
  | .xcpFill _ a _ _ _ => isMul4 a
  | .mma _ _ a b _ => isEven a && isEven b
  | .mmaBt _ _ a b _ => isEven a && isEven b
  | .mmaRs _ _ a b _ => isEven a && isEven b
  | .mdf _ _ a b _ => isEven a && isEven b
  | .mdfSp _ _ a b _ => isEven a && isEven b
  | .msmx _ _ a b => isEven a && isEven b
  | .mzero _ _ => true
  | .mld _ _ a => isEven a
  | .mst _ _ a r => isEven a && decide (r / 2 ≠ 3)
  | .mside _ _ a => isEven a
  | .gsr _ _ i => decide (i < 20)
  | .ssrGstat _ _ => true
  | .ssrGc _ _ => true
  | .ssrFm _ _ => true
  | .ssrMst _ _ => true
  | .wid _ _ k => decide (k < 7)
  | .topo _ _ k => decide (k < 10)
  | .chk _ _ _ => true
  | .idem _ => true
  | .idemx _ => true
  | .brk _ _ _ => true
  | .launch _ _ _ _ => true
  | .evpost _ _ => true
  | .ldw _ _ a _ => isEven a
  | .lodge _ _ _ => true
  | .pfg _ _ => true
  | .lq _ _ _ _ => true
  | .dzwRead _ => true
  | .dzwWrite _ => true
  | .dzwAtomicAdd _ => true
  | .dzwCas _ => true
  | .dzwCompletion _ => true
  | .malformedMessage _ => true
  | .postWord _ => true
  | .dzwAcknowledgement _ _ => true
  | .retransmission _ _ => true
  | .recoveryWindowExpiry _ _ => true
  | .pauseFrame _ _ => true
  | .linkStateChange _ _ => true
  | .claim _ => true
  | .renew _ => true
  | .releaseOwnership _ => true
  | .nameSuccessor _ => true
  | .createContext _ => true
  | .resetContext _ => true
  | .resumeContext _ => true
  | .haltContext _ => true
  | .resumeGroup _ => true
  | .setShare _ => true
  | .setWindow _ => true
  | .admitHost _ => true
  | .setQueue _ => true
  | .setRegion _ => true
  | .setPeer _ => true
  | .shootdown _ => true
  | .writePhysical _ => true
  | .readPhysical _ => true
  | .loadObject _ => true
  | .pageReply _ => true
  | .setWatchdog _ => true
  | .setRecoveryWindow _ => true
  | .setPort _ => true
  | .updateFirmware _ => true
  | .readState _ => true
  | .readViolations _ => true
  | .attest _ => true
  | .readEventLog _ => true
  | .leaseLapse => true
  | .successorGraceExpiry => true
  | .bringUp => true
  | .clockChange _ => true
  | .waybillTake _ _ => true
  | .waybillReady _ => true
  | .openLaunch _ => true
  | .crewPlacement _ _ => true
  | .preemptionHalt _ => true
  | .shadowSwap _ => true
  | .crewResume _ => true
  | .aggregatorBatchClose _ => true
  | .tollgatePhaseCompletion _ => true
  | .groupCompletion _ => true
  | .launchCompletion _ => true
  | .splitRotation _ _ => true
  | .swapOut _ => true
  | .swapIn _ => true
  | .loadDataArrival _ _ => true
  | .countHalving => true
  | .droverMove _ => true
  | .replicaInvalidation _ _ _ => true
  | .waferCacheEviction _ => true
  | .drainDemand _ _ _ _ => true
  | .drainAcknowledgement _ _ _ _ => true
  | .recall _ _ => true
  | .bankRetirement _ => true
  | .shareRequest _ _ _ _ => true
  | .shareGrant _ _ _ _ => true
  | .weirRun _ _ _ _ _ _ => true
  | .spillAcknowledgement _ _ _ => true
  | .sluice _ _ _ => true
  | .returnNotice _ _ _ => true
  | .resumeNotice _ _ _ => true
  | .drainRequest _ _ _ _ => true
  | .copyCommandExecute _ => true
  | .matrixOperationExecute _ => true
  | .monitorWake _ _ => true
  | .mwaitTimeout _ => true
  | .remoteWatchPoll _ => true
  | .eventAckTimeout _ => true
  | .watchdogExpiry _ => true
  | .parkLimitExpiry _ => true
  | .faultEventPost _ => true
  | .idempotentRestart _ => true
  | .debugHaltSettled _ => true
  | .quiesceTokenReturn _ => true
  | .dressingPass _ => true
  | .dressingResult _ _ => true
  | .illegalEncoding _ => true
  | .instructionFetchFault _ _ _ => true

end Sys2Proof
end

