-- ==== Sys2Proof/Decode.lean ====
section
/-! DEFINITION. Decoding: the fields of an instruction's words, one function for each class of R26, total on any bits, and the
encoder after it. A pattern that is not an instruction (R46) decodes to none, and the step runs ILLEGAL_ENCODING.
The word `noncomputable` below concerns compiled code alone, whose objects cannot tell 373 constructors apart; Lean's kernel
evaluates every one of these functions. -/

namespace Sys2Proof

/-- Bits `hi` to `lo` of a word (R11). -/
def bits (w hi lo : Nat) : Nat := w / 2 ^ lo % 2 ^ (hi + 1 - lo)

/-- The field of `n` bits that starts at bit `lo`. -/
def fld (w lo n : Nat) : BitVec n := BitVec.ofNat n (w / 2 ^ lo)

/-- The sixteen 16-bit instructions (R18): every value of op4 is assigned. -/
def decodeShort (w : Nat) : Instr :=
  match bits w 4 1 with
  | 0 => .shortMov (fld w 5 6) (fld w 11 5)
  | 1 => .shortAddI32 (fld w 5 6) (fld w 11 5)
  | 2 => .shortSubI32 (fld w 5 6) (fld w 11 5)
  | 3 => .shortAnd (fld w 5 6) (fld w 11 5)
  | 4 => .shortOr (fld w 5 6) (fld w 11 5)
  | 5 => .shortXor (fld w 5 6) (fld w 11 5)
  | 6 => .shortShl (fld w 5 6) (fld w 11 5)
  | 7 => .shortShrN32 (fld w 5 6) (fld w 11 5)
  | 8 => .shortShrS32 (fld w 5 6) (fld w 11 5)
  | 9 => .movi (fld w 5 6) (fld w 11 5)
  | 10 => .shortAddi (fld w 5 6) (fld w 11 5)
  | 11 => .shortShli (fld w 5 6) (fld w 11 5)
  | 12 => .shortFaddF32 (fld w 5 6) (fld w 11 5)
  | 13 => .shortFmulF32 (fld w 5 6) (fld w 11 5)
  | 14 => .shortFmaxF32 (fld w 5 6) (fld w 11 5)
  | _ => .shortFminF32 (fld w 5 6) (fld w 11 5)

/-- Class IA, 0x00 (R26). -/
def decodeIA (w : Nat) : Option Instr :=
  match bits w 31 29 with
  | 0 => some (.addI32 (fld w 6 3) (fld w 9 6) (fld w 15 6) (fld w 21 6) (fld w 27 1) (fld w 28 1))
  | 1 => some (.subI32 (fld w 6 3) (fld w 9 6) (fld w 15 6) (fld w 21 6) (fld w 27 1) (fld w 28 1))
  | 2 => some (.mulI32 (fld w 6 3) (fld w 9 6) (fld w 15 6) (fld w 21 6) (fld w 27 1) (fld w 28 1))
  | 3 => some (.mulhS32 (fld w 6 3) (fld w 9 6) (fld w 15 6) (fld w 21 6) (fld w 27 1) (fld w 28 1))
  | 4 => some (.mulhN32 (fld w 6 3) (fld w 9 6) (fld w 15 6) (fld w 21 6) (fld w 27 1) (fld w 28 1))
  | 5 => some (.minS32 (fld w 6 3) (fld w 9 6) (fld w 15 6) (fld w 21 6) (fld w 27 1) (fld w 28 1))
  | 6 => some (.maxS32 (fld w 6 3) (fld w 9 6) (fld w 15 6) (fld w 21 6) (fld w 27 1) (fld w 28 1))
  | 7 => some (.madI32 (fld w 6 3) (fld w 9 6) (fld w 15 6) (fld w 21 6) (fld w 27 1) (fld w 28 1))
  | _ => none

/-- Class IB, 0x01 (R26). -/
def decodeIB (w : Nat) : Option Instr :=
  match bits w 31 29 with
  | 0 => some (.and (fld w 6 3) (fld w 9 6) (fld w 15 6) (fld w 21 6) (fld w 27 1) (fld w 28 1))
  | 1 => some (.or (fld w 6 3) (fld w 9 6) (fld w 15 6) (fld w 21 6) (fld w 27 1) (fld w 28 1))
  | 2 => some (.xor (fld w 6 3) (fld w 9 6) (fld w 15 6) (fld w 21 6) (fld w 27 1) (fld w 28 1))
  | 3 => some (.shl (fld w 6 3) (fld w 9 6) (fld w 15 6) (fld w 21 6) (fld w 27 1) (fld w 28 1))
  | 4 => some (.shrN32 (fld w 6 3) (fld w 9 6) (fld w 15 6) (fld w 21 6) (fld w 27 1) (fld w 28 1))
  | 5 => some (.shrS32 (fld w 6 3) (fld w 9 6) (fld w 15 6) (fld w 21 6) (fld w 27 1) (fld w 28 1))
  | 6 => some (.minN32 (fld w 6 3) (fld w 9 6) (fld w 15 6) (fld w 21 6) (fld w 27 1) (fld w 28 1))
  | 7 => some (.maxN32 (fld w 6 3) (fld w 9 6) (fld w 15 6) (fld w 21 6) (fld w 27 1) (fld w 28 1))
  | _ => none

/-- Class IC, 0x02 (R26). -/
def decodeIC (w : Nat) : Option Instr :=
  match bits w 31 29 with
  | 0 => if bits w 28 28 = 0 then some (.addI32Ic (fld w 6 3) (fld w 9 6) (fld w 15 6) (fld w 21 6) (fld w 27 1)) else none
  | 1 => if bits w 28 28 = 0 then some (.subI32Ic (fld w 6 3) (fld w 9 6) (fld w 15 6) (fld w 21 6) (fld w 27 1)) else none
  | 2 => if bits w 28 28 = 0 then some (.mulI32Ic (fld w 6 3) (fld w 9 6) (fld w 15 6) (fld w 21 6) (fld w 27 1)) else none
  | 3 => if bits w 28 28 = 0 then some (.andIc (fld w 6 3) (fld w 9 6) (fld w 15 6) (fld w 21 6) (fld w 27 1)) else none
  | 4 => if bits w 28 28 = 0 then some (.orIc (fld w 6 3) (fld w 9 6) (fld w 15 6) (fld w 21 6) (fld w 27 1)) else none
  | 5 => if bits w 28 28 = 0 then some (.shlIc (fld w 6 3) (fld w 9 6) (fld w 15 6) (fld w 21 6) (fld w 27 1)) else none
  | 6 => if bits w 28 28 = 0 then some (.madI32Ic (fld w 6 3) (fld w 9 6) (fld w 15 6) (fld w 21 6) (fld w 27 1)) else none
  | 7 => if bits w 28 28 = 0 then some (.addw (fld w 6 3) (fld w 9 6) (fld w 15 6) (fld w 21 6) (fld w 27 1)) else none
  | _ => none

/-- Class FA, 0x03 (R26). -/
def decodeFA (w : Nat) : Option Instr :=
  match bits w 31 29 with
  | 0 => some (.faddF32 (fld w 6 3) (fld w 9 6) (fld w 15 6) (fld w 21 6) (fld w 27 1) (fld w 28 1))
  | 1 => some (.fsubF32 (fld w 6 3) (fld w 9 6) (fld w 15 6) (fld w 21 6) (fld w 27 1) (fld w 28 1))
  | 2 => some (.fmulF32 (fld w 6 3) (fld w 9 6) (fld w 15 6) (fld w 21 6) (fld w 27 1) (fld w 28 1))
  | 3 => some (.ffmaF32 (fld w 6 3) (fld w 9 6) (fld w 15 6) (fld w 21 6) (fld w 27 1) (fld w 28 1))
  | 4 => some (.ffmsF32 (fld w 6 3) (fld w 9 6) (fld w 15 6) (fld w 21 6) (fld w 27 1) (fld w 28 1))
  | 5 => some (.fminF32 (fld w 6 3) (fld w 9 6) (fld w 15 6) (fld w 21 6) (fld w 27 1) (fld w 28 1))
  | 6 => some (.fmaxF32 (fld w 6 3) (fld w 9 6) (fld w 15 6) (fld w 21 6) (fld w 27 1) (fld w 28 1))
  | 7 => some (.packBf16x2 (fld w 6 3) (fld w 9 6) (fld w 15 6) (fld w 21 6) (fld w 27 1) (fld w 28 1))
  | _ => none

/-- Class FB, 0x04 (R26). -/
def decodeFB (w : Nat) : Option Instr :=
  match bits w 31 29 with
  | 0 => if bits w 28 28 = 0 then some (.faddF32Fb (fld w 6 3) (fld w 9 6) (fld w 15 6) (fld w 21 6) (fld w 27 1)) else none
  | 1 => if bits w 28 28 = 0 then some (.fsubF32Fb (fld w 6 3) (fld w 9 6) (fld w 15 6) (fld w 21 6) (fld w 27 1)) else none
  | 2 => if bits w 28 28 = 0 then some (.fmulF32Fb (fld w 6 3) (fld w 9 6) (fld w 15 6) (fld w 21 6) (fld w 27 1)) else none
  | 3 => if bits w 28 28 = 0 then some (.ffmaF32Fb (fld w 6 3) (fld w 9 6) (fld w 15 6) (fld w 21 6) (fld w 27 1)) else none
  | 4 => if bits w 28 28 = 0 then some (.ffmsF32Fb (fld w 6 3) (fld w 9 6) (fld w 15 6) (fld w 21 6) (fld w 27 1)) else none
  | 5 => if bits w 28 28 = 0 then some (.fminF32Fb (fld w 6 3) (fld w 9 6) (fld w 15 6) (fld w 21 6) (fld w 27 1)) else none
  | 6 => if bits w 28 28 = 0 then some (.fmaxF32Fb (fld w 6 3) (fld w 9 6) (fld w 15 6) (fld w 21 6) (fld w 27 1)) else none
  | 7 => if bits w 28 28 = 0 then some (.fscaleF32 (fld w 6 3) (fld w 9 6) (fld w 15 6) (fld w 21 6) (fld w 27 1)) else none
  | _ => none

/-- Class VU, 0x05 (R26). -/
def decodeVU (w : Nat) : Option Instr :=
  match bits w 26 21 with
  | 0 => if bits w 31 28 = 0 then some (.mov (fld w 6 3) (fld w 9 6) (fld w 15 6) (fld w 27 1)) else none
  | 1 => if bits w 31 28 = 0 then some (.not (fld w 6 3) (fld w 9 6) (fld w 15 6) (fld w 27 1)) else none
  | 2 => if bits w 31 28 = 0 then some (.negI32 (fld w 6 3) (fld w 9 6) (fld w 15 6) (fld w 27 1)) else none
  | 3 => if bits w 31 28 = 0 then some (.absI32 (fld w 6 3) (fld w 9 6) (fld w 15 6) (fld w 27 1)) else none
  | 4 => if bits w 31 28 = 0 then some (.popc (fld w 6 3) (fld w 9 6) (fld w 15 6) (fld w 27 1)) else none
  | 5 => if bits w 31 28 = 0 then some (.clz (fld w 6 3) (fld w 9 6) (fld w 15 6) (fld w 27 1)) else none
  | 6 => if bits w 31 28 = 0 then some (.brev (fld w 6 3) (fld w 9 6) (fld w 15 6) (fld w 27 1)) else none
  | 7 => if bits w 31 28 = 0 then some (.sext8 (fld w 6 3) (fld w 9 6) (fld w 15 6) (fld w 27 1)) else none
  | 8 => if bits w 31 28 = 0 then some (.sext16 (fld w 6 3) (fld w 9 6) (fld w 15 6) (fld w 27 1)) else none
  | 9 => if bits w 31 28 = 0 then some (.fabs (fld w 6 3) (fld w 9 6) (fld w 15 6) (fld w 27 1)) else none
  | 10 => if bits w 31 28 = 0 then some (.fneg (fld w 6 3) (fld w 9 6) (fld w 15 6) (fld w 27 1)) else none
  | 11 => if bits w 31 28 = 0 then some (.frcp (fld w 6 3) (fld w 9 6) (fld w 15 6) (fld w 27 1)) else none
  | 12 => if bits w 31 28 = 0 then some (.frsq (fld w 6 3) (fld w 9 6) (fld w 15 6) (fld w 27 1)) else none
  | 13 => if bits w 31 28 = 0 then some (.fsqrt (fld w 6 3) (fld w 9 6) (fld w 15 6) (fld w 27 1)) else none
  | 14 => if bits w 31 28 = 0 then some (.fexp2 (fld w 6 3) (fld w 9 6) (fld w 15 6) (fld w 27 1)) else none
  | 15 => if bits w 31 28 = 0 then some (.flog2 (fld w 6 3) (fld w 9 6) (fld w 15 6) (fld w 27 1)) else none
  | 16 => if bits w 31 28 = 0 then some (.fsin (fld w 6 3) (fld w 9 6) (fld w 15 6) (fld w 27 1)) else none
  | 17 => if bits w 31 28 = 0 then some (.fcos (fld w 6 3) (fld w 9 6) (fld w 15 6) (fld w 27 1)) else none
  | 18 => if bits w 31 28 = 0 then some (.ftanh (fld w 6 3) (fld w 9 6) (fld w 15 6) (fld w 27 1)) else none
  | 19 => if bits w 31 28 = 0 then some (.ffloor (fld w 6 3) (fld w 9 6) (fld w 15 6) (fld w 27 1)) else none
  | 20 => if bits w 31 28 = 0 then some (.fceil (fld w 6 3) (fld w 9 6) (fld w 15 6) (fld w 27 1)) else none
  | 21 => if bits w 31 28 = 0 then some (.ftrunc (fld w 6 3) (fld w 9 6) (fld w 15 6) (fld w 27 1)) else none
  | 22 => if bits w 31 28 = 0 then some (.frint (fld w 6 3) (fld w 9 6) (fld w 15 6) (fld w 27 1)) else none
  | 23 => if bits w 31 28 = 0 then some (.ffract (fld w 6 3) (fld w 9 6) (fld w 15 6) (fld w 27 1)) else none
  | 24 => if bits w 31 28 = 0 then some (.cvtF32S32 (fld w 6 3) (fld w 9 6) (fld w 15 6) (fld w 27 1)) else none
  | 25 => if bits w 31 28 = 0 then some (.cvtF32N32 (fld w 6 3) (fld w 9 6) (fld w 15 6) (fld w 27 1)) else none
  | 26 => if bits w 31 28 = 0 then some (.cvtS32F32Rz (fld w 6 3) (fld w 9 6) (fld w 15 6) (fld w 27 1)) else none
  | 27 => if bits w 31 28 = 0 then some (.cvtS32F32Rn (fld w 6 3) (fld w 9 6) (fld w 15 6) (fld w 27 1)) else none
  | 28 => if bits w 31 28 = 0 then some (.cvtN32F32Rz (fld w 6 3) (fld w 9 6) (fld w 15 6) (fld w 27 1)) else none
  | 29 => if bits w 31 28 = 0 then some (.cvtBf16F32 (fld w 6 3) (fld w 9 6) (fld w 15 6) (fld w 27 1)) else none
  | 30 => if bits w 31 28 = 0 then some (.cvtF32Bf16Lo (fld w 6 3) (fld w 9 6) (fld w 15 6) (fld w 27 1)) else none
  | 31 => if bits w 31 28 = 0 then some (.cvtF32Bf16Hi (fld w 6 3) (fld w 9 6) (fld w 15 6) (fld w 27 1)) else none
  | 32 => if bits w 31 28 = 0 then some (.cvtF16F32 (fld w 6 3) (fld w 9 6) (fld w 15 6) (fld w 27 1)) else none
  | 33 => if bits w 31 28 = 0 then some (.cvtF32F16Lo (fld w 6 3) (fld w 9 6) (fld w 15 6) (fld w 27 1)) else none
  | 34 => if bits w 31 28 = 0 then some (.cvtF32F16Hi (fld w 6 3) (fld w 9 6) (fld w 15 6) (fld w 27 1)) else none
  | 35 => if bits w 31 28 = 0 then some (.cvtE4m3F32 (fld w 6 3) (fld w 9 6) (fld w 15 6) (fld w 27 1)) else none
  | 36 => if bits w 31 28 = 0 then some (.cvtF32E4m3 (fld w 6 3) (fld w 9 6) (fld w 15 6) (fld w 27 1)) else none
  | 37 => if bits w 31 28 = 0 then some (.cvtE5m2F32 (fld w 6 3) (fld w 9 6) (fld w 15 6) (fld w 27 1)) else none
  | 38 => if bits w 31 28 = 0 then some (.cvtF32E5m2 (fld w 6 3) (fld w 9 6) (fld w 15 6) (fld w 27 1)) else none
  | 39 => if bits w 31 28 = 0 then some (.fsat (fld w 6 3) (fld w 9 6) (fld w 15 6) (fld w 27 1)) else none
  | _ => none

/-- Class CMPS, 0x06 (R26). -/
def decodeCMPS (w : Nat) : Option Instr :=
  some (.cmps (fld w 6 3) (fld w 9 3) (fld w 12 3) (fld w 15 6) (fld w 21 6) (fld w 27 3) (fld w 30 2))

/-- Class CMPN, 0x07 (R26). -/
def decodeCMPN (w : Nat) : Option Instr :=
  some (.cmpn (fld w 6 3) (fld w 9 3) (fld w 12 3) (fld w 15 6) (fld w 21 6) (fld w 27 3) (fld w 30 2))

/-- Class CMPF, 0x08 (R26). -/
def decodeCMPF (w : Nat) : Option Instr :=
  some (.cmpf (fld w 6 3) (fld w 9 3) (fld w 12 3) (fld w 15 6) (fld w 21 6) (fld w 27 3) (fld w 30 2))

/-- Class CMPQ, 0x09 (R26). -/
def decodeCMPQ (w : Nat) : Option Instr :=
  some (.cmpq (fld w 6 3) (fld w 9 3) (fld w 12 3) (fld w 15 6) (fld w 21 6) (fld w 27 3) (fld w 30 2))

/-- Class VI, 0x0A (R26). -/
def decodeVI (w : Nat) : Option Instr :=
  match bits w 23 21 with
  | 0 => some (.addi (fld w 6 3) (fld w 9 6) (fld w 15 6) (fld w 24 8))
  | 1 => some (.andi (fld w 6 3) (fld w 9 6) (fld w 15 6) (fld w 24 8))
  | 2 => some (.ori (fld w 6 3) (fld w 9 6) (fld w 15 6) (fld w 24 8))
  | 3 => some (.xori (fld w 6 3) (fld w 9 6) (fld w 15 6) (fld w 24 8))
  | 4 => if bits w 31 29 = 0 then some (.shli (fld w 6 3) (fld w 9 6) (fld w 15 6) (fld w 24 5)) else none
  | 5 => if bits w 31 29 = 0 then some (.shriN32 (fld w 6 3) (fld w 9 6) (fld w 15 6) (fld w 24 5)) else none
  | 6 => if bits w 31 29 = 0 then some (.shriS32 (fld w 6 3) (fld w 9 6) (fld w 15 6) (fld w 24 5)) else none
  | 7 => some (.muli (fld w 6 3) (fld w 9 6) (fld w 15 6) (fld w 24 8))
  | _ => none

/-- Class SR, 0x0B (R26). -/
def decodeSR (w : Nat) : Option Instr :=
  match bits w 31 27 with
  | 0 => some (.addSr (fld w 6 3) (fld w 9 6) (fld w 15 6) (fld w 21 6))
  | 1 => some (.subSr (fld w 6 3) (fld w 9 6) (fld w 15 6) (fld w 21 6))
  | 2 => some (.mulSr (fld w 6 3) (fld w 9 6) (fld w 15 6) (fld w 21 6))
  | 3 => some (.mulhSSr (fld w 6 3) (fld w 9 6) (fld w 15 6) (fld w 21 6))
  | 4 => some (.mulhNSr (fld w 6 3) (fld w 9 6) (fld w 15 6) (fld w 21 6))
  | 5 => some (.andSr (fld w 6 3) (fld w 9 6) (fld w 15 6) (fld w 21 6))
  | 6 => some (.orSr (fld w 6 3) (fld w 9 6) (fld w 15 6) (fld w 21 6))
  | 7 => some (.xorSr (fld w 6 3) (fld w 9 6) (fld w 15 6) (fld w 21 6))
  | 8 => some (.andnSr (fld w 6 3) (fld w 9 6) (fld w 15 6) (fld w 21 6))
  | 9 => some (.shlSr (fld w 6 3) (fld w 9 6) (fld w 15 6) (fld w 21 6))
  | 10 => some (.shrNSr (fld w 6 3) (fld w 9 6) (fld w 15 6) (fld w 21 6))
  | 11 => some (.shrSSr (fld w 6 3) (fld w 9 6) (fld w 15 6) (fld w 21 6))
  | 12 => some (.minSSr (fld w 6 3) (fld w 9 6) (fld w 15 6) (fld w 21 6))
  | 13 => some (.maxSSr (fld w 6 3) (fld w 9 6) (fld w 15 6) (fld w 21 6))
  | 14 => some (.minNSr (fld w 6 3) (fld w 9 6) (fld w 15 6) (fld w 21 6))
  | 15 => some (.maxNSr (fld w 6 3) (fld w 9 6) (fld w 15 6) (fld w 21 6))
  | 16 => some (.divSSr (fld w 6 3) (fld w 9 6) (fld w 15 6) (fld w 21 6))
  | 17 => some (.divNSr (fld w 6 3) (fld w 9 6) (fld w 15 6) (fld w 21 6))
  | 18 => some (.remSSr (fld w 6 3) (fld w 9 6) (fld w 15 6) (fld w 21 6))
  | 19 => some (.remNSr (fld w 6 3) (fld w 9 6) (fld w 15 6) (fld w 21 6))
  | 20 => if bits w 26 21 = 0 then some (.clzSr (fld w 6 3) (fld w 9 6) (fld w 15 6)) else none
  | 21 => if bits w 26 21 = 0 then some (.popcSr (fld w 6 3) (fld w 9 6) (fld w 15 6)) else none
  | 22 => if bits w 26 21 = 0 then some (.movSr (fld w 6 3) (fld w 9 6) (fld w 15 6)) else none
  | 23 => some (.bfx (fld w 6 3) (fld w 9 6) (fld w 15 6) (fld w 21 6))
  | _ => none

/-- Class SI, 0x0C (R26). -/
def decodeSI (w : Nat) : Option Instr :=
  match bits w 23 21 with
  | 0 => some (.addiSi (fld w 6 3) (fld w 9 6) (fld w 15 6) (fld w 24 8))
  | 1 => some (.andiSi (fld w 6 3) (fld w 9 6) (fld w 15 6) (fld w 24 8))
  | 2 => some (.oriSi (fld w 6 3) (fld w 9 6) (fld w 15 6) (fld w 24 8))
  | 3 => some (.xoriSi (fld w 6 3) (fld w 9 6) (fld w 15 6) (fld w 24 8))
  | 4 => if bits w 31 30 = 0 then some (.shliSi (fld w 6 3) (fld w 9 6) (fld w 15 6) (fld w 24 6)) else none
  | 5 => if bits w 31 30 = 0 then some (.shriNSi (fld w 6 3) (fld w 9 6) (fld w 15 6) (fld w 24 6)) else none
  | 6 => if bits w 31 30 = 0 then some (.shriSSi (fld w 6 3) (fld w 9 6) (fld w 15 6) (fld w 24 6)) else none
  | 7 => some (.muliSi (fld w 6 3) (fld w 9 6) (fld w 15 6) (fld w 24 8))
  | _ => none

/-- Class SLI, 0x0D (R26). -/
def decodeSLI (w : Nat) : Option Instr :=
  match bits w 16 15 with
  | 0 => some (.li (fld w 6 3) (fld w 9 6) (fld w 17 15))
  | 1 => some (.lis (fld w 6 3) (fld w 9 6) (fld w 17 15))
  | 2 => some (.addis (fld w 6 3) (fld w 9 6) (fld w 17 15))
  | _ => none

/-- Class XS, 0x0E (R26). -/
def decodeXS (w : Nat) : Option Instr :=
  match bits w 31 29 with
  | 0 => if bits w 28 21 = 0 then some (.bcast (fld w 6 3) (fld w 9 6) (fld w 15 6)) else none
  | 1 => if bits w 28 28 = 0 then some (.rdlane (fld w 6 3) (fld w 9 6) (fld w 15 6) (fld w 21 6) (fld w 27 1)) else none
  | 2 => if bits w 28 27 = 0 then some (.wrlane (fld w 6 3) (fld w 9 6) (fld w 15 6) (fld w 21 6)) else none
  | 3 => some (.shfl (fld w 6 3) (fld w 9 6) (fld w 15 6) (fld w 21 6) (fld w 27 1) (fld w 28 1))
  | 4 => some (.shflX (fld w 6 3) (fld w 9 6) (fld w 15 6) (fld w 21 6) (fld w 27 1) (fld w 28 1))
  | 5 => if bits w 28 18 = 0 then some (.ballot (fld w 6 3) (fld w 9 6) (fld w 15 3)) else none
  | 6 => if bits w 26 21 = 0 ∧ bits w 28 28 = 0 then some (.redi (fld w 6 3) (fld w 9 6) (fld w 15 6) (fld w 27 1)) else none
  | 7 => if bits w 26 21 = 0 ∧ bits w 28 28 = 0 then some (.redf (fld w 6 3) (fld w 9 6) (fld w 15 6) (fld w 27 1)) else none
  | _ => none

/-- Class SEL, 0x0F (R26). -/
def decodeSEL (w : Nat) : Option Instr :=
  some (.sel (fld w 6 3) (fld w 9 6) (fld w 15 6) (fld w 21 6) (fld w 27 1) (fld w 28 1) (fld w 29 3))

/-- Class BRA, 0x10 (R26). -/
noncomputable def decodeBRA (w : Nat) : Option Instr :=
  match bits w 9 9 with
  | 0 => some (.braP (fld w 6 3) (fld w 10 22))
  | 1 => some (.braC (fld w 6 3) (fld w 10 22))
  | _ => none

/-- Class BRX, 0x11 (R26). -/
noncomputable def decodeBRX (w : Nat) : Option Instr :=
  some (.brx (fld w 6 3) (fld w 9 12) (fld w 21 11))

/-- Class JR, 0x12 (R26). -/
noncomputable def decodeJR (w : Nat) : Option Instr :=
  match bits w 23 21 with
  | 0 => if bits w 20 6 = 7 ∧ bits w 31 24 = 0 then some (.join) else none
  | 1 => if bits w 20 15 = 0 ∧ bits w 31 24 = 0 then some (.jmpr (fld w 6 3) (fld w 9 6)) else none
  | 2 => if bits w 20 15 = 0 ∧ bits w 31 24 = 0 then some (.callr (fld w 6 3) (fld w 9 6)) else none
  | 3 => if bits w 20 9 = 0 ∧ bits w 31 24 = 0 then some (.ret (fld w 6 3)) else none
  | 4 => if bits w 31 24 = 0 then some (.brxr (fld w 6 3) (fld w 9 6) (fld w 15 6)) else none
  | 5 => if bits w 20 9 = 0 ∧ bits w 31 27 = 0 then some (.exit (fld w 6 3) (fld w 24 3)) else none
  | 6 => if bits w 20 9 = 0 then some (.trap (fld w 6 3) (fld w 24 8)) else none
  | 7 => if bits w 20 9 = 0 then some (.yield (fld w 6 3) (fld w 24 8)) else none
  | _ => none

/-- Class CALL, 0x13 (R26). -/
noncomputable def decodeCALL (w : Nat) : Option Instr :=
  if bits w 9 9 = 0 then some (.call (fld w 6 3) (fld w 10 22)) else none

/-- Class LDG, 0x14 (R26). -/
noncomputable def decodeLDG (w : Nat) : Option Instr :=
  match bits w 28 26 with
  | 0 => some (.ldgN8 (fld w 6 3) (fld w 29 2) (fld w 9 6) (fld w 15 6) (fld w 21 5) (fld w 31 1))
  | 1 => some (.ldgS8 (fld w 6 3) (fld w 29 2) (fld w 9 6) (fld w 15 6) (fld w 21 5) (fld w 31 1))
  | 2 => some (.ldgN16 (fld w 6 3) (fld w 29 2) (fld w 9 6) (fld w 15 6) (fld w 21 5) (fld w 31 1))
  | 3 => some (.ldgS16 (fld w 6 3) (fld w 29 2) (fld w 9 6) (fld w 15 6) (fld w 21 5) (fld w 31 1))
  | 4 => some (.ldgB32 (fld w 6 3) (fld w 29 2) (fld w 9 6) (fld w 15 6) (fld w 21 5) (fld w 31 1))
  | 5 => some (.ldgB64 (fld w 6 3) (fld w 29 2) (fld w 9 6) (fld w 15 6) (fld w 21 5) (fld w 31 1))
  | 6 => some (.ldgB128 (fld w 6 3) (fld w 29 2) (fld w 9 6) (fld w 15 6) (fld w 21 5) (fld w 31 1))
  | _ => none

/-- Class STG, 0x15 (R26). -/
noncomputable def decodeSTG (w : Nat) : Option Instr :=
  match bits w 28 26 with
  | 0 => some (.stgB8 (fld w 6 3) (fld w 29 2) (fld w 9 6) (fld w 15 6) (fld w 21 5) (fld w 31 1))
  | 2 => some (.stgB16 (fld w 6 3) (fld w 29 2) (fld w 9 6) (fld w 15 6) (fld w 21 5) (fld w 31 1))
  | 4 => some (.stgB32 (fld w 6 3) (fld w 29 2) (fld w 9 6) (fld w 15 6) (fld w 21 5) (fld w 31 1))
  | 5 => some (.stgB64 (fld w 6 3) (fld w 29 2) (fld w 9 6) (fld w 15 6) (fld w 21 5) (fld w 31 1))
  | 6 => some (.stgB128 (fld w 6 3) (fld w 29 2) (fld w 9 6) (fld w 15 6) (fld w 21 5) (fld w 31 1))
  | _ => none

/-- Class LDS, 0x16 (R26). -/
noncomputable def decodeLDS (w : Nat) : Option Instr :=
  match bits w 23 21 with
  | 0 => some (.ldsN8 (fld w 6 3) (fld w 9 6) (fld w 15 6) (fld w 24 8))
  | 1 => some (.ldsS8 (fld w 6 3) (fld w 9 6) (fld w 15 6) (fld w 24 8))
  | 2 => some (.ldsN16 (fld w 6 3) (fld w 9 6) (fld w 15 6) (fld w 24 8))
  | 3 => some (.ldsS16 (fld w 6 3) (fld w 9 6) (fld w 15 6) (fld w 24 8))
  | 4 => some (.ldsB32 (fld w 6 3) (fld w 9 6) (fld w 15 6) (fld w 24 8))
  | 5 => some (.ldsB64 (fld w 6 3) (fld w 9 6) (fld w 15 6) (fld w 24 8))
  | 6 => some (.ldsB128 (fld w 6 3) (fld w 9 6) (fld w 15 6) (fld w 24 8))
  | _ => none

/-- Class STS, 0x17 (R26). -/
noncomputable def decodeSTS (w : Nat) : Option Instr :=
  match bits w 23 21 with
  | 0 => some (.stsB8 (fld w 6 3) (fld w 9 6) (fld w 15 6) (fld w 24 8))
  | 2 => some (.stsB16 (fld w 6 3) (fld w 9 6) (fld w 15 6) (fld w 24 8))
  | 4 => some (.stsB32 (fld w 6 3) (fld w 9 6) (fld w 15 6) (fld w 24 8))
  | 5 => some (.stsB64 (fld w 6 3) (fld w 9 6) (fld w 15 6) (fld w 24 8))
  | 6 => some (.stsB128 (fld w 6 3) (fld w 9 6) (fld w 15 6) (fld w 24 8))
  | _ => none

/-- Class PRV, 0x18 (R26). -/
noncomputable def decodePRV (w : Nat) : Option Instr :=
  match bits w 23 21 with
  | 0 => some (.ldpB32 (fld w 6 3) (fld w 9 6) (fld w 15 6) (fld w 24 8))
  | 1 => some (.ldpB64 (fld w 6 3) (fld w 9 6) (fld w 15 6) (fld w 24 8))
  | 2 => some (.ldpB128 (fld w 6 3) (fld w 9 6) (fld w 15 6) (fld w 24 8))
  | 4 => some (.stpB32 (fld w 6 3) (fld w 9 6) (fld w 15 6) (fld w 24 8))
  | 5 => some (.stpB64 (fld w 6 3) (fld w 9 6) (fld w 15 6) (fld w 24 8))
  | 6 => some (.stpB128 (fld w 6 3) (fld w 9 6) (fld w 15 6) (fld w 24 8))
  | _ => none

/-- Class ATOM, 0x19 (R26). -/
noncomputable def decodeATOM (w : Nat) : Option Instr :=
  match bits w 24 21 with
  | 0 => some (.atomAdd (fld w 6 3) (fld w 9 6) (fld w 15 6) (fld w 26 2) (fld w 28 3) (fld w 31 1) (fld w 25 1))
  | 1 => some (.atomMinS (fld w 6 3) (fld w 9 6) (fld w 15 6) (fld w 26 2) (fld w 28 3) (fld w 31 1) (fld w 25 1))
  | 2 => some (.atomMaxS (fld w 6 3) (fld w 9 6) (fld w 15 6) (fld w 26 2) (fld w 28 3) (fld w 31 1) (fld w 25 1))
  | 3 => some (.atomMinN (fld w 6 3) (fld w 9 6) (fld w 15 6) (fld w 26 2) (fld w 28 3) (fld w 31 1) (fld w 25 1))
  | 4 => some (.atomMaxN (fld w 6 3) (fld w 9 6) (fld w 15 6) (fld w 26 2) (fld w 28 3) (fld w 31 1) (fld w 25 1))
  | 5 => some (.atomAnd (fld w 6 3) (fld w 9 6) (fld w 15 6) (fld w 26 2) (fld w 28 3) (fld w 31 1) (fld w 25 1))
  | 6 => some (.atomOr (fld w 6 3) (fld w 9 6) (fld w 15 6) (fld w 26 2) (fld w 28 3) (fld w 31 1) (fld w 25 1))
  | 7 => some (.atomXor (fld w 6 3) (fld w 9 6) (fld w 15 6) (fld w 26 2) (fld w 28 3) (fld w 31 1) (fld w 25 1))
  | 8 => some (.atomXchg (fld w 6 3) (fld w 9 6) (fld w 15 6) (fld w 26 2) (fld w 28 3) (fld w 31 1) (fld w 25 1))
  | 9 => some (.atomCas (fld w 6 3) (fld w 9 6) (fld w 15 6) (fld w 26 2) (fld w 28 3) (fld w 31 1) (fld w 25 1))
  | 10 => if bits w 25 25 = 0 then some (.atomFaddF32 (fld w 6 3) (fld w 9 6) (fld w 15 6) (fld w 26 2) (fld w 28 3) (fld w 31 1)) else none
  | 11 => if bits w 25 25 = 0 then some (.atomFminF32 (fld w 6 3) (fld w 9 6) (fld w 15 6) (fld w 26 2) (fld w 28 3) (fld w 31 1)) else none
  | 12 => if bits w 25 25 = 0 then some (.atomFmaxF32 (fld w 6 3) (fld w 9 6) (fld w 15 6) (fld w 26 2) (fld w 28 3) (fld w 31 1)) else none
  | 13 => if bits w 31 31 = 0 then some (.atomLd (fld w 6 3) (fld w 9 6) (fld w 15 6) (fld w 26 2) (fld w 28 3) (fld w 25 1)) else none
  | 14 => some (.atomSt (fld w 6 3) (fld w 9 6) (fld w 15 6) (fld w 26 2) (fld w 28 3) (fld w 31 1) (fld w 25 1))
  | _ => none

/-- Class ATOMS, 0x1A (R26). -/
noncomputable def decodeATOMS (w : Nat) : Option Instr :=
  match bits w 24 21 with
  | 0 => some (.atomsAdd (fld w 6 3) (fld w 9 6) (fld w 15 6) (fld w 26 2) (fld w 28 3) (fld w 31 1) (fld w 25 1))
  | 1 => some (.atomsMinS (fld w 6 3) (fld w 9 6) (fld w 15 6) (fld w 26 2) (fld w 28 3) (fld w 31 1) (fld w 25 1))
  | 2 => some (.atomsMaxS (fld w 6 3) (fld w 9 6) (fld w 15 6) (fld w 26 2) (fld w 28 3) (fld w 31 1) (fld w 25 1))
  | 3 => some (.atomsMinN (fld w 6 3) (fld w 9 6) (fld w 15 6) (fld w 26 2) (fld w 28 3) (fld w 31 1) (fld w 25 1))
  | 4 => some (.atomsMaxN (fld w 6 3) (fld w 9 6) (fld w 15 6) (fld w 26 2) (fld w 28 3) (fld w 31 1) (fld w 25 1))
  | 5 => some (.atomsAnd (fld w 6 3) (fld w 9 6) (fld w 15 6) (fld w 26 2) (fld w 28 3) (fld w 31 1) (fld w 25 1))
  | 6 => some (.atomsOr (fld w 6 3) (fld w 9 6) (fld w 15 6) (fld w 26 2) (fld w 28 3) (fld w 31 1) (fld w 25 1))
  | 7 => some (.atomsXor (fld w 6 3) (fld w 9 6) (fld w 15 6) (fld w 26 2) (fld w 28 3) (fld w 31 1) (fld w 25 1))
  | 8 => some (.atomsXchg (fld w 6 3) (fld w 9 6) (fld w 15 6) (fld w 26 2) (fld w 28 3) (fld w 31 1) (fld w 25 1))
  | 9 => some (.atomsCas (fld w 6 3) (fld w 9 6) (fld w 15 6) (fld w 26 2) (fld w 28 3) (fld w 31 1) (fld w 25 1))
  | 10 => if bits w 25 25 = 0 then some (.atomsFaddF32 (fld w 6 3) (fld w 9 6) (fld w 15 6) (fld w 26 2) (fld w 28 3) (fld w 31 1)) else none
  | 11 => if bits w 25 25 = 0 then some (.atomsFminF32 (fld w 6 3) (fld w 9 6) (fld w 15 6) (fld w 26 2) (fld w 28 3) (fld w 31 1)) else none
  | 12 => if bits w 25 25 = 0 then some (.atomsFmaxF32 (fld w 6 3) (fld w 9 6) (fld w 15 6) (fld w 26 2) (fld w 28 3) (fld w 31 1)) else none
  | 13 => if bits w 31 31 = 0 then some (.atomsLd (fld w 6 3) (fld w 9 6) (fld w 15 6) (fld w 26 2) (fld w 28 3) (fld w 25 1)) else none
  | 14 => some (.atomsSt (fld w 6 3) (fld w 9 6) (fld w 15 6) (fld w 26 2) (fld w 28 3) (fld w 31 1) (fld w 25 1))
  | _ => none

/-- Class SYNC, 0x1B (R26). -/
noncomputable def decodeSYNC (w : Nat) : Option Instr :=
  match bits w 31 29 with
  | 0 => if bits w 23 23 = 0 then some (.fence (fld w 6 3) (fld w 9 6) (fld w 15 6) (fld w 27 2) (fld w 24 3) (fld w 21 2)) else none
  | 1 => if bits w 28 15 = 0 then some (.marm (fld w 6 3) (fld w 9 6)) else none
  | 2 => if bits w 28 21 = 0 then some (.mwait (fld w 6 3) (fld w 9 6) (fld w 15 6)) else none
  | 3 => if bits w 28 15 = 0 then some (.bsealCopy (fld w 6 3) (fld w 9 6)) else if bits w 28 15 = 64 then some (.bsealMat (fld w 6 3) (fld w 9 6)) else none
  | 4 => if bits w 28 15 = 0 then some (.bwaitCopy (fld w 6 3) (fld w 9 6)) else if bits w 28 15 = 64 then some (.bwaitMat (fld w 6 3) (fld w 9 6)) else none
  | 5 => if bits w 23 21 = 7 then (if bits w 20 15 = 0 ∧ bits w 28 24 = 0 then some (.barLanes (fld w 6 3) (fld w 9 6)) else none) else if bits w 14 9 = 0 ∧ bits w 28 24 = 0 then some (.bar (fld w 6 3) (fld w 15 6) (fld w 21 3)) else none
  | 6 => if bits w 28 9 = 0 then some (.tgateArriveWait (fld w 6 3)) else if bits w 28 9 = 4096 then some (.tgateArrive (fld w 6 3)) else if bits w 28 9 = 8192 then some (.tgateWait (fld w 6 3)) else none
  | 7 => if bits w 23 21 = 0 ∧ bits w 28 27 = 0 then some (.wdrain (fld w 6 3) (fld w 9 6) (fld w 15 6) (fld w 24 3)) else none
  | _ => none

/-- Class QUE, 0x1C (R26). -/
noncomputable def decodeQUE (w : Nat) : Option Instr :=
  match bits w 21 19 with
  | 0 => if bits w 31 22 = 0 then some (.qpush (fld w 6 3) (fld w 15 4) (fld w 9 6)) else none
  | 1 => if bits w 31 22 = 0 then some (.qpop (fld w 6 3) (fld w 15 4) (fld w 9 6)) else none
  | 2 => if bits w 31 25 = 0 then some (.qtpush (fld w 6 3) (fld w 15 4) (fld w 9 6) (fld w 22 3)) else none
  | 3 => if bits w 31 25 = 0 then some (.qtpop (fld w 6 3) (fld w 15 4) (fld w 9 6) (fld w 22 3)) else none
  | 4 => if bits w 31 29 = 0 then some (.qinit (fld w 6 3) (fld w 15 4) (fld w 9 6) (fld w 22 7)) else none
  | 5 => if bits w 31 22 = 0 then some (.qstat (fld w 6 3) (fld w 15 4) (fld w 9 6)) else none
  | _ => none

/-- Class XCP, 0x1D (R26). -/
noncomputable def decodeXCP (w : Nat) : Option Instr :=
  match bits w 25 21 with
  | 0 => some (.xcpCopy (fld w 6 3) (fld w 9 6) (fld w 15 6) (fld w 28 4) (fld w 26 2))
  | 1 => some (.xcpStrided (fld w 6 3) (fld w 9 6) (fld w 15 6) (fld w 28 4) (fld w 26 2))
  | 2 => some (.xcpSwizzle (fld w 6 3) (fld w 9 6) (fld w 15 6) (fld w 28 4) (fld w 26 2))
  | 3 => some (.xcpCbexp (fld w 6 3) (fld w 9 6) (fld w 15 6) (fld w 28 4) (fld w 26 2))
  | 4 => some (.xcpTxb4c (fld w 6 3) (fld w 9 6) (fld w 15 6) (fld w 28 4) (fld w 26 2))
  | 5 => some (.xcpTxb4x (fld w 6 3) (fld w 9 6) (fld w 15 6) (fld w 28 4) (fld w 26 2))
  | 6 => some (.xcpSgnpk (fld w 6 3) (fld w 9 6) (fld w 15 6) (fld w 28 4) (fld w 26 2))
  | 7 => some (.xcpSgnun (fld w 6 3) (fld w 9 6) (fld w 15 6) (fld w 28 4) (fld w 26 2))
  | 8 => some (.xcpShenc (fld w 6 3) (fld w 9 6) (fld w 15 6) (fld w 28 4) (fld w 26 2))
  | 9 => some (.xcpShdec (fld w 6 3) (fld w 9 6) (fld w 15 6) (fld w 28 4) (fld w 26 2))
  | 10 => some (.xcpGather (fld w 6 3) (fld w 9 6) (fld w 15 6) (fld w 28 4) (fld w 26 2))
  | 11 => some (.xcpFill (fld w 6 3) (fld w 9 6) (fld w 15 6) (fld w 28 4) (fld w 26 2))
  | _ => none

/-- Class MMA, 0x1E (R26). -/
noncomputable def decodeMMA (w : Nat) : Option Instr :=
  match bits w 28 25 with
  | 0 => some (.mma (fld w 6 3) (fld w 9 4) (fld w 13 6) (fld w 19 6) (fld w 29 3))
  | 1 => some (.mmaBt (fld w 6 3) (fld w 9 4) (fld w 13 6) (fld w 19 6) (fld w 29 3))
  | 2 => some (.mmaRs (fld w 6 3) (fld w 9 4) (fld w 13 6) (fld w 19 6) (fld w 29 3))
  | 3 => some (.mdf (fld w 6 3) (fld w 9 4) (fld w 13 6) (fld w 19 6) (fld w 29 3))
  | 4 => some (.mdfSp (fld w 6 3) (fld w 9 4) (fld w 13 6) (fld w 19 6) (fld w 29 3))
  | 5 => if bits w 31 29 = 0 then some (.msmx (fld w 6 3) (fld w 9 4) (fld w 13 6) (fld w 19 6)) else none
  | 6 => if bits w 24 13 = 0 ∧ bits w 31 29 = 0 then some (.mzero (fld w 6 3) (fld w 9 4)) else none
  | 7 => if bits w 24 19 = 0 ∧ bits w 31 29 = 0 then some (.mld (fld w 6 3) (fld w 9 4) (fld w 13 6)) else none
  | 8 => if bits w 24 19 = 0 then some (.mst (fld w 6 3) (fld w 9 4) (fld w 13 6) (fld w 29 3)) else none
  | 9 => if bits w 24 19 = 0 ∧ bits w 31 29 = 0 then some (.mside (fld w 6 3) (fld w 9 4) (fld w 13 6)) else none
  | _ => none

/-- Class SYS, 0x1F (R26). -/
noncomputable def decodeSYS (w : Nat) : Option Instr :=
  match bits w 31 27 with
  | 0 => if bits w 26 21 = 0 then some (.gsr (fld w 6 3) (fld w 9 6) (fld w 15 6)) else none
  | 1 => if bits w 20 9 = 576 then some (.ssrGstat (fld w 6 3) (fld w 21 6)) else if bits w 20 9 = 640 then some (.ssrGc (fld w 6 3) (fld w 21 6)) else if bits w 20 9 = 704 then some (.ssrFm (fld w 6 3) (fld w 21 6)) else if bits w 20 9 = 768 then some (.ssrMst (fld w 6 3) (fld w 21 6)) else none
  | 2 => if bits w 26 21 = 0 then some (.wid (fld w 6 3) (fld w 9 6) (fld w 15 6)) else none
  | 3 => if bits w 26 21 = 0 then some (.topo (fld w 6 3) (fld w 9 6) (fld w 15 6)) else none
  | 4 => if bits w 14 12 = 0 ∧ bits w 26 21 = 0 then some (.chk (fld w 6 3) (fld w 9 3) (fld w 15 6)) else none
  | 5 => if bits w 26 9 = 0 then some (.idem (fld w 6 3)) else none
  | 6 => if bits w 26 9 = 0 then some (.idemx (fld w 6 3)) else none
  | 7 => if bits w 14 9 = 0 then some (.brk (fld w 6 3) (fld w 21 6) (fld w 15 6)) else none
  | 8 => some (.launch (fld w 6 3) (fld w 9 6) (fld w 15 6) (fld w 21 6))
  | 9 => if bits w 14 9 = 0 ∧ bits w 26 21 = 0 then some (.evpost (fld w 6 3) (fld w 15 6)) else none
  | 10 => some (.ldw (fld w 6 3) (fld w 9 6) (fld w 15 6) (fld w 21 6))
  | 11 => if bits w 26 21 = 0 then some (.lodge (fld w 6 3) (fld w 9 6) (fld w 15 6)) else none
  | 12 => if bits w 14 9 = 0 ∧ bits w 26 21 = 0 then some (.pfg (fld w 6 3) (fld w 15 6)) else none
  | 13 => some (.lq (fld w 6 3) (fld w 9 6) (fld w 15 6) (fld w 21 6))
  | _ => none

/-- The class of a 32-bit word selects its format (R25 to R27). -/
noncomputable def decodeClass (w : Nat) : Option Instr :=
  match bits w 5 1 with
  | 0 => decodeIA w
  | 1 => decodeIB w
  | 2 => decodeIC w
  | 3 => decodeFA w
  | 4 => decodeFB w
  | 5 => decodeVU w
  | 6 => decodeCMPS w
  | 7 => decodeCMPN w
  | 8 => decodeCMPF w
  | 9 => decodeCMPQ w
  | 10 => decodeVI w
  | 11 => decodeSR w
  | 12 => decodeSI w
  | 13 => decodeSLI w
  | 14 => decodeXS w
  | 15 => decodeSEL w
  | 16 => decodeBRA w
  | 17 => decodeBRX w
  | 18 => decodeJR w
  | 19 => decodeCALL w
  | 20 => decodeLDG w
  | 21 => decodeSTG w
  | 22 => decodeLDS w
  | 23 => decodeSTS w
  | 24 => decodePRV w
  | 25 => decodeATOM w
  | 26 => decodeATOMS w
  | 27 => decodeSYNC w
  | 28 => decodeQUE w
  | 29 => decodeXCP w
  | 30 => decodeMMA w
  | _ => decodeSYS w

/-- Keeps a well-formed instruction (R46). -/
def keepWellFormed : Option Instr → Option Instr
  | some i => if wellFormed i then some i else none
  | none => none

/-- A 32-bit pattern: an instruction exactly when R46 says so. -/
noncomputable def decodeLong (w : Nat) : Option Instr := keepWellFormed (decodeClass w)

/-- Length in bytes of the instruction whose first halfword is `h` (R15). -/
def insLength (h : Nat) : Nat := if h % 2 = 0 then 2 else 4

/-- The instruction of `n` bytes with bits `w`, bit 0 first (R15, R18, R46). -/
noncomputable def decodeWord (n w : Nat) : Option Instr := if n = 2 then some (decodeShort w) else decodeLong w

/-- Little-endian value of bytes (R11). -/
def wordOfBytes : List Byte → Nat
  | [] => 0
  | b :: r => b.toNat + 256 * wordOfBytes r

/-- The low `n` bytes of a value, lowest address first (R11). -/
def bytesOfWord (w : Nat) : Nat → List Byte
  | 0 => []
  | n + 1 => BitVec.ofNat 8 w :: bytesOfWord (w / 256) n

/-- Decodes the instruction at the front of a byte list and gives the rest; none where the bytes are too few or are not an
instruction (R15, R46). -/
noncomputable def decodeBytes (l : List Byte) : Option (Instr × List Byte) :=
  match l with
  | b0 :: b1 :: r =>
    if b0.toNat % 2 = 0 then some (decodeShort (wordOfBytes [b0, b1]), r)
    else
      match r with
      | b2 :: b3 :: r' => (decodeLong (wordOfBytes [b0, b1, b2, b3])).map fun i => (i, r')
      | _ => none
  | _ => none

/-- The instruction that the decoder reads from the word `w` of an opcode-table row of `nbits` bits: its four bytes (those
above `nbits` are 0), little-endian, are given to the decoder. -/
noncomputable def decodeTableWord (nbits w : Nat) : Option Instr :=
  (decodeBytes (bytesOfWord (w % 2 ^ nbits) 4)).map fun p => p.1

/-- First address of the doorbells (R185). -/
def doorbellBase : Nat := 0x00FFFFFFFFFFFF00

/-- Whether a write message is a post word (R185): 8 bytes at the doorbell of a queue. -/
def isPostWord (m : Msg) : Bool :=
  m.length == 8 && m.payload.length == 8 && decide (doorbellBase ≤ m.address.toNat) &&
    decide (m.address.toNat < doorbellBase + 64) && decide (m.address.toNat % 8 = 0)

/-- The management command that a message of kind 7 carries (R183, R184), by its code. -/
def classifyCommand (m : Msg) : Instr :=
  match wordOfBytes (m.payload.take 2) with
  | 0x0001 => .claim m
  | 0x0002 => .renew m
  | 0x0003 => .releaseOwnership m
  | 0x0004 => .nameSuccessor m
  | 0x0010 => .createContext m
  | 0x0011 => .resetContext m
  | 0x0012 => .resumeContext m
  | 0x0013 => .haltContext m
  | 0x0014 => .resumeGroup m
  | 0x0015 => .setShare m
  | 0x0016 => .setWindow m
  | 0x0017 => .admitHost m
  | 0x0018 => .setQueue m
  | 0x0019 => .setRegion m
  | 0x001A => .setPeer m
  | 0x001B => .shootdown m
  | 0x001C => .writePhysical m
  | 0x001D => .readPhysical m
  | 0x001E => .loadObject m
  | 0x001F => .pageReply m
  | 0x0020 => .setWatchdog m
  | 0x0021 => .setRecoveryWindow m
  | 0x0022 => .setPort m
  | 0x0023 => .updateFirmware m
  | 0x0030 => .readState m
  | 0x0031 => .readViolations m
  | 0x0032 => .attest m
  | 0x0033 => .readEventLog m
  | _ => .malformedMessage m

/-- The step that an arriving Dzingewin message starts (R167, R168, R183 to R185). A message of kind 6, an unknown kind, a
nonzero reserved flag or an unknown command code is malformed. -/
def classify (m : Msg) : Instr :=
  if m.flags.toNat / 4 ≠ 0 then .malformedMessage m
  else
    match m.kind.toNat with
    | 1 => .dzwRead m
    | 2 => if isPostWord m then .postWord m else .dzwWrite m
    | 3 => .dzwAtomicAdd m
    | 4 => .dzwCas m
    | 5 => .dzwCompletion m
    | 7 => classifyCommand m
    | _ => .malformedMessage m

/-- The number whose bits are some fields, from bit 0 on: each entry is a width and a value (R11). -/
def pack : List (Nat × Nat) → Nat
  | [] => 0
  | (n, v) :: r => v % 2 ^ n + 2 ^ n * pack r

/-- The words of an instruction: its length in bytes, and its fields from bit 0 on, each with its width, written from the encoding
tables (R18, R25 to R43); the steps of the other agents have none. -/
def encodeFields : Instr → Option (Nat × List (Nat × Nat))
  | .shortMov d b => some (2, [(1, 0), (4, 0), (6, d.toNat), (5, b.toNat)])
  | .shortAddI32 d b => some (2, [(1, 0), (4, 1), (6, d.toNat), (5, b.toNat)])
  | .shortSubI32 d b => some (2, [(1, 0), (4, 2), (6, d.toNat), (5, b.toNat)])
  | .shortAnd d b => some (2, [(1, 0), (4, 3), (6, d.toNat), (5, b.toNat)])
  | .shortOr d b => some (2, [(1, 0), (4, 4), (6, d.toNat), (5, b.toNat)])
  | .shortXor d b => some (2, [(1, 0), (4, 5), (6, d.toNat), (5, b.toNat)])
  | .shortShl d b => some (2, [(1, 0), (4, 6), (6, d.toNat), (5, b.toNat)])
  | .shortShrN32 d b => some (2, [(1, 0), (4, 7), (6, d.toNat), (5, b.toNat)])
  | .shortShrS32 d b => some (2, [(1, 0), (4, 8), (6, d.toNat), (5, b.toNat)])
  | .movi d i => some (2, [(1, 0), (4, 9), (6, d.toNat), (5, i.toNat)])
  | .shortAddi d i => some (2, [(1, 0), (4, 10), (6, d.toNat), (5, i.toNat)])
  | .shortShli d i => some (2, [(1, 0), (4, 11), (6, d.toNat), (5, i.toNat)])
  | .shortFaddF32 d b => some (2, [(1, 0), (4, 12), (6, d.toNat), (5, b.toNat)])
  | .shortFmulF32 d b => some (2, [(1, 0), (4, 13), (6, d.toNat), (5, b.toNat)])
  | .shortFmaxF32 d b => some (2, [(1, 0), (4, 14), (6, d.toNat), (5, b.toNat)])
  | .shortFminF32 d b => some (2, [(1, 0), (4, 15), (6, d.toNat), (5, b.toNat)])
  | .addI32 g d a b x y => some (4, [(1, 1), (5, 0), (3, g.toNat), (6, d.toNat), (6, a.toNat), (6, b.toNat), (1, x.toNat), (1, y.toNat), (3, 0)])
  | .subI32 g d a b x y => some (4, [(1, 1), (5, 0), (3, g.toNat), (6, d.toNat), (6, a.toNat), (6, b.toNat), (1, x.toNat), (1, y.toNat), (3, 1)])
  | .mulI32 g d a b x y => some (4, [(1, 1), (5, 0), (3, g.toNat), (6, d.toNat), (6, a.toNat), (6, b.toNat), (1, x.toNat), (1, y.toNat), (3, 2)])
  | .mulhS32 g d a b x y => some (4, [(1, 1), (5, 0), (3, g.toNat), (6, d.toNat), (6, a.toNat), (6, b.toNat), (1, x.toNat), (1, y.toNat), (3, 3)])
  | .mulhN32 g d a b x y => some (4, [(1, 1), (5, 0), (3, g.toNat), (6, d.toNat), (6, a.toNat), (6, b.toNat), (1, x.toNat), (1, y.toNat), (3, 4)])
  | .minS32 g d a b x y => some (4, [(1, 1), (5, 0), (3, g.toNat), (6, d.toNat), (6, a.toNat), (6, b.toNat), (1, x.toNat), (1, y.toNat), (3, 5)])
  | .maxS32 g d a b x y => some (4, [(1, 1), (5, 0), (3, g.toNat), (6, d.toNat), (6, a.toNat), (6, b.toNat), (1, x.toNat), (1, y.toNat), (3, 6)])
  | .madI32 g d a b x y => some (4, [(1, 1), (5, 0), (3, g.toNat), (6, d.toNat), (6, a.toNat), (6, b.toNat), (1, x.toNat), (1, y.toNat), (3, 7)])
  | .and g d a b x y => some (4, [(1, 1), (5, 1), (3, g.toNat), (6, d.toNat), (6, a.toNat), (6, b.toNat), (1, x.toNat), (1, y.toNat), (3, 0)])
  | .or g d a b x y => some (4, [(1, 1), (5, 1), (3, g.toNat), (6, d.toNat), (6, a.toNat), (6, b.toNat), (1, x.toNat), (1, y.toNat), (3, 1)])
  | .xor g d a b x y => some (4, [(1, 1), (5, 1), (3, g.toNat), (6, d.toNat), (6, a.toNat), (6, b.toNat), (1, x.toNat), (1, y.toNat), (3, 2)])
  | .shl g d a b x y => some (4, [(1, 1), (5, 1), (3, g.toNat), (6, d.toNat), (6, a.toNat), (6, b.toNat), (1, x.toNat), (1, y.toNat), (3, 3)])
  | .shrN32 g d a b x y => some (4, [(1, 1), (5, 1), (3, g.toNat), (6, d.toNat), (6, a.toNat), (6, b.toNat), (1, x.toNat), (1, y.toNat), (3, 4)])
  | .shrS32 g d a b x y => some (4, [(1, 1), (5, 1), (3, g.toNat), (6, d.toNat), (6, a.toNat), (6, b.toNat), (1, x.toNat), (1, y.toNat), (3, 5)])
  | .minN32 g d a b x y => some (4, [(1, 1), (5, 1), (3, g.toNat), (6, d.toNat), (6, a.toNat), (6, b.toNat), (1, x.toNat), (1, y.toNat), (3, 6)])
  | .maxN32 g d a b x y => some (4, [(1, 1), (5, 1), (3, g.toNat), (6, d.toNat), (6, a.toNat), (6, b.toNat), (1, x.toNat), (1, y.toNat), (3, 7)])
  | .addI32Ic g d a b x => some (4, [(1, 1), (5, 2), (3, g.toNat), (6, d.toNat), (6, a.toNat), (6, b.toNat), (1, x.toNat), (1, 0), (3, 0)])
  | .subI32Ic g d a b x => some (4, [(1, 1), (5, 2), (3, g.toNat), (6, d.toNat), (6, a.toNat), (6, b.toNat), (1, x.toNat), (1, 0), (3, 1)])
  | .mulI32Ic g d a b x => some (4, [(1, 1), (5, 2), (3, g.toNat), (6, d.toNat), (6, a.toNat), (6, b.toNat), (1, x.toNat), (1, 0), (3, 2)])
  | .andIc g d a b x => some (4, [(1, 1), (5, 2), (3, g.toNat), (6, d.toNat), (6, a.toNat), (6, b.toNat), (1, x.toNat), (1, 0), (3, 3)])
  | .orIc g d a b x => some (4, [(1, 1), (5, 2), (3, g.toNat), (6, d.toNat), (6, a.toNat), (6, b.toNat), (1, x.toNat), (1, 0), (3, 4)])
  | .shlIc g d a b x => some (4, [(1, 1), (5, 2), (3, g.toNat), (6, d.toNat), (6, a.toNat), (6, b.toNat), (1, x.toNat), (1, 0), (3, 5)])
  | .madI32Ic g d a b x => some (4, [(1, 1), (5, 2), (3, g.toNat), (6, d.toNat), (6, a.toNat), (6, b.toNat), (1, x.toNat), (1, 0), (3, 6)])
  | .addw g d a b x => some (4, [(1, 1), (5, 2), (3, g.toNat), (6, d.toNat), (6, a.toNat), (6, b.toNat), (1, x.toNat), (1, 0), (3, 7)])
  | .faddF32 g d a b x y => some (4, [(1, 1), (5, 3), (3, g.toNat), (6, d.toNat), (6, a.toNat), (6, b.toNat), (1, x.toNat), (1, y.toNat), (3, 0)])
  | .fsubF32 g d a b x y => some (4, [(1, 1), (5, 3), (3, g.toNat), (6, d.toNat), (6, a.toNat), (6, b.toNat), (1, x.toNat), (1, y.toNat), (3, 1)])
  | .fmulF32 g d a b x y => some (4, [(1, 1), (5, 3), (3, g.toNat), (6, d.toNat), (6, a.toNat), (6, b.toNat), (1, x.toNat), (1, y.toNat), (3, 2)])
  | .ffmaF32 g d a b x y => some (4, [(1, 1), (5, 3), (3, g.toNat), (6, d.toNat), (6, a.toNat), (6, b.toNat), (1, x.toNat), (1, y.toNat), (3, 3)])
  | .ffmsF32 g d a b x y => some (4, [(1, 1), (5, 3), (3, g.toNat), (6, d.toNat), (6, a.toNat), (6, b.toNat), (1, x.toNat), (1, y.toNat), (3, 4)])
  | .fminF32 g d a b x y => some (4, [(1, 1), (5, 3), (3, g.toNat), (6, d.toNat), (6, a.toNat), (6, b.toNat), (1, x.toNat), (1, y.toNat), (3, 5)])
  | .fmaxF32 g d a b x y => some (4, [(1, 1), (5, 3), (3, g.toNat), (6, d.toNat), (6, a.toNat), (6, b.toNat), (1, x.toNat), (1, y.toNat), (3, 6)])
  | .packBf16x2 g d a b x y => some (4, [(1, 1), (5, 3), (3, g.toNat), (6, d.toNat), (6, a.toNat), (6, b.toNat), (1, x.toNat), (1, y.toNat), (3, 7)])
  | .faddF32Fb g d a b x => some (4, [(1, 1), (5, 4), (3, g.toNat), (6, d.toNat), (6, a.toNat), (6, b.toNat), (1, x.toNat), (1, 0), (3, 0)])
  | .fsubF32Fb g d a b x => some (4, [(1, 1), (5, 4), (3, g.toNat), (6, d.toNat), (6, a.toNat), (6, b.toNat), (1, x.toNat), (1, 0), (3, 1)])
  | .fmulF32Fb g d a b x => some (4, [(1, 1), (5, 4), (3, g.toNat), (6, d.toNat), (6, a.toNat), (6, b.toNat), (1, x.toNat), (1, 0), (3, 2)])
  | .ffmaF32Fb g d a b x => some (4, [(1, 1), (5, 4), (3, g.toNat), (6, d.toNat), (6, a.toNat), (6, b.toNat), (1, x.toNat), (1, 0), (3, 3)])
  | .ffmsF32Fb g d a b x => some (4, [(1, 1), (5, 4), (3, g.toNat), (6, d.toNat), (6, a.toNat), (6, b.toNat), (1, x.toNat), (1, 0), (3, 4)])
  | .fminF32Fb g d a b x => some (4, [(1, 1), (5, 4), (3, g.toNat), (6, d.toNat), (6, a.toNat), (6, b.toNat), (1, x.toNat), (1, 0), (3, 5)])
  | .fmaxF32Fb g d a b x => some (4, [(1, 1), (5, 4), (3, g.toNat), (6, d.toNat), (6, a.toNat), (6, b.toNat), (1, x.toNat), (1, 0), (3, 6)])
  | .fscaleF32 g d a b x => some (4, [(1, 1), (5, 4), (3, g.toNat), (6, d.toNat), (6, a.toNat), (6, b.toNat), (1, x.toNat), (1, 0), (3, 7)])
  | .mov g d a x => some (4, [(1, 1), (5, 5), (3, g.toNat), (6, d.toNat), (6, a.toNat), (6, 0), (1, x.toNat), (4, 0)])
  | .not g d a x => some (4, [(1, 1), (5, 5), (3, g.toNat), (6, d.toNat), (6, a.toNat), (6, 1), (1, x.toNat), (4, 0)])
  | .negI32 g d a x => some (4, [(1, 1), (5, 5), (3, g.toNat), (6, d.toNat), (6, a.toNat), (6, 2), (1, x.toNat), (4, 0)])
  | .absI32 g d a x => some (4, [(1, 1), (5, 5), (3, g.toNat), (6, d.toNat), (6, a.toNat), (6, 3), (1, x.toNat), (4, 0)])
  | .popc g d a x => some (4, [(1, 1), (5, 5), (3, g.toNat), (6, d.toNat), (6, a.toNat), (6, 4), (1, x.toNat), (4, 0)])
  | .clz g d a x => some (4, [(1, 1), (5, 5), (3, g.toNat), (6, d.toNat), (6, a.toNat), (6, 5), (1, x.toNat), (4, 0)])
  | .brev g d a x => some (4, [(1, 1), (5, 5), (3, g.toNat), (6, d.toNat), (6, a.toNat), (6, 6), (1, x.toNat), (4, 0)])
  | .sext8 g d a x => some (4, [(1, 1), (5, 5), (3, g.toNat), (6, d.toNat), (6, a.toNat), (6, 7), (1, x.toNat), (4, 0)])
  | .sext16 g d a x => some (4, [(1, 1), (5, 5), (3, g.toNat), (6, d.toNat), (6, a.toNat), (6, 8), (1, x.toNat), (4, 0)])
  | .fabs g d a x => some (4, [(1, 1), (5, 5), (3, g.toNat), (6, d.toNat), (6, a.toNat), (6, 9), (1, x.toNat), (4, 0)])
  | .fneg g d a x => some (4, [(1, 1), (5, 5), (3, g.toNat), (6, d.toNat), (6, a.toNat), (6, 10), (1, x.toNat), (4, 0)])
  | .frcp g d a x => some (4, [(1, 1), (5, 5), (3, g.toNat), (6, d.toNat), (6, a.toNat), (6, 11), (1, x.toNat), (4, 0)])
  | .frsq g d a x => some (4, [(1, 1), (5, 5), (3, g.toNat), (6, d.toNat), (6, a.toNat), (6, 12), (1, x.toNat), (4, 0)])
  | .fsqrt g d a x => some (4, [(1, 1), (5, 5), (3, g.toNat), (6, d.toNat), (6, a.toNat), (6, 13), (1, x.toNat), (4, 0)])
  | .fexp2 g d a x => some (4, [(1, 1), (5, 5), (3, g.toNat), (6, d.toNat), (6, a.toNat), (6, 14), (1, x.toNat), (4, 0)])
  | .flog2 g d a x => some (4, [(1, 1), (5, 5), (3, g.toNat), (6, d.toNat), (6, a.toNat), (6, 15), (1, x.toNat), (4, 0)])
  | .fsin g d a x => some (4, [(1, 1), (5, 5), (3, g.toNat), (6, d.toNat), (6, a.toNat), (6, 16), (1, x.toNat), (4, 0)])
  | .fcos g d a x => some (4, [(1, 1), (5, 5), (3, g.toNat), (6, d.toNat), (6, a.toNat), (6, 17), (1, x.toNat), (4, 0)])
  | .ftanh g d a x => some (4, [(1, 1), (5, 5), (3, g.toNat), (6, d.toNat), (6, a.toNat), (6, 18), (1, x.toNat), (4, 0)])
  | .ffloor g d a x => some (4, [(1, 1), (5, 5), (3, g.toNat), (6, d.toNat), (6, a.toNat), (6, 19), (1, x.toNat), (4, 0)])
  | .fceil g d a x => some (4, [(1, 1), (5, 5), (3, g.toNat), (6, d.toNat), (6, a.toNat), (6, 20), (1, x.toNat), (4, 0)])
  | .ftrunc g d a x => some (4, [(1, 1), (5, 5), (3, g.toNat), (6, d.toNat), (6, a.toNat), (6, 21), (1, x.toNat), (4, 0)])
  | .frint g d a x => some (4, [(1, 1), (5, 5), (3, g.toNat), (6, d.toNat), (6, a.toNat), (6, 22), (1, x.toNat), (4, 0)])
  | .ffract g d a x => some (4, [(1, 1), (5, 5), (3, g.toNat), (6, d.toNat), (6, a.toNat), (6, 23), (1, x.toNat), (4, 0)])
  | .cvtF32S32 g d a x => some (4, [(1, 1), (5, 5), (3, g.toNat), (6, d.toNat), (6, a.toNat), (6, 24), (1, x.toNat), (4, 0)])
  | .cvtF32N32 g d a x => some (4, [(1, 1), (5, 5), (3, g.toNat), (6, d.toNat), (6, a.toNat), (6, 25), (1, x.toNat), (4, 0)])
  | .cvtS32F32Rz g d a x => some (4, [(1, 1), (5, 5), (3, g.toNat), (6, d.toNat), (6, a.toNat), (6, 26), (1, x.toNat), (4, 0)])
  | .cvtS32F32Rn g d a x => some (4, [(1, 1), (5, 5), (3, g.toNat), (6, d.toNat), (6, a.toNat), (6, 27), (1, x.toNat), (4, 0)])
  | .cvtN32F32Rz g d a x => some (4, [(1, 1), (5, 5), (3, g.toNat), (6, d.toNat), (6, a.toNat), (6, 28), (1, x.toNat), (4, 0)])
  | .cvtBf16F32 g d a x => some (4, [(1, 1), (5, 5), (3, g.toNat), (6, d.toNat), (6, a.toNat), (6, 29), (1, x.toNat), (4, 0)])
  | .cvtF32Bf16Lo g d a x => some (4, [(1, 1), (5, 5), (3, g.toNat), (6, d.toNat), (6, a.toNat), (6, 30), (1, x.toNat), (4, 0)])
  | .cvtF32Bf16Hi g d a x => some (4, [(1, 1), (5, 5), (3, g.toNat), (6, d.toNat), (6, a.toNat), (6, 31), (1, x.toNat), (4, 0)])
  | .cvtF16F32 g d a x => some (4, [(1, 1), (5, 5), (3, g.toNat), (6, d.toNat), (6, a.toNat), (6, 32), (1, x.toNat), (4, 0)])
  | .cvtF32F16Lo g d a x => some (4, [(1, 1), (5, 5), (3, g.toNat), (6, d.toNat), (6, a.toNat), (6, 33), (1, x.toNat), (4, 0)])
  | .cvtF32F16Hi g d a x => some (4, [(1, 1), (5, 5), (3, g.toNat), (6, d.toNat), (6, a.toNat), (6, 34), (1, x.toNat), (4, 0)])
  | .cvtE4m3F32 g d a x => some (4, [(1, 1), (5, 5), (3, g.toNat), (6, d.toNat), (6, a.toNat), (6, 35), (1, x.toNat), (4, 0)])
  | .cvtF32E4m3 g d a x => some (4, [(1, 1), (5, 5), (3, g.toNat), (6, d.toNat), (6, a.toNat), (6, 36), (1, x.toNat), (4, 0)])
  | .cvtE5m2F32 g d a x => some (4, [(1, 1), (5, 5), (3, g.toNat), (6, d.toNat), (6, a.toNat), (6, 37), (1, x.toNat), (4, 0)])
  | .cvtF32E5m2 g d a x => some (4, [(1, 1), (5, 5), (3, g.toNat), (6, d.toNat), (6, a.toNat), (6, 38), (1, x.toNat), (4, 0)])
  | .fsat g d a x => some (4, [(1, 1), (5, 5), (3, g.toNat), (6, d.toNat), (6, a.toNat), (6, 39), (1, x.toNat), (4, 0)])
  | .cmps g p q a b t c => some (4, [(1, 1), (5, 6), (3, g.toNat), (3, p.toNat), (3, q.toNat), (6, a.toNat), (6, b.toNat), (3, t.toNat), (2, c.toNat)])
  | .cmpn g p q a b t c => some (4, [(1, 1), (5, 7), (3, g.toNat), (3, p.toNat), (3, q.toNat), (6, a.toNat), (6, b.toNat), (3, t.toNat), (2, c.toNat)])
  | .cmpf g p q a b t c => some (4, [(1, 1), (5, 8), (3, g.toNat), (3, p.toNat), (3, q.toNat), (6, a.toNat), (6, b.toNat), (3, t.toNat), (2, c.toNat)])
  | .cmpq g p q a b t c => some (4, [(1, 1), (5, 9), (3, g.toNat), (3, p.toNat), (3, q.toNat), (6, a.toNat), (6, b.toNat), (3, t.toNat), (2, c.toNat)])
  | .addi g d a i => some (4, [(1, 1), (5, 10), (3, g.toNat), (6, d.toNat), (6, a.toNat), (3, 0), (8, i.toNat)])
  | .andi g d a i => some (4, [(1, 1), (5, 10), (3, g.toNat), (6, d.toNat), (6, a.toNat), (3, 1), (8, i.toNat)])
  | .ori g d a i => some (4, [(1, 1), (5, 10), (3, g.toNat), (6, d.toNat), (6, a.toNat), (3, 2), (8, i.toNat)])
  | .xori g d a i => some (4, [(1, 1), (5, 10), (3, g.toNat), (6, d.toNat), (6, a.toNat), (3, 3), (8, i.toNat)])
  | .shli g d a i => some (4, [(1, 1), (5, 10), (3, g.toNat), (6, d.toNat), (6, a.toNat), (3, 4), (5, i.toNat), (3, 0)])
  | .shriN32 g d a i => some (4, [(1, 1), (5, 10), (3, g.toNat), (6, d.toNat), (6, a.toNat), (3, 5), (5, i.toNat), (3, 0)])
  | .shriS32 g d a i => some (4, [(1, 1), (5, 10), (3, g.toNat), (6, d.toNat), (6, a.toNat), (3, 6), (5, i.toNat), (3, 0)])
  | .muli g d a i => some (4, [(1, 1), (5, 10), (3, g.toNat), (6, d.toNat), (6, a.toNat), (3, 7), (8, i.toNat)])
  | .addSr g d a b => some (4, [(1, 1), (5, 11), (3, g.toNat), (6, d.toNat), (6, a.toNat), (6, b.toNat), (5, 0)])
  | .subSr g d a b => some (4, [(1, 1), (5, 11), (3, g.toNat), (6, d.toNat), (6, a.toNat), (6, b.toNat), (5, 1)])
  | .mulSr g d a b => some (4, [(1, 1), (5, 11), (3, g.toNat), (6, d.toNat), (6, a.toNat), (6, b.toNat), (5, 2)])
  | .mulhSSr g d a b => some (4, [(1, 1), (5, 11), (3, g.toNat), (6, d.toNat), (6, a.toNat), (6, b.toNat), (5, 3)])
  | .mulhNSr g d a b => some (4, [(1, 1), (5, 11), (3, g.toNat), (6, d.toNat), (6, a.toNat), (6, b.toNat), (5, 4)])
  | .andSr g d a b => some (4, [(1, 1), (5, 11), (3, g.toNat), (6, d.toNat), (6, a.toNat), (6, b.toNat), (5, 5)])
  | .orSr g d a b => some (4, [(1, 1), (5, 11), (3, g.toNat), (6, d.toNat), (6, a.toNat), (6, b.toNat), (5, 6)])
  | .xorSr g d a b => some (4, [(1, 1), (5, 11), (3, g.toNat), (6, d.toNat), (6, a.toNat), (6, b.toNat), (5, 7)])
  | .andnSr g d a b => some (4, [(1, 1), (5, 11), (3, g.toNat), (6, d.toNat), (6, a.toNat), (6, b.toNat), (5, 8)])
  | .shlSr g d a b => some (4, [(1, 1), (5, 11), (3, g.toNat), (6, d.toNat), (6, a.toNat), (6, b.toNat), (5, 9)])
  | .shrNSr g d a b => some (4, [(1, 1), (5, 11), (3, g.toNat), (6, d.toNat), (6, a.toNat), (6, b.toNat), (5, 10)])
  | .shrSSr g d a b => some (4, [(1, 1), (5, 11), (3, g.toNat), (6, d.toNat), (6, a.toNat), (6, b.toNat), (5, 11)])
  | .minSSr g d a b => some (4, [(1, 1), (5, 11), (3, g.toNat), (6, d.toNat), (6, a.toNat), (6, b.toNat), (5, 12)])
  | .maxSSr g d a b => some (4, [(1, 1), (5, 11), (3, g.toNat), (6, d.toNat), (6, a.toNat), (6, b.toNat), (5, 13)])
  | .minNSr g d a b => some (4, [(1, 1), (5, 11), (3, g.toNat), (6, d.toNat), (6, a.toNat), (6, b.toNat), (5, 14)])
  | .maxNSr g d a b => some (4, [(1, 1), (5, 11), (3, g.toNat), (6, d.toNat), (6, a.toNat), (6, b.toNat), (5, 15)])
  | .divSSr g d a b => some (4, [(1, 1), (5, 11), (3, g.toNat), (6, d.toNat), (6, a.toNat), (6, b.toNat), (5, 16)])
  | .divNSr g d a b => some (4, [(1, 1), (5, 11), (3, g.toNat), (6, d.toNat), (6, a.toNat), (6, b.toNat), (5, 17)])
  | .remSSr g d a b => some (4, [(1, 1), (5, 11), (3, g.toNat), (6, d.toNat), (6, a.toNat), (6, b.toNat), (5, 18)])
  | .remNSr g d a b => some (4, [(1, 1), (5, 11), (3, g.toNat), (6, d.toNat), (6, a.toNat), (6, b.toNat), (5, 19)])
  | .clzSr g d a => some (4, [(1, 1), (5, 11), (3, g.toNat), (6, d.toNat), (6, a.toNat), (6, 0), (5, 20)])
  | .popcSr g d a => some (4, [(1, 1), (5, 11), (3, g.toNat), (6, d.toNat), (6, a.toNat), (6, 0), (5, 21)])
  | .movSr g d a => some (4, [(1, 1), (5, 11), (3, g.toNat), (6, d.toNat), (6, a.toNat), (6, 0), (5, 22)])
  | .bfx g d a b => some (4, [(1, 1), (5, 11), (3, g.toNat), (6, d.toNat), (6, a.toNat), (6, b.toNat), (5, 23)])
  | .addiSi g d a i => some (4, [(1, 1), (5, 12), (3, g.toNat), (6, d.toNat), (6, a.toNat), (3, 0), (8, i.toNat)])
  | .andiSi g d a i => some (4, [(1, 1), (5, 12), (3, g.toNat), (6, d.toNat), (6, a.toNat), (3, 1), (8, i.toNat)])
  | .oriSi g d a i => some (4, [(1, 1), (5, 12), (3, g.toNat), (6, d.toNat), (6, a.toNat), (3, 2), (8, i.toNat)])
  | .xoriSi g d a i => some (4, [(1, 1), (5, 12), (3, g.toNat), (6, d.toNat), (6, a.toNat), (3, 3), (8, i.toNat)])
  | .shliSi g d a i => some (4, [(1, 1), (5, 12), (3, g.toNat), (6, d.toNat), (6, a.toNat), (3, 4), (6, i.toNat), (2, 0)])
  | .shriNSi g d a i => some (4, [(1, 1), (5, 12), (3, g.toNat), (6, d.toNat), (6, a.toNat), (3, 5), (6, i.toNat), (2, 0)])
  | .shriSSi g d a i => some (4, [(1, 1), (5, 12), (3, g.toNat), (6, d.toNat), (6, a.toNat), (3, 6), (6, i.toNat), (2, 0)])
  | .muliSi g d a i => some (4, [(1, 1), (5, 12), (3, g.toNat), (6, d.toNat), (6, a.toNat), (3, 7), (8, i.toNat)])
  | .li g d i => some (4, [(1, 1), (5, 13), (3, g.toNat), (6, d.toNat), (2, 0), (15, i.toNat)])
  | .lis g d i => some (4, [(1, 1), (5, 13), (3, g.toNat), (6, d.toNat), (2, 1), (15, i.toNat)])
  | .addis g d i => some (4, [(1, 1), (5, 13), (3, g.toNat), (6, d.toNat), (2, 2), (15, i.toNat)])
  | .bcast g d a => some (4, [(1, 1), (5, 14), (3, g.toNat), (6, d.toNat), (6, a.toNat), (8, 0), (3, 0)])
  | .rdlane g d a b x => some (4, [(1, 1), (5, 14), (3, g.toNat), (6, d.toNat), (6, a.toNat), (6, b.toNat), (1, x.toNat), (1, 0), (3, 1)])
  | .wrlane g d a b => some (4, [(1, 1), (5, 14), (3, g.toNat), (6, d.toNat), (6, a.toNat), (6, b.toNat), (2, 0), (3, 2)])
  | .shfl g d a b x y => some (4, [(1, 1), (5, 14), (3, g.toNat), (6, d.toNat), (6, a.toNat), (6, b.toNat), (1, x.toNat), (1, y.toNat), (3, 3)])
  | .shflX g d a b x y => some (4, [(1, 1), (5, 14), (3, g.toNat), (6, d.toNat), (6, a.toNat), (6, b.toNat), (1, x.toNat), (1, y.toNat), (3, 4)])
  | .ballot g d a => some (4, [(1, 1), (5, 14), (3, g.toNat), (6, d.toNat), (3, a.toNat), (11, 0), (3, 5)])
  | .redi g d a x => some (4, [(1, 1), (5, 14), (3, g.toNat), (6, d.toNat), (6, a.toNat), (6, 0), (1, x.toNat), (1, 0), (3, 6)])
  | .redf g d a x => some (4, [(1, 1), (5, 14), (3, g.toNat), (6, d.toNat), (6, a.toNat), (6, 0), (1, x.toNat), (1, 0), (3, 7)])
  | .sel g d a b x y s => some (4, [(1, 1), (5, 15), (3, g.toNat), (6, d.toNat), (6, a.toNat), (6, b.toNat), (1, x.toNat), (1, y.toNat), (3, s.toNat)])
  | .braP g o => some (4, [(1, 1), (5, 16), (3, g.toNat), (1, 0), (22, o.toNat)])
  | .braC g o => some (4, [(1, 1), (5, 16), (3, g.toNat), (1, 1), (22, o.toNat)])
  | .brx g o j => some (4, [(1, 1), (5, 17), (3, g.toNat), (12, o.toNat), (11, j.toNat)])
  | .join => some (4, [(1, 1), (5, 18), (15, 7), (3, 0), (8, 0)])
  | .jmpr g a => some (4, [(1, 1), (5, 18), (3, g.toNat), (6, a.toNat), (6, 0), (3, 1), (8, 0)])
  | .callr g a => some (4, [(1, 1), (5, 18), (3, g.toNat), (6, a.toNat), (6, 0), (3, 2), (8, 0)])
  | .ret g => some (4, [(1, 1), (5, 18), (3, g.toNat), (12, 0), (3, 3), (8, 0)])
  | .brxr g a b => some (4, [(1, 1), (5, 18), (3, g.toNat), (6, a.toNat), (6, b.toNat), (3, 4), (8, 0)])
  | .exit g s => some (4, [(1, 1), (5, 18), (3, g.toNat), (12, 0), (3, 5), (3, s.toNat), (5, 0)])
  | .trap g i => some (4, [(1, 1), (5, 18), (3, g.toNat), (12, 0), (3, 6), (8, i.toNat)])
  | .yield g i => some (4, [(1, 1), (5, 18), (3, g.toNat), (12, 0), (3, 7), (8, i.toNat)])
  | .call g o => some (4, [(1, 1), (5, 19), (3, g.toNat), (1, 0), (22, o.toNat)])
  | .ldgN8 g p d o s r => some (4, [(1, 1), (5, 20), (3, g.toNat), (6, d.toNat), (6, o.toNat), (5, s.toNat), (3, 0), (2, p.toNat), (1, r.toNat)])
  | .ldgS8 g p d o s r => some (4, [(1, 1), (5, 20), (3, g.toNat), (6, d.toNat), (6, o.toNat), (5, s.toNat), (3, 1), (2, p.toNat), (1, r.toNat)])
  | .ldgN16 g p d o s r => some (4, [(1, 1), (5, 20), (3, g.toNat), (6, d.toNat), (6, o.toNat), (5, s.toNat), (3, 2), (2, p.toNat), (1, r.toNat)])
  | .ldgS16 g p d o s r => some (4, [(1, 1), (5, 20), (3, g.toNat), (6, d.toNat), (6, o.toNat), (5, s.toNat), (3, 3), (2, p.toNat), (1, r.toNat)])
  | .ldgB32 g p d o s r => some (4, [(1, 1), (5, 20), (3, g.toNat), (6, d.toNat), (6, o.toNat), (5, s.toNat), (3, 4), (2, p.toNat), (1, r.toNat)])
  | .ldgB64 g p d o s r => some (4, [(1, 1), (5, 20), (3, g.toNat), (6, d.toNat), (6, o.toNat), (5, s.toNat), (3, 5), (2, p.toNat), (1, r.toNat)])
  | .ldgB128 g p d o s r => some (4, [(1, 1), (5, 20), (3, g.toNat), (6, d.toNat), (6, o.toNat), (5, s.toNat), (3, 6), (2, p.toNat), (1, r.toNat)])
  | .stgB8 g p d o s r => some (4, [(1, 1), (5, 21), (3, g.toNat), (6, d.toNat), (6, o.toNat), (5, s.toNat), (3, 0), (2, p.toNat), (1, r.toNat)])
  | .stgB16 g p d o s r => some (4, [(1, 1), (5, 21), (3, g.toNat), (6, d.toNat), (6, o.toNat), (5, s.toNat), (3, 2), (2, p.toNat), (1, r.toNat)])
  | .stgB32 g p d o s r => some (4, [(1, 1), (5, 21), (3, g.toNat), (6, d.toNat), (6, o.toNat), (5, s.toNat), (3, 4), (2, p.toNat), (1, r.toNat)])
  | .stgB64 g p d o s r => some (4, [(1, 1), (5, 21), (3, g.toNat), (6, d.toNat), (6, o.toNat), (5, s.toNat), (3, 5), (2, p.toNat), (1, r.toNat)])
  | .stgB128 g p d o s r => some (4, [(1, 1), (5, 21), (3, g.toNat), (6, d.toNat), (6, o.toNat), (5, s.toNat), (3, 6), (2, p.toNat), (1, r.toNat)])
  | .ldsN8 g d a i => some (4, [(1, 1), (5, 22), (3, g.toNat), (6, d.toNat), (6, a.toNat), (3, 0), (8, i.toNat)])
  | .ldsS8 g d a i => some (4, [(1, 1), (5, 22), (3, g.toNat), (6, d.toNat), (6, a.toNat), (3, 1), (8, i.toNat)])
  | .ldsN16 g d a i => some (4, [(1, 1), (5, 22), (3, g.toNat), (6, d.toNat), (6, a.toNat), (3, 2), (8, i.toNat)])
  | .ldsS16 g d a i => some (4, [(1, 1), (5, 22), (3, g.toNat), (6, d.toNat), (6, a.toNat), (3, 3), (8, i.toNat)])
  | .ldsB32 g d a i => some (4, [(1, 1), (5, 22), (3, g.toNat), (6, d.toNat), (6, a.toNat), (3, 4), (8, i.toNat)])
  | .ldsB64 g d a i => some (4, [(1, 1), (5, 22), (3, g.toNat), (6, d.toNat), (6, a.toNat), (3, 5), (8, i.toNat)])
  | .ldsB128 g d a i => some (4, [(1, 1), (5, 22), (3, g.toNat), (6, d.toNat), (6, a.toNat), (3, 6), (8, i.toNat)])
  | .stsB8 g d a i => some (4, [(1, 1), (5, 23), (3, g.toNat), (6, d.toNat), (6, a.toNat), (3, 0), (8, i.toNat)])
  | .stsB16 g d a i => some (4, [(1, 1), (5, 23), (3, g.toNat), (6, d.toNat), (6, a.toNat), (3, 2), (8, i.toNat)])
  | .stsB32 g d a i => some (4, [(1, 1), (5, 23), (3, g.toNat), (6, d.toNat), (6, a.toNat), (3, 4), (8, i.toNat)])
  | .stsB64 g d a i => some (4, [(1, 1), (5, 23), (3, g.toNat), (6, d.toNat), (6, a.toNat), (3, 5), (8, i.toNat)])
  | .stsB128 g d a i => some (4, [(1, 1), (5, 23), (3, g.toNat), (6, d.toNat), (6, a.toNat), (3, 6), (8, i.toNat)])
  | .ldpB32 g d a i => some (4, [(1, 1), (5, 24), (3, g.toNat), (6, d.toNat), (6, a.toNat), (3, 0), (8, i.toNat)])
  | .ldpB64 g d a i => some (4, [(1, 1), (5, 24), (3, g.toNat), (6, d.toNat), (6, a.toNat), (3, 1), (8, i.toNat)])
  | .ldpB128 g d a i => some (4, [(1, 1), (5, 24), (3, g.toNat), (6, d.toNat), (6, a.toNat), (3, 2), (8, i.toNat)])
  | .stpB32 g d a i => some (4, [(1, 1), (5, 24), (3, g.toNat), (6, d.toNat), (6, a.toNat), (3, 4), (8, i.toNat)])
  | .stpB64 g d a i => some (4, [(1, 1), (5, 24), (3, g.toNat), (6, d.toNat), (6, a.toNat), (3, 5), (8, i.toNat)])
  | .stpB128 g d a i => some (4, [(1, 1), (5, 24), (3, g.toNat), (6, d.toNat), (6, a.toNat), (3, 6), (8, i.toNat)])
  | .atomAdd g d a o s n w => some (4, [(1, 1), (5, 25), (3, g.toNat), (6, d.toNat), (6, a.toNat), (4, 0), (1, w.toNat), (2, o.toNat), (3, s.toNat), (1, n.toNat)])
  | .atomMinS g d a o s n w => some (4, [(1, 1), (5, 25), (3, g.toNat), (6, d.toNat), (6, a.toNat), (4, 1), (1, w.toNat), (2, o.toNat), (3, s.toNat), (1, n.toNat)])
  | .atomMaxS g d a o s n w => some (4, [(1, 1), (5, 25), (3, g.toNat), (6, d.toNat), (6, a.toNat), (4, 2), (1, w.toNat), (2, o.toNat), (3, s.toNat), (1, n.toNat)])
  | .atomMinN g d a o s n w => some (4, [(1, 1), (5, 25), (3, g.toNat), (6, d.toNat), (6, a.toNat), (4, 3), (1, w.toNat), (2, o.toNat), (3, s.toNat), (1, n.toNat)])
  | .atomMaxN g d a o s n w => some (4, [(1, 1), (5, 25), (3, g.toNat), (6, d.toNat), (6, a.toNat), (4, 4), (1, w.toNat), (2, o.toNat), (3, s.toNat), (1, n.toNat)])
  | .atomAnd g d a o s n w => some (4, [(1, 1), (5, 25), (3, g.toNat), (6, d.toNat), (6, a.toNat), (4, 5), (1, w.toNat), (2, o.toNat), (3, s.toNat), (1, n.toNat)])
  | .atomOr g d a o s n w => some (4, [(1, 1), (5, 25), (3, g.toNat), (6, d.toNat), (6, a.toNat), (4, 6), (1, w.toNat), (2, o.toNat), (3, s.toNat), (1, n.toNat)])
  | .atomXor g d a o s n w => some (4, [(1, 1), (5, 25), (3, g.toNat), (6, d.toNat), (6, a.toNat), (4, 7), (1, w.toNat), (2, o.toNat), (3, s.toNat), (1, n.toNat)])
  | .atomXchg g d a o s n w => some (4, [(1, 1), (5, 25), (3, g.toNat), (6, d.toNat), (6, a.toNat), (4, 8), (1, w.toNat), (2, o.toNat), (3, s.toNat), (1, n.toNat)])
  | .atomCas g d a o s n w => some (4, [(1, 1), (5, 25), (3, g.toNat), (6, d.toNat), (6, a.toNat), (4, 9), (1, w.toNat), (2, o.toNat), (3, s.toNat), (1, n.toNat)])
  | .atomFaddF32 g d a o s n => some (4, [(1, 1), (5, 25), (3, g.toNat), (6, d.toNat), (6, a.toNat), (4, 10), (1, 0), (2, o.toNat), (3, s.toNat), (1, n.toNat)])
  | .atomFminF32 g d a o s n => some (4, [(1, 1), (5, 25), (3, g.toNat), (6, d.toNat), (6, a.toNat), (4, 11), (1, 0), (2, o.toNat), (3, s.toNat), (1, n.toNat)])
  | .atomFmaxF32 g d a o s n => some (4, [(1, 1), (5, 25), (3, g.toNat), (6, d.toNat), (6, a.toNat), (4, 12), (1, 0), (2, o.toNat), (3, s.toNat), (1, n.toNat)])
  | .atomLd g d a o s w => some (4, [(1, 1), (5, 25), (3, g.toNat), (6, d.toNat), (6, a.toNat), (4, 13), (1, w.toNat), (2, o.toNat), (3, s.toNat), (1, 0)])
  | .atomSt g d a o s n w => some (4, [(1, 1), (5, 25), (3, g.toNat), (6, d.toNat), (6, a.toNat), (4, 14), (1, w.toNat), (2, o.toNat), (3, s.toNat), (1, n.toNat)])
  | .atomsAdd g d a o s n w => some (4, [(1, 1), (5, 26), (3, g.toNat), (6, d.toNat), (6, a.toNat), (4, 0), (1, w.toNat), (2, o.toNat), (3, s.toNat), (1, n.toNat)])
  | .atomsMinS g d a o s n w => some (4, [(1, 1), (5, 26), (3, g.toNat), (6, d.toNat), (6, a.toNat), (4, 1), (1, w.toNat), (2, o.toNat), (3, s.toNat), (1, n.toNat)])
  | .atomsMaxS g d a o s n w => some (4, [(1, 1), (5, 26), (3, g.toNat), (6, d.toNat), (6, a.toNat), (4, 2), (1, w.toNat), (2, o.toNat), (3, s.toNat), (1, n.toNat)])
  | .atomsMinN g d a o s n w => some (4, [(1, 1), (5, 26), (3, g.toNat), (6, d.toNat), (6, a.toNat), (4, 3), (1, w.toNat), (2, o.toNat), (3, s.toNat), (1, n.toNat)])
  | .atomsMaxN g d a o s n w => some (4, [(1, 1), (5, 26), (3, g.toNat), (6, d.toNat), (6, a.toNat), (4, 4), (1, w.toNat), (2, o.toNat), (3, s.toNat), (1, n.toNat)])
  | .atomsAnd g d a o s n w => some (4, [(1, 1), (5, 26), (3, g.toNat), (6, d.toNat), (6, a.toNat), (4, 5), (1, w.toNat), (2, o.toNat), (3, s.toNat), (1, n.toNat)])
  | .atomsOr g d a o s n w => some (4, [(1, 1), (5, 26), (3, g.toNat), (6, d.toNat), (6, a.toNat), (4, 6), (1, w.toNat), (2, o.toNat), (3, s.toNat), (1, n.toNat)])
  | .atomsXor g d a o s n w => some (4, [(1, 1), (5, 26), (3, g.toNat), (6, d.toNat), (6, a.toNat), (4, 7), (1, w.toNat), (2, o.toNat), (3, s.toNat), (1, n.toNat)])
  | .atomsXchg g d a o s n w => some (4, [(1, 1), (5, 26), (3, g.toNat), (6, d.toNat), (6, a.toNat), (4, 8), (1, w.toNat), (2, o.toNat), (3, s.toNat), (1, n.toNat)])
  | .atomsCas g d a o s n w => some (4, [(1, 1), (5, 26), (3, g.toNat), (6, d.toNat), (6, a.toNat), (4, 9), (1, w.toNat), (2, o.toNat), (3, s.toNat), (1, n.toNat)])
  | .atomsFaddF32 g d a o s n => some (4, [(1, 1), (5, 26), (3, g.toNat), (6, d.toNat), (6, a.toNat), (4, 10), (1, 0), (2, o.toNat), (3, s.toNat), (1, n.toNat)])
  | .atomsFminF32 g d a o s n => some (4, [(1, 1), (5, 26), (3, g.toNat), (6, d.toNat), (6, a.toNat), (4, 11), (1, 0), (2, o.toNat), (3, s.toNat), (1, n.toNat)])
  | .atomsFmaxF32 g d a o s n => some (4, [(1, 1), (5, 26), (3, g.toNat), (6, d.toNat), (6, a.toNat), (4, 12), (1, 0), (2, o.toNat), (3, s.toNat), (1, n.toNat)])
  | .atomsLd g d a o s w => some (4, [(1, 1), (5, 26), (3, g.toNat), (6, d.toNat), (6, a.toNat), (4, 13), (1, w.toNat), (2, o.toNat), (3, s.toNat), (1, 0)])
  | .atomsSt g d a o s n w => some (4, [(1, 1), (5, 26), (3, g.toNat), (6, d.toNat), (6, a.toNat), (4, 14), (1, w.toNat), (2, o.toNat), (3, s.toNat), (1, n.toNat)])
  | .fence g a b o s k => some (4, [(1, 1), (5, 27), (3, g.toNat), (6, a.toNat), (6, b.toNat), (2, k.toNat), (1, 0), (3, s.toNat), (2, o.toNat), (3, 0)])
  | .marm g a => some (4, [(1, 1), (5, 27), (3, g.toNat), (6, a.toNat), (14, 0), (3, 1)])
  | .mwait g a b => some (4, [(1, 1), (5, 27), (3, g.toNat), (6, a.toNat), (6, b.toNat), (8, 0), (3, 2)])
  | .bsealCopy g a => some (4, [(1, 1), (5, 27), (3, g.toNat), (6, a.toNat), (14, 0), (3, 3)])
  | .bsealMat g a => some (4, [(1, 1), (5, 27), (3, g.toNat), (6, a.toNat), (14, 64), (3, 3)])
  | .bwaitCopy g a => some (4, [(1, 1), (5, 27), (3, g.toNat), (6, a.toNat), (14, 0), (3, 4)])
  | .bwaitMat g a => some (4, [(1, 1), (5, 27), (3, g.toNat), (6, a.toNat), (14, 64), (3, 4)])
  | .bar g b k => some (4, [(1, 1), (5, 27), (3, g.toNat), (6, 0), (6, b.toNat), (3, k.toNat), (5, 0), (3, 5)])
  | .barLanes g a => some (4, [(1, 1), (5, 27), (3, g.toNat), (6, a.toNat), (6, 0), (3, 7), (5, 0), (3, 5)])
  | .tgateArriveWait g => some (4, [(1, 1), (5, 27), (3, g.toNat), (20, 0), (3, 6)])
  | .tgateArrive g => some (4, [(1, 1), (5, 27), (3, g.toNat), (20, 4096), (3, 6)])
  | .tgateWait g => some (4, [(1, 1), (5, 27), (3, g.toNat), (20, 8192), (3, 6)])
  | .wdrain g a b s => some (4, [(1, 1), (5, 27), (3, g.toNat), (6, a.toNat), (6, b.toNat), (3, 0), (3, s.toNat), (2, 0), (3, 7)])
  | .qpush g q d => some (4, [(1, 1), (5, 28), (3, g.toNat), (6, d.toNat), (4, q.toNat), (3, 0), (10, 0)])
  | .qpop g q d => some (4, [(1, 1), (5, 28), (3, g.toNat), (6, d.toNat), (4, q.toNat), (3, 1), (10, 0)])
  | .qtpush g q d c => some (4, [(1, 1), (5, 28), (3, g.toNat), (6, d.toNat), (4, q.toNat), (3, 2), (3, c.toNat), (7, 0)])
  | .qtpop g q d c => some (4, [(1, 1), (5, 28), (3, g.toNat), (6, d.toNat), (4, q.toNat), (3, 3), (3, c.toNat), (7, 0)])
  | .qinit g q d i => some (4, [(1, 1), (5, 28), (3, g.toNat), (6, d.toNat), (4, q.toNat), (3, 4), (7, i.toNat), (3, 0)])
  | .qstat g q d => some (4, [(1, 1), (5, 28), (3, g.toNat), (6, d.toNat), (4, q.toNat), (3, 5), (10, 0)])
  | .xcpCopy g a b e r => some (4, [(1, 1), (5, 29), (3, g.toNat), (6, a.toNat), (6, b.toNat), (5, 0), (2, r.toNat), (4, e.toNat)])
  | .xcpStrided g a b e r => some (4, [(1, 1), (5, 29), (3, g.toNat), (6, a.toNat), (6, b.toNat), (5, 1), (2, r.toNat), (4, e.toNat)])
  | .xcpSwizzle g a b e r => some (4, [(1, 1), (5, 29), (3, g.toNat), (6, a.toNat), (6, b.toNat), (5, 2), (2, r.toNat), (4, e.toNat)])
  | .xcpCbexp g a b e r => some (4, [(1, 1), (5, 29), (3, g.toNat), (6, a.toNat), (6, b.toNat), (5, 3), (2, r.toNat), (4, e.toNat)])
  | .xcpTxb4c g a b e r => some (4, [(1, 1), (5, 29), (3, g.toNat), (6, a.toNat), (6, b.toNat), (5, 4), (2, r.toNat), (4, e.toNat)])
  | .xcpTxb4x g a b e r => some (4, [(1, 1), (5, 29), (3, g.toNat), (6, a.toNat), (6, b.toNat), (5, 5), (2, r.toNat), (4, e.toNat)])
  | .xcpSgnpk g a b e r => some (4, [(1, 1), (5, 29), (3, g.toNat), (6, a.toNat), (6, b.toNat), (5, 6), (2, r.toNat), (4, e.toNat)])
  | .xcpSgnun g a b e r => some (4, [(1, 1), (5, 29), (3, g.toNat), (6, a.toNat), (6, b.toNat), (5, 7), (2, r.toNat), (4, e.toNat)])
  | .xcpShenc g a b e r => some (4, [(1, 1), (5, 29), (3, g.toNat), (6, a.toNat), (6, b.toNat), (5, 8), (2, r.toNat), (4, e.toNat)])
  | .xcpShdec g a b e r => some (4, [(1, 1), (5, 29), (3, g.toNat), (6, a.toNat), (6, b.toNat), (5, 9), (2, r.toNat), (4, e.toNat)])
  | .xcpGather g a b e r => some (4, [(1, 1), (5, 29), (3, g.toNat), (6, a.toNat), (6, b.toNat), (5, 10), (2, r.toNat), (4, e.toNat)])
  | .xcpFill g a b e r => some (4, [(1, 1), (5, 29), (3, g.toNat), (6, a.toNat), (6, b.toNat), (5, 11), (2, r.toNat), (4, e.toNat)])
  | .mma g z a b r => some (4, [(1, 1), (5, 30), (3, g.toNat), (4, z.toNat), (6, a.toNat), (6, b.toNat), (4, 0), (3, r.toNat)])
  | .mmaBt g z a b r => some (4, [(1, 1), (5, 30), (3, g.toNat), (4, z.toNat), (6, a.toNat), (6, b.toNat), (4, 1), (3, r.toNat)])
  | .mmaRs g z a b r => some (4, [(1, 1), (5, 30), (3, g.toNat), (4, z.toNat), (6, a.toNat), (6, b.toNat), (4, 2), (3, r.toNat)])
  | .mdf g z a b r => some (4, [(1, 1), (5, 30), (3, g.toNat), (4, z.toNat), (6, a.toNat), (6, b.toNat), (4, 3), (3, r.toNat)])
  | .mdfSp g z a b r => some (4, [(1, 1), (5, 30), (3, g.toNat), (4, z.toNat), (6, a.toNat), (6, b.toNat), (4, 4), (3, r.toNat)])
  | .msmx g z a b => some (4, [(1, 1), (5, 30), (3, g.toNat), (4, z.toNat), (6, a.toNat), (6, b.toNat), (4, 5), (3, 0)])
  | .mzero g z => some (4, [(1, 1), (5, 30), (3, g.toNat), (4, z.toNat), (12, 0), (4, 6), (3, 0)])
  | .mld g z a => some (4, [(1, 1), (5, 30), (3, g.toNat), (4, z.toNat), (6, a.toNat), (6, 0), (4, 7), (3, 0)])
  | .mst g z a r => some (4, [(1, 1), (5, 30), (3, g.toNat), (4, z.toNat), (6, a.toNat), (6, 0), (4, 8), (3, r.toNat)])
  | .mside g z a => some (4, [(1, 1), (5, 30), (3, g.toNat), (4, z.toNat), (6, a.toNat), (6, 0), (4, 9), (3, 0)])
  | .gsr g d i => some (4, [(1, 1), (5, 31), (3, g.toNat), (6, d.toNat), (6, i.toNat), (6, 0), (5, 0)])
  | .ssrGstat g b => some (4, [(1, 1), (5, 31), (3, g.toNat), (12, 576), (6, b.toNat), (5, 1)])
  | .ssrGc g b => some (4, [(1, 1), (5, 31), (3, g.toNat), (12, 640), (6, b.toNat), (5, 1)])
  | .ssrFm g b => some (4, [(1, 1), (5, 31), (3, g.toNat), (12, 704), (6, b.toNat), (5, 1)])
  | .ssrMst g b => some (4, [(1, 1), (5, 31), (3, g.toNat), (12, 768), (6, b.toNat), (5, 1)])
  | .wid g d k => some (4, [(1, 1), (5, 31), (3, g.toNat), (6, d.toNat), (6, k.toNat), (6, 0), (5, 2)])
  | .topo g d k => some (4, [(1, 1), (5, 31), (3, g.toNat), (6, d.toNat), (6, k.toNat), (6, 0), (5, 3)])
  | .chk g p a => some (4, [(1, 1), (5, 31), (3, g.toNat), (3, p.toNat), (3, 0), (6, a.toNat), (6, 0), (5, 4)])
  | .idem g => some (4, [(1, 1), (5, 31), (3, g.toNat), (18, 0), (5, 5)])
  | .idemx g => some (4, [(1, 1), (5, 31), (3, g.toNat), (18, 0), (5, 6)])
  | .brk g h l => some (4, [(1, 1), (5, 31), (3, g.toNat), (6, 0), (6, l.toNat), (6, h.toNat), (5, 7)])
  | .launch g d a b => some (4, [(1, 1), (5, 31), (3, g.toNat), (6, d.toNat), (6, a.toNat), (6, b.toNat), (5, 8)])
  | .evpost g a => some (4, [(1, 1), (5, 31), (3, g.toNat), (6, 0), (6, a.toNat), (6, 0), (5, 9)])
  | .ldw g d a b => some (4, [(1, 1), (5, 31), (3, g.toNat), (6, d.toNat), (6, a.toNat), (6, b.toNat), (5, 10)])
  | .lodge g d a => some (4, [(1, 1), (5, 31), (3, g.toNat), (6, d.toNat), (6, a.toNat), (6, 0), (5, 11)])
  | .pfg g a => some (4, [(1, 1), (5, 31), (3, g.toNat), (6, 0), (6, a.toNat), (6, 0), (5, 12)])
  | .lq g d a b => some (4, [(1, 1), (5, 31), (3, g.toNat), (6, d.toNat), (6, a.toNat), (6, b.toNat), (5, 13)])
  | .dzwRead _ => none
  | .dzwWrite _ => none
  | .dzwAtomicAdd _ => none
  | .dzwCas _ => none
  | .dzwCompletion _ => none
  | .malformedMessage _ => none
  | .postWord _ => none
  | .dzwAcknowledgement _ _ => none
  | .retransmission _ _ => none
  | .recoveryWindowExpiry _ _ => none
  | .pauseFrame _ _ => none
  | .linkStateChange _ _ => none
  | .claim _ => none
  | .renew _ => none
  | .releaseOwnership _ => none
  | .nameSuccessor _ => none
  | .createContext _ => none
  | .resetContext _ => none
  | .resumeContext _ => none
  | .haltContext _ => none
  | .resumeGroup _ => none
  | .setShare _ => none
  | .setWindow _ => none
  | .admitHost _ => none
  | .setQueue _ => none
  | .setRegion _ => none
  | .setPeer _ => none
  | .shootdown _ => none
  | .writePhysical _ => none
  | .readPhysical _ => none
  | .loadObject _ => none
  | .pageReply _ => none
  | .setWatchdog _ => none
  | .setRecoveryWindow _ => none
  | .setPort _ => none
  | .updateFirmware _ => none
  | .readState _ => none
  | .readViolations _ => none
  | .attest _ => none
  | .readEventLog _ => none
  | .leaseLapse => none
  | .successorGraceExpiry => none
  | .bringUp => none
  | .clockChange _ => none
  | .waybillTake _ _ => none
  | .waybillReady _ => none
  | .openLaunch _ => none
  | .crewPlacement _ _ => none
  | .preemptionHalt _ => none
  | .shadowSwap _ => none
  | .crewResume _ => none
  | .aggregatorBatchClose _ => none
  | .tollgatePhaseCompletion _ => none
  | .groupCompletion _ => none
  | .launchCompletion _ => none
  | .splitRotation _ _ => none
  | .swapOut _ => none
  | .swapIn _ => none
  | .loadDataArrival _ _ => none
  | .countHalving => none
  | .droverMove _ => none
  | .replicaInvalidation _ _ _ => none
  | .waferCacheEviction _ => none
  | .drainDemand _ _ _ _ => none
  | .drainAcknowledgement _ _ _ _ => none
  | .recall _ _ => none
  | .bankRetirement _ => none
  | .shareRequest _ _ _ _ => none
  | .shareGrant _ _ _ _ => none
  | .weirRun _ _ _ _ _ _ => none
  | .spillAcknowledgement _ _ _ => none
  | .sluice _ _ _ => none
  | .returnNotice _ _ _ => none
  | .resumeNotice _ _ _ => none
  | .drainRequest _ _ _ _ => none
  | .copyCommandExecute _ => none
  | .matrixOperationExecute _ => none
  | .monitorWake _ _ => none
  | .mwaitTimeout _ => none
  | .remoteWatchPoll _ => none
  | .eventAckTimeout _ => none
  | .watchdogExpiry _ => none
  | .parkLimitExpiry _ => none
  | .faultEventPost _ => none
  | .idempotentRestart _ => none
  | .debugHaltSettled _ => none
  | .quiesceTokenReturn _ => none
  | .dressingPass _ => none
  | .dressingResult _ _ => none
  | .illegalEncoding _ => none
  | .instructionFetchFault _ _ _ => none

/-- The length in bytes and the bits of an instruction; the steps of the other agents have none. -/
def encode (i : Instr) : Option (Nat × Nat) := (encodeFields i).map fun e => (e.1, pack e.2)

end Sys2Proof
end

