-- ==== Sys2Proof/Machine/Ecdsa.lean ====
section
/-! DEFINITION. ECDSA on P-521 with SHA-512 (R1, R173, R179, R180, R183). PRESUMED (log 12): the curve and the scheme are those of
FIPS 186, which the spec names and does not spell out. -/

namespace Sys2Proof.Machine

/-- The prime of the field. -/
def curvePrime : Nat := 2 ^ 521 - 1

/-- The order of the base point. -/
def curveOrder : Nat :=
  0x1FFFFFFFFFFFFFFFFFFFFFFFFFFFFFFFFFFFFFFFFFFFFFFFFFFFFFFFFFFFFFFFFFA51868783BF2F966B7FCC0148F709A5D03BB5C9B8899C47AEBB6FB71E91386409

/-- The base point. -/
def curveBase : Nat × Nat :=
  (0xC6858E06B70404E9CD9E3ECB662395B4429C648139053FB521F828AF606B4D3DBAA14B5E77EFE75928FE1DC127A2FFA8DE3348B3C1856A429BF97E7E31C2E5BD66,
   0x11839296A789A3BC0045C8A5FB42C7D1BD998F54449579B446817AFBD17273E662C97EE72995EF42640C550B9013FAD0761353C7086A272C24088BE94769FD16650)

/-- The numbers of the bits of a scalar, the highest first. -/
def curveBits : List Nat := (List.range 521).reverse

/-- A power modulo `m`. -/
def powMod (m x e : Nat) : Nat :=
  curveBits.foldl (fun a i => if e.testBit i then a * a % m * x % m else a * a % m) 1

/-- A difference in the field. -/
def fieldSub (a b : Nat) : Nat := (a + curvePrime - b % curvePrime) % curvePrime

/-- Twice a point of the curve y² = x³ − 3x + b, in Jacobian coordinates (x = X/Z², y = Y/Z³; Z = 0 at infinity). -/
def pointDouble (p : Nat × Nat × Nat) : Nat × Nat × Nat :=
  let zz := p.2.2 * p.2.2 % curvePrime
  let yy := p.2.1 * p.2.1 % curvePrime
  let b := p.1 * yy % curvePrime
  let a := 3 * (fieldSub p.1 zz * (p.1 + zz)) % curvePrime
  let x := fieldSub (a * a) (8 * b)
  (x, fieldSub (a * fieldSub (4 * b) x) (8 * (yy * yy)), 2 * (p.2.1 * p.2.2) % curvePrime)

/-- The sum of two points. -/
def pointAdd (p q : Nat × Nat × Nat) : Nat × Nat × Nat :=
  if p.2.2 = 0 then q
  else if q.2.2 = 0 then p
  else
    let pz := p.2.2 * p.2.2 % curvePrime
    let qz := q.2.2 * q.2.2 % curvePrime
    let u := p.1 * qz % curvePrime
    let v := p.2.1 * (qz * q.2.2 % curvePrime) % curvePrime
    let h := fieldSub (q.1 * pz) u
    let r := fieldSub (q.2.1 * (pz * p.2.2 % curvePrime)) v
    if h = 0 then (if r = 0 then pointDouble p else (1, 1, 0))
    else
      let hh := h * h % curvePrime
      let hhh := h * hh % curvePrime
      let w := u * hh % curvePrime
      let x := fieldSub (r * r) (hhh + 2 * w)
      (x, fieldSub (r * fieldSub w x) (v * hhh), h * (p.2.2 * q.2.2 % curvePrime) % curvePrime)

/-- u times the base point and v times a point, together. -/
def pointSum (u v : Nat) (q : Nat × Nat) : Nat × Nat × Nat :=
  curveBits.foldl (fun a i =>
    let d := pointDouble a
    let e := if u.testBit i then pointAdd d (curveBase.1, curveBase.2, 1) else d
    if v.testBit i then pointAdd e (q.1, q.2, 1) else e) (1, 1, 0)

/-- The first coordinate of a point that is not at infinity, modulo the order. -/
def pointX (p : Nat × Nat × Nat) : Nat :=
  p.1 * powMod curvePrime (p.2.2 * p.2.2 % curvePrime) (curvePrime - 2) % curvePrime % curveOrder

/-- The number that big-endian bytes give. -/
def beNat (b : List Byte) : Nat := leNat b.reverse

/-- The number that ECDSA signs: the SHA-512 digest, which is shorter than the order. -/
def digestNat (b : List Byte) : Nat := beNat (sha512 b)

/-- Whether (r, s) is a signature of a digest under a public key. -/
def ecdsaValid (key : Nat × Nat) (digest r s : Nat) : Bool :=
  decide (0 < r) && decide (r < curveOrder) && decide (0 < s) && decide (s < curveOrder) &&
    let w := powMod curveOrder s (curveOrder - 2)
    let p := pointSum (digest * w % curveOrder) (r * w % curveOrder) key
    p.2.2 != 0 && pointX p == r

/-- Whether a signature of 132 bytes, r then s, verifies over bytes (R183). -/
def ecdsaVerify (key : Nat × Nat) (bytes sig : List Byte) : Bool :=
  sig.length == 132 && ecdsaValid key (digestNat bytes) (beNat (sig.take 66)) (beNat (sig.drop 66))

/-- The pair (r, s) that a private key makes with a nonce. -/
def ecdsaPair (key nonce digest : Nat) : Nat × Nat :=
  let r := pointX (pointSum nonce 0 curveBase)
  (r, powMod curveOrder nonce (curveOrder - 2) * (digest + r * key) % curveOrder)

/-- The signature of bytes that the wafer's identity key makes (R180, R183, R184), with the nonce of the model's tick (log 12). -/
def identitySign (tick : Nat) (bytes : List Byte) : List Byte :=
  let x := ecdsaPair (1 + Config.identityKey % (curveOrder - 1)) (1 + Config.nonce tick bytes % (curveOrder - 1)) (digestNat bytes)
  (leBytes x.1 66).reverse ++ (leBytes x.2 66).reverse

/-- Whether the signature that a firmware image carries verifies (R179; log 12). -/
def firmwareSigned (image : List Byte) : Bool :=
  ecdsaVerify Config.firmwareKey (Config.firmwareParts image).1 (Config.firmwareParts image).2

end Sys2Proof.Machine
end

