-- ==== Sys2Proof/Machine/Matrix.lean ====
section
/-! DEFINITION. The matrix engine: the issue checks of the MMA class, and the execution of its operations unit by unit (R251 to
R276, R369 to R372). -/

namespace Sys2Proof.Machine

/-! ## Fields of `%fm` (R251) -/

def fmDfd (f : Word) : Nat := natBits f.toNat 15 14
def fmDfn (f : Word) : Nat := natBits f.toNat 21 16
def fmDftrap (f : Word) : Bool := f.getLsbD 22

/-- mop4 of the operations (R260, R264, R269, R270). -/
def mopMma : Nat := 0
def mopBt : Nat := 1
def mopRs : Nat := 2
def mopMdf : Nat := 3
def mopSp : Nat := 4
def mopMsmx : Nat := 5
def mopMzero : Nat := 6
def mopMld : Nat := 7
def mopMst : Nat := 8
def mopMside : Nat := 9

def isDense (op : Nat) : Bool := decide (op ≤ mopRs)
def isDiff (op : Nat) : Bool := op == mopMdf || op == mopSp

/-! ## ILLEGAL at issue (R252, R253) -/

/-- The pairings of dense operations with their accumulators. -/
def pairing (fa fb fc : Nat) : Bool :=
  let f8 (x : Nat) : Bool := x == 2 || x == 3 || x == 4
  let real := fc == 0 || fc == 1
  (decide (fa ≤ 1) && decide (fb ≤ 1) && real) || (f8 fa && f8 fb && real) ||
  (((fa == 6 && f8 fb) || (f8 fa && fb == 6)) && real) || (fa == 6 && fb == 6 && fc == 2) || (fa == 5 && fb == 5 && real)

/-- Whether a tile name meets the rules of R252. -/
def tileOk (tiles fc za : Nat) : Bool :=
  decide (za < tiles) && (fc != 1 || (za % 2 == 0 && decide (za + 1 < tiles)))

/-- The conditions of an operation on the fields that it consumes. -/
def matrixLegal (op rep : Nat) (fm : Word) (tiles za : Nat) (sb : DWord) : Bool :=
  let fa := fmFa fm
  let fb := fmFb fm
  let fc := fmFc fm
  fc != 3 && tileOk tiles fc za &&
  (if isDense op then pairing fa fb fc && !(op == mopRs && fc == 2)
   else if isDiff op then
     decide (fa ≤ 1) && (fb == 7 || fb == 8) && fmDfd fm == fb - 7 && fc != 2 && (op != mopSp || decide (fmDfn fm ≤ 47))
   else if op = mopMsmx then fc == 0 && decide (natBits sb.toNat 63 36 = 0) && tileOk tiles fc (natBits sb.toNat 35 32)
   else if op = mopMst then !(fc == 2 && (rep % 2 == 1 || rep / 2 == 1 || rep / 2 == 2))
   else true)

/-! ## Descriptors (R257) -/

/-- A descriptor: base, row stride, and whether it names scratch. -/
structure Desc where
  base    : Nat
  stride  : Nat
  scratch : Bool
  /-- bits [62:32] of the second register -/
  zero    : Nat
  deriving DecidableEq, Repr

def descOf (x y : DWord) : Desc where
  base := x.toNat
  stride := natBits y.toNat 31 0
  scratch := y.getLsbD 63
  zero := natBits y.toNat 62 32

/-- Bytes of `n` consecutive elements of a dense operand's row (R261, R70). -/
def rowBytes (f n : Nat) : Nat := if f ≤ 1 then 2 * n else if f = 4 then 34 * (n / 32) else if f = 5 then 18 * (n / 32) else n

/-- k-block of a format (R75). -/
def kBlock (f : Nat) : Nat := if f ≤ 1 then 16 else if f = 5 then 64 else 32

/-- Bytes of a tile element in memory under fc (R270). -/
def tileBytes (fc : Nat) : Nat := if fc = 1 then 8 else 4

/-- Bytes of an output element of `mst` (R271). -/
def outBytes (rep fc : Nat) : Nat := if rep / 2 = 0 then tileBytes fc else 2

/-- Bytes of a difference-form record (R264). -/
def recordBytes (op : Nat) (fm : Word) : Nat := if op = mopMdf then 224 else if fmDfn fm + 1 ≤ 25 then 288 else 544

/-- What an operation needs of one of its descriptors: alignment, whether all octets share its rows, number of rows, bytes of a
row, and whether it must be scratch (R261, R264, R269 to R271). -/
structure Need4 where
  align  : Nat
  shared : Bool
  rows   : Nat
  bytes  : Nat
  onlyScratch : Bool

/-- The needs of an operation's descriptors, sA first. -/
def needsOf (op rep : Nat) (fm : Word) : List Need4 :=
  let fa := fmFa fm
  let fb := fmFb fm
  let fc := fmFc fm
  let k := kBlock fa * 2 ^ rep
  let al (f : Nat) : Nat := if f ≤ 1 then 2 else 1
  let own (a n : Nat) : Need4 := { align := a, shared := false, rows := 16, bytes := n, onlyScratch := false }
  if isDense op then
    [own (al fa) (rowBytes fa k),
     if op = mopBt then { align := al fb, shared := true, rows := 32, bytes := rowBytes fb k, onlyScratch := false }
     else { align := al fb, shared := true, rows := k, bytes := rowBytes fb 32, onlyScratch := false }]
  else if isDiff op then
    [own 2 (2 * (384 * 2 ^ rep)),
     { align := 32, shared := true, rows := 32, bytes := 2 ^ rep * recordBytes op fm, onlyScratch := false }]
  else if op = mopMsmx then [{ align := 2, shared := false, rows := 16, bytes := 64, onlyScratch := true }]
  else if op = mopMld then [own (tileBytes fc) (32 * tileBytes fc)]
  else if op = mopMst then [own (outBytes rep fc) (32 * outBytes rep fc)]
  else if op = mopMside then [own 16 16]
  else []

/-- The first byte of a row, from row `r` on, that leaves the space (R258). -/
def firstOutside (d : Desc) (lim bytes : Nat) : Nat → Nat → Option Nat
  | 0, _ => none
  | n + 1, r =>
    if lim < d.base + r * d.stride + bytes then some (max lim (d.base + r * d.stride)) else firstOutside d lim bytes n (r + 1)

/-- Extent of a descriptor for an octet: the failing address. -/
def extentStop (scratch : Nat) (o : Nat) (x : Desc × Need4) : Option Nat :=
  let (d, n) := x
  if n.onlyScratch && !d.scratch then some d.base
  else firstOutside d (if d.scratch then scratch else addressEnd) n.bytes n.rows (if n.shared then 0 else 16 * o)

/-- The octets that hold an active lane (R256). -/
def octetsOf (width : Nat) (mask : DWord) : List Nat :=
  (List.range (width / 8)).filter fun o => natBits mask.toNat (8 * o + 7) (8 * o) != 0

/-- Steps 4 to 6 of R258: cause, octet and address. -/
def descStop (scratch : Nat) (octs : List Nat) (l : List (Desc × Need4)) : Option (Nat × Nat × Nat) :=
  match l.find? fun x => x.1.zero != 0 with
  | some x => some (causeADDR, octs.headD 0, x.1.base)
  | none =>
    match l.find? fun x => x.1.base % x.2.align != 0 || x.1.stride % x.2.align != 0 with
    | some x => some (causeALIGN, octs.headD 0, x.1.base)
    | none => octs.findSome? fun o => (l.findSome? (extentStop scratch o)).map fun a => (causeADDR, o, a)

/-- Key of a tile of an octet. -/
def tileKey (za octet : Nat) : Nat := za + 16 * octet

/-- The keys of the tiles that a name stands for: a pair under fc = 1 (R254). -/
def tileKeys (fc za octet : Nat) : List Nat := tileKey za octet :: if fc = 1 then [tileKey (za + 1) octet] else []

/-- The accumulators of an octet that an operation reads: tiles by their keys, side registers by 256 + key (R255, R262 to R271). -/
def matrixReads (op rep : Nat) (fm : Word) (za : Nat) (sb : DWord) (octet : Nat) : List Nat :=
  let tiles := tileKeys (fmFc fm) za octet
  let sides := 256 + tileKey za octet
  if op = mopRs then sides :: tiles
  else if isDense op || isDiff op then tiles
  else if op = mopMsmx then [256 + tileKey (natBits sb.toNat 35 32) octet, tileKey za octet]
  else if op = mopMst then (if rep % 2 = 1 then [sides] else []) ++ tiles
  else if op = mopMside then [sides]
  else []

/-- The accumulators of an octet that an operation writes whole, and with them the soft errors in them: `mzero` and `mld` do (R270,
R384). -/
def matrixHeals (op : Nat) (fm : Word) (za octet : Nat) : List Nat :=
  if op = mopMzero then (256 + tileKey za octet) :: tileKeys (fmFc fm) za octet
  else if op = mopMld then tileKeys (fmFc fm) za octet
  else []

/-- Whether an operation on some octets reads an accumulator with a soft error that no operation queued before it rewrites (R384).
-/
def View.tileDamaged (v : View) (op rep za : Nat) (sb : DWord) (octs : List Nat) : Bool :=
  !v.g.damage.isEmpty && octs.any fun o => (matrixReads op rep v.sl.fm za sb o).any fun k =>
    v.g.damage.contains (4, k) &&
      !((v.s.coreSt v.core).matQ.any fun x => x.group == v.gid && (matrixHeals x.code x.fm x.za x.octet).contains k)

/-- The body of an MMA instruction once its guard is true and its scalars are full (R256, R258). That the record of a damaged
accumulator names no lane is DESIGN CHOICE (log 29). -/
def matrixBody (op rep za a b : Nat) (v : View) : Res :=
  let fm := v.sl.fm
  let regs := [v.g.sval a, v.g.sval (a + 1), v.g.sval b, v.g.sval (b + 1)]
  let descs := [descOf (v.g.sval a) (v.g.sval (a + 1)), descOf (v.g.sval b) (v.g.sval (b + 1))]
  let octs := octetsOf v.width v.sl.mask
  trapIf v (!matrixLegal op rep fm (wbTiles v.wb) za (v.g.sval b)) causeILLEGAL 0 <|
  if v.tileDamaged op rep za (v.g.sval b) octs then softStop v noLane 4 v.sl.mask else
  match descStop (wbScratch v.wb) octs (descs.zip (needsOf op rep fm)) with
  | some (c, o, addr) => .stop v.s (.trap c (8 * o) v.sl.mask (BitVec.ofNat 64 addr) 0)
  | none =>
    if queueEntries < (v.s.coreSt v.core).matQ.length + octs.length then .stop v.s (.wait .engine)
    else .done (v.enqueue true ((List.range octs.length).map fun i =>
      v.newOp true (v.g.opCount + i) op rep regs za (octs.getD i 0)))

/-! ## Tiles and side registers (R254, R255) -/

def Group.tileWord (g : Group) (za octet k : Nat) : Word := tblGet (tblGet g.tiles (tileKey za octet) []) k 0
def Group.setTileWord (g : Group) (za octet k : Nat) (w : Word) : Group :=
  { g with tiles := tblSet g.tiles (tileKey za octet) (tblSet (tblGet g.tiles (tileKey za octet) []) k w) }

/-- Element (i, n) of a tile: 64 bits under fc = 1. -/
def Group.elem (g : Group) (fc za octet i n : Nat) : Nat :=
  if fc = 1 then (g.tileWord za octet (32 * i + n)).toNat + 4294967296 * (g.tileWord (za + 1) octet (32 * i + n)).toNat
  else (g.tileWord za octet (32 * i + n)).toNat

def Group.setElem (g : Group) (fc za octet i n x : Nat) : Group :=
  let g1 := g.setTileWord za octet (32 * i + n) (BitVec.ofNat 32 x)
  if fc = 1 then g1.setTileWord (za + 1) octet (32 * i + n) (BitVec.ofNat 32 (x / 4294967296)) else g1

/-- Kinds of side register: 0 rmx, 1 rsm, 2 rsc; their values at group start (R255). -/
def sideStart (kind : Nat) : Word :=
  match kind with
  | 0 => 0xFF800000
  | 1 => 0
  | _ => 0x3F800000

def Group.side (g : Group) (za octet kind i : Nat) : Word := tblGet (tblGet g.sides (tileKey za octet) []) (32 * kind + i) (sideStart kind)
def Group.setSide (g : Group) (za octet kind i : Nat) (w : Word) : Group :=
  { g with sides := tblSet g.sides (tileKey za octet) (tblSet (tblGet g.sides (tileKey za octet) []) (32 * kind + i) w) }

/-! ## Status (R272) -/

def mstDFMETA : DWord := 1
def mstNAN : DWord := 2
def mstOVF : DWord := 4
def mstSMXEMPTY : DWord := 8
def mstFAULT : DWord := 16

/-- The format of an accumulator that is not INT32. -/
def accFmt (fc : Nat) : Fmt := if fc = 1 then fp64 else fp32

/-- Status bits of a result in a format. -/
def mstBits (f : Fmt) (r : Nat × Flags) : DWord :=
  (if (unpack f r.1).isNan then mstNAN else 0) ||| (if r.2 &&& fOF = 0 then 0 else mstOVF)

/-- acc(z, t) in a floating-point format (R262). -/
def accReal (fc z : Nat) (t : FV) : Nat × DWord :=
  let f := accFmt fc
  let r := fvAdd f 0 false (unpack f z) t
  (r.1, mstBits f r)

/-! ## Dense operations (R261 to R263) -/

/-- Element j of a row's bytes (R261, R62, R69, R71). -/
def operand (f : Nat) (b : List Byte) (j : Nat) : FV :=
  if f = 0 then unpack bf16 (fieldAt b (2 * j) 2)
  else if f = 1 then unpack fp16 (fieldAt b (2 * j) 2)
  else if f = 2 then unpack e4m3 (fieldAt b j 1)
  else if f = 3 then unpack e5m2 (fieldAt b j 1)
  else if f = 4 then txb8Value (b.drop (34 * (j / 32))) (j % 32)
  else if f = 5 then txb4Value (b.drop (18 * (j / 32))) (j % 32)
  else
    let x := (BitVec.ofNat 8 (fieldAt b j 1)).toInt
    .num (decide (x < 0)) x.natAbs 0

/-- Sign of a value. -/
def FV.negative : FV → Bool
  | .num n _ _ => n
  | .inf n => n
  | .nan _ => false

/-- An exact product: a NaN, an infinity or a number (R262). -/
def fvProduct (a b : FV) : FV :=
  match a, b with
  | .num n1 m1 e1, .num n2 m2 e2 => .num (n1 != n2) (m1 * m2) (e1 + e2)
  | .nan _, _ => .nan false
  | _, .nan _ => .nan false
  | .inf n1, .num n2 m _ => if m = 0 then .nan false else .inf (n1 != n2)
  | .num n1 m _, .inf n2 => if m = 0 then .nan false else .inf (n1 != n2)
  | .inf n1, .inf n2 => .inf (n1 != n2)

/-- An exact sum; a zero sum is +0 (R262). -/
def fvSum (a b : FV) : FV :=
  match a, b with
  | .num n1 m1 e1, .num n2 m2 e2 =>
    if m1 = 0 then (if m2 = 0 then .num false 0 0 else b)
    else if m2 = 0 then a
    else
      let s := addExact (sgnInt n1 m1) e1 (sgnInt n2 m2) e2
      .num (decide (s.1 < 0)) s.1.natAbs s.2
  | .nan _, _ => .nan false
  | _, .nan _ => .nan false
  | .inf n1, .inf n2 => if n1 = n2 then .inf n1 else .nan false
  | .inf n, _ => .inf n
  | _, .inf n => .inf n

/-- Σ A(i, k) × B(k, n) over a block, exact. -/
def dotProduct : List FV → List FV → FV
  | a :: r, b :: q => fvSum (fvProduct a b) (dotProduct r q)
  | _, _ => .num false 0 0

/-- An exact integer value. -/
def FV.toInteger : FV → Int
  | .num n m e => if 0 ≤ e then sgnInt n (m * 2 ^ e.toNat) else sgnInt n (m / 2 ^ (-e).toNat)
  | _ => 0

/-- One accumulation into a tile element. -/
def Group.accumulate (g : Group) (fc za octet i n : Nat) (t : FV) : Group × DWord :=
  if fc = 2 then
    (g.setElem fc za octet i n ((BitVec.ofInt 32 (t.toInteger + (g.tileWord za octet (32 * i + n)).toInt)).toNat), 0)
  else
    let r := accReal fc (g.elem fc za octet i n) t
    (g.setElem fc za octet i n r.1, r.2)

/-- All 512 positions of a tile, each with its addend. -/
def Group.accumulateAll (g : Group) (fc za octet : Nat) (t : Nat → Nat → FV) : Group × DWord :=
  (List.range 512).foldl (fun (x : Group × DWord) p =>
    let r := x.1.accumulate fc za octet (p / 32) (p % 32) (t (p / 32) (p % 32))
    (r.1, x.2 ||| r.2)) (g, 0)

/-- The rescaling that stands before the first block of `mma.rs` (R263). -/
def Group.rescale (g : Group) (fc za octet : Nat) : Group × DWord :=
  let f := accFmt fc
  let out := (List.range 512).foldl (fun (x : Group × DWord) p =>
    let i := p / 32
    let r := fvMul f 0 false (unpack f (x.1.elem fc za octet i (p % 32))) (unpack fp32 (g.side za octet 2 i).toNat)
    (x.1.setElem fc za octet i (p % 32) r.1, x.2 ||| mstBits f r)) (g, 0)
  ((List.range 16).foldl (fun g i => g.setSide za octet 2 i (sideStart 2)) out.1, out.2)

/-! ## Fields of an operation -/

def EngOp.descA (op : EngOp) : Desc := descOf ((op.regs[0]?).getD 0) ((op.regs[1]?).getD 0)
def EngOp.descB (op : EngOp) : Desc := descOf ((op.regs[2]?).getD 0) ((op.regs[3]?).getD 0)

/-- A read of `n` bytes at byte `off` of row `r` of a descriptor. -/
def Desc.rd (d : Desc) (r off n : Nat) : Rd := { global := !d.scratch, mode := 0, addr := d.base + r * d.stride + off, n := n }
def Desc.wr (d : Desc) (r : Nat) (b : List Byte) : Wr := { global := !d.scratch, mode := 0, addr := d.base + r * d.stride, bytes := b }

/-- Units of an operation: k-blocks, 48-row groups or rows (R272, R274). -/
def EngOp.unitCount (op : EngOp) : Nat := if isDense op.code then 2 ^ op.mode else if isDiff op.code then 8 * 2 ^ op.mode else 16

/-- What a unit of a matrix operation brings: the group behind it and its status bits. -/
abbrev MatOut := Group × DWord

/-- The reads of A and of B of k-block r (R262). -/
def EngOp.denseReads (op : EngOp) (r : Nat) : List Rd × List Rd :=
  let fa := fmFa op.fm
  let fb := fmFb op.fm
  let kb := kBlock fa
  ((List.range 16).map fun i => op.descA.rd (16 * op.octet + i) (rowBytes fa (kb * r)) (rowBytes fa kb),
   if op.code = mopBt then (List.range 32).map fun n => op.descB.rd n (rowBytes fb (kb * r)) (rowBytes fb kb)
   else (List.range kb).map fun k => op.descB.rd (kb * r + k) 0 (rowBytes fb 32))

/-- A k-block of a dense operation (R262). -/
def denseUnit (core : Nat) (s : State) (op : EngOp) (g : Group) : Got MatOut :=
  let fa := fmFa op.fm
  let fb := fmFb op.fm
  let fc := fmFc op.fm
  let kb := kBlock fa
  let r := op.units
  (readAll core op true s (op.denseReads r).1).andThen fun s1 xa =>
    (readAll core op true s1 (op.denseReads r).2).andThen fun s2 xb =>
      let rows := xa.map fun b => (List.range kb).map (operand fa b)
      let cols := (List.range 32).map fun n =>
        (List.range kb).map fun k => if op.code = mopBt then operand fb (xb.getD n []) k else operand fb (xb.getD k []) n
      let (g1, b1) := if op.code = mopRs ∧ r = 0 then g.rescale fc op.za op.octet else (g, 0)
      let (g2, b2) := g1.accumulateAll fc op.za op.octet fun i n => dotProduct (rows.getD i []) (cols.getD n [])
      .ok s2 (g2, b1 ||| b2)

/-! ## Difference-form operations (R264 to R268) -/

/-- A column's group: its levels' steps and lowest level, exponent, and the class code of every listed element. -/
structure DiffCol where
  m  : Nat
  a  : Int
  ds : List Nat
  ew : Nat
  codes : List (Nat × Nat)

/-- Whether positions rise strictly and stay below 48 (R268). -/
def risingBelow48 : List Nat → Bool
  | [] => true
  | [p] => decide (p < 48)
  | p :: q :: r => decide (p < q) && risingBelow48 (q :: r)

/-- A record's header and one group field; none where the metadata is illegal (R265, R266, R268). `n` is none in a dense
record. -/
def diffCol (df8 : Bool) (n : Option Nat) (h f : List Byte) : Option DiffCol :=
  let m := fieldAt h 0 1 % 16 + 1
  let ds := (List.range (m - 1)).map fun j =>
    if df8 then fieldAt h (4 + j) 1 else natBits (fieldAt h (4 + j / 2) 1) (4 * (j % 2) + 3) (4 * (j % 2))
  let col (codes : List (Nat × Nat)) : DiffCol :=
    { m := m, a := (BitVec.ofNat 16 (fieldAt h 2 2)).toInt, ds := ds, ew := fieldAt h 1 1, codes := codes }
  match n with
  | none =>
    let codes := (List.range 48).map fun k => (k, streamBits f (4 * k) 4)
    if codes.any fun c => decide (m ≤ c.2) then none else some (col codes)
  | some n =>
    let codes := (List.range n).map fun t => (streamBits f (6 * t) 6, streamBits f (6 * n + 4 * t) 4)
    if (codes.any fun c => decide (m ≤ c.2)) || !risingBelow48 (codes.map fun c => c.1) then none else some (col codes)

/-- A row's 48 activations: special, all zero, or E and the integers q_k (R267). -/
inductive Scaled where
  | special
  | zero
  | vals (e : Int) (q : List Int)

def scaleRow (l : List FV) : Scaled :=
  if l.any FV.special then .special
  else
    match maxLog2 l with
    | none => .zero
    | some e =>
      .vals e (l.map fun v =>
        match v with
        | .num n m x => (roundInt 0 n m (x + 23 - e)).1
        | _ => 0)

/-- The bins of the class codes. -/
def binsOf (m : Nat) (q : List Int) (codes : List (Nat × Nat)) : List Int :=
  (List.range m).map fun c => ((codes.filter fun x => x.2 == c).map fun x => q.getD x.1 0).sum

/-- Running sums. -/
def runningSums : Int → List Int → List Int
  | _, [] => []
  | t, x :: r => (t + x) :: runningSums (t + x) r

/-- dot of R267. -/
def diffDot (c : DiffCol) (q : List Int) : Int :=
  let ss := runningSums 0 (binsOf c.m q c.codes)
  c.a * ss.getD (c.m - 1) 0 + ((List.range (c.m - 1)).map fun j => (c.ds.getD j 0 : Int) * ss.getD j 0).sum

/-- The contribution of a group to one element (R267). -/
def contribution (x : Scaled) (c : Option DiffCol) : FV :=
  match c with
  | none => .num false 0 0
  | some c =>
    match x with
    | .special => .nan false
    | .zero => .num false 0 0
    | .vals e q =>
      let d := diffDot c q
      .num (decide (d < 0)) d.natAbs (e - 23 + c.ew - 127)

/-- The reads of unit u of a difference-form operation: of A, of the headers and of the group fields of B (R265 to R267). -/
def EngOp.diffReads (op : EngOp) (u : Nat) : List Rd × List Rd × List Rd :=
  let r := u / 8
  let k := u % 8
  let size := recordBytes op.code op.fm
  let field := if op.code = mopMdf then 24 else if fmDfn op.fm + 1 ≤ 25 then 32 else 64
  ((List.range 16).map fun i => op.descA.rd (16 * op.octet + i) (2 * (384 * r + 48 * k)) 96,
   (List.range 32).map fun c => op.descB.rd c (r * size) 32,
   (List.range 32).map fun c => op.descB.rd c (r * size + 32 + field * k) field)

/-- A 48-row group of a difference-form operation (R267, R370). -/
def diffUnit (core : Nat) (s : State) (op : EngOp) (g : Group) : Got MatOut :=
  let fa := fmFa op.fm
  let fc := fmFc op.fm
  let n : Option Nat := if op.code = mopSp then some (fmDfn op.fm + 1) else none
  (readAll core op true s (op.diffReads op.units).1).andThen fun s1 xa =>
    (readAll core op true s1 (op.diffReads op.units).2.1).andThen fun s2 xh =>
      (readAll core op true s2 (op.diffReads op.units).2.2).andThen fun s3 xf =>
        let rows := xa.map fun b => scaleRow ((List.range 48).map (operand fa b))
        let cols := (List.range 32).map fun c => diffCol (fmDfd op.fm == 1) n (xh.getD c []) (xf.getD c [])
        let (g1, b1) := g.accumulateAll fc op.za op.octet fun i c => contribution (rows.getD i .zero) (cols.getD c none)
        .ok s3 (g1, b1 ||| if cols.any fun c => c.isNone then mstDFMETA else 0)

/-! ## Rows (R269 to R271) -/

/-- A row of `mzero`. -/
def zeroUnit (s : State) (op : EngOp) (g : Group) : Got MatOut :=
  let i := op.units
  let g1 := (List.range 32).foldl (fun g n => g.setElem (fmFc op.fm) op.za op.octet i n 0) g
  .ok s ((List.range 3).foldl (fun g k => g.setSide op.za op.octet k i (sideStart k)) g1, 0)

/-- The read of row i of `mld`. -/
def EngOp.rowRead (op : EngOp) (i : Nat) : Rd := op.descA.rd (16 * op.octet + i) 0 (32 * tileBytes (fmFc op.fm))

/-- A row of `mld`. -/
def loadUnit (core : Nat) (s : State) (op : EngOp) (g : Group) : Got MatOut :=
  let i := op.units
  let fc := fmFc op.fm
  let w := tileBytes fc
  (readAll core op true s [op.rowRead i]).andThen fun s1 x =>
    .ok s1 ((List.range 32).foldl (fun g n => g.setElem fc op.za op.octet i n (fieldAt (x.headD []) (w * n) w)) g, 0)

/-- Whether a descriptor lets the units of an operation touch aligned 16-byte units apart: its rows lie on such units and do not
overlap (R105, R259). -/
def Desc.apart (d : Desc) (bytes : Nat) : Bool := d.base % 16 == 0 && d.stride % 16 == 0 && decide (bytes ≤ d.stride)

/-- Whether no two units of a dense operation, or of one that moves rows, and no two records of a difference-form operation, touch
one aligned 16-byte unit of memory. -/
def EngOp.apart (op : EngOp) : Bool :=
  let fa := fmFa op.fm
  let blocks (f : Nat) : Bool := op.mode == 0 || rowBytes f (kBlock fa) % 16 == 0
  ([op.descA, op.descB].zip (needsOf op.code op.mode op.fm)).all (fun x => x.1.apart x.2.bytes) &&
    (!isDense op.code || (blocks fa && (op.code != mopBt || blocks (fmFb op.fm))))

/-- Whether a later row, of n bytes, of an operation that stores rows touches the aligned 16-byte unit of the byte with a key. -/
def EngOp.laterRow (op : EngOp) (n key : Nat) : Bool :=
  (List.range 16).any fun i =>
    let first := (op.descA.wr (16 * op.octet + i) []).key
    decide (op.units < i) && decide (first / 16 ≤ key / 16) && decide (key / 16 * 16 < first + n)

/-- The bytes that an operation is to write once a row is done: those left by earlier rows, but where the row overwrites them, and
the row's own. -/
def EngOp.rowBytesDue (op : EngOp) (w : Wr) : List (Nat × Byte) :=
  (op.pend.filter fun x => !(decide (w.key ≤ x.1) && decide (x.1 < w.key + w.bytes.length))) ++
    (List.range w.bytes.length).map fun i => (w.key + i, w.bytes.getD i 0)

/-- Writes a row of a matrix operation. Where two rows touch one aligned 16-byte unit, the unit is written with the later one, so
that it is entirely old or entirely new to a lane (R105, R259; log 19). -/
def writeRow (core : Nat) (s : State) (op : EngOp) (b : List Byte) (out : MatOut) : Got MatOut :=
  let w := op.descA.wr (16 * op.octet + op.units) b
  if op.apart then (engineWrites core op true s [w]).andThen fun s1 _ => .ok s1 out
  else
    let all := op.rowBytesDue w
    (checkPieces core op true s (globalPieces [w])).andThen fun s1 _ =>
      (engineWrites core op true s1 ((byteRuns (all.filter fun x => !op.laterRow b.length x.1)).map writeAt)).andThen fun s2 _ =>
        .ok (s2.putOp core true { s2.opNow core true op with pend := all.filter fun x => op.laterRow b.length x.1 }) out

/-- The exact quotient z / y rounded once, saturating (R271); a zero divisor has been dealt with. -/
def fvQuotient (f : Fmt) (z y : FV) : Nat × Flags :=
  match z, y with
  | .num n1 m1 e1, .num n2 m2 e2 =>
    let sh := 80 + bitLen m2
    let q := (m1 * 2 ^ sh) / m2
    roundSat f (n1 != n2) q (e1 - e2 - sh) (decide (q * m2 ≠ m1 * 2 ^ sh))
  | .inf n1, .num n2 _ _ => (f.signBit (n1 != n2) + f.infMag, 0)
  | .num n1 _ _, .inf n2 => (f.signBit (n1 != n2), 0)
  | _, _ => (f.canonNan, 0)

/-- An element of `mst`: the output pattern and its status bits (R271). -/
def storeElem (rep fc z : Nat) (rsm : Word) : Nat × DWord :=
  if fc = 2 then (z, 0)
  else
    let f := accFmt fc
    let out := if rep / 2 = 1 then bf16 else if rep / 2 = 2 then fp16 else f
    if rep % 2 = 1 then
      if rsm &&& 0x7FFFFFFF = 0 then (0, 0)
      else
        let r := fvQuotient out (unpack f z) (unpack fp32 rsm.toNat)
        (r.1, mstBits out r)
    else if rep / 2 = 0 then (z, if (unpack f z).isNan then mstNAN else 0)
    else
      let r := narrowF out (unpack f z)
      (r.1, mstBits out r)

/-- A row of `mst`. -/
def storeUnit (core : Nat) (s : State) (op : EngOp) (g : Group) : Got MatOut :=
  let i := op.units
  let fc := fmFc op.fm
  let w := outBytes op.mode fc
  let row := (List.range 32).map fun n => storeElem op.mode fc (g.elem fc op.za op.octet i n) (g.side op.za op.octet 1 i)
  writeRow core s op ((row.map fun x => leBytes x.1 w).flatten) (g, row.foldl (fun a x => a ||| x.2) 0)

/-- A row of `mside`. -/
def sideUnit (core : Nat) (s : State) (op : EngOp) (g : Group) : Got MatOut :=
  let at_ (k : Nat) : List Byte := leBytes (g.side op.za op.octet k op.units).toNat 4
  writeRow core s op (at_ 0 ++ at_ 1 ++ at_ 2 ++ leBytes 0 4) (g, 0)

def isNan32 (w : Word) : Bool := (unpack fp32 w.toNat).isNan

/-- The maximum that `msmx` forms: NaN operands are not dropped (R269). `zero` is the sign of a zero maximum over zeros of both
signs (log 20). -/
def softMax (zero : Bool) (l : List Word) : Word :=
  if l.any isNan32 then nan32
  else
    let m := l.foldl (fun a b => if fvLess (unpack fp32 a.toNat) (unpack fp32 b.toNat) then b else a) 0xFF800000
    if (m == 0 || m == 0x80000000) && l.contains 0 && l.contains 0x80000000 then (if zero then 0x80000000 else 0) else m

/-- A row of `msmx` (R269). -/
def softUnit (core : Nat) (s : State) (op : EngOp) (g : Group) : Got MatOut :=
  let i := op.units
  let sb := (op.regs[2]?).getD 0
  let yt := natBits sb.toNat 35 32
  let scale : Word := sb.truncate 32
  let ys := (List.range 32).map fun j => (f32Mul 0 false (g.tileWord op.za op.octet (32 * i + j)) scale).1
  let put (ps : List Word) : List Byte := (ps.map fun p => leBytes p.toNat 2).flatten
  if ys.all fun y => y == 0xFF800000 then writeRow core s op (put (List.replicate 32 0)) (g, mstSMXEMPTY)
  else
    let rmx := g.side yt op.octet 0 i
    let m := softMax (Config.zeroSign s.tick i) (rmx :: ys)
    let ps := ys.map fun y => (f32Narrow bf16 false (f32Exp2 false (f32Sub 0 false y m).1).1).1
    let f := (f32Exp2 false (f32Sub 0 false rmx m).1).1
    let t := ps.foldl (fun t p => (f32Add 0 false t (f32Widen bf16 false p.toNat).1).1)
      (f32Mul 0 false (g.side yt op.octet 1 i) f).1
    let rsc := (f32Mul 0 false (g.side yt op.octet 2 i) f).1
    let nan := isNan32 m || isNan32 t || isNan32 rsc || ps.any fun p => (unpack bf16 p.toNat).isNan
    writeRow core s op (put ps)
      (((g.setSide yt op.octet 1 i t).setSide yt op.octet 2 i rsc).setSide yt op.octet 0 i m, if nan then mstNAN else 0)

/-- One unit of an operation. -/
def matrixUnit (core : Nat) (s : State) (op : EngOp) (g : Group) : Got MatOut :=
  if isDense op.code then denseUnit core s op g
  else if isDiff op.code then diffUnit core s op g
  else if op.code = mopMsmx then softUnit core s op g
  else if op.code = mopMzero then zeroUnit s op g
  else if op.code = mopMld then loadUnit core s op g
  else if op.code = mopMst then storeUnit core s op g
  else sideUnit core s op g

/-! ## Execution (R259, R272 to R275) -/

/-- The value of `%prog` for a hold or a pre-emption stop (R273). -/
def progWord (op : EngOp) (hold : Bool) : DWord :=
  BitVec.ofNat 64 (op.octet % 8 + (if hold then 8 else 16) + op.za % 16 * 32 + op.code % 16 * 512 + op.units % 65536 * 65536 +
    op.batch % 4294967296 * 4294967296)

/-- An operation ends: its status bits, `%prog` after a hold or stop, and the next operations of the queue. -/
def State.endMatrix (s : State) (core : Nat) (op : EngOp) (bits : DWord) : State :=
  let s1 := s.modGroup op.group fun g => { g with mst := g.mst ||| bits, prog := op.event.getD g.prog }
  (s1.dropOp core true op).due (.matrixOperationExecute core)

/-- A group whose accumulators an operation has rewritten. -/
def Group.healTiles (g : Group) (keys : List Nat) : Group :=
  { g with damage := g.damage.filter fun x => !(x.1 == 4 && keys.contains x.2) }

/-- An operation completes; illegal metadata under dftrap counts as a failure (R268, R272). -/
def State.completeMatrix (s : State) (core : Nat) (op : EngOp) : State :=
  let s0 := s.modGroup op.group fun g => g.healTiles (matrixHeals op.code op.fm op.za op.octet)
  let s1 :=
    if fmDftrap op.fm && isDiff op.code && op.bits.getLsbD 0 then s0.opFailed true op codeDFMETA 0 else s0
  s1.endMatrix core op op.bits

/-- Whether an operation may be left after the units that it has done. The units of one that reads memory run in one step where they
touch one aligned 16-byte unit (R105, R259), as the groups of a difference-form record do; one that stores rows may be left after
each (`writeRow`). -/
def EngOp.atBoundary (op : EngOp) : Bool :=
  (op.apart && (!isDiff op.code || op.units % 8 == 0)) || !(isDense op.code || isDiff op.code || op.code == mopMld)

/-- The reads of a unit of an operation that reads memory. -/
def EngOp.unitRds (op : EngOp) (u : Nat) : List Rd :=
  if isDense op.code then (op.denseReads u).1 ++ (op.denseReads u).2
  else if isDiff op.code then (op.diffReads u).1 ++ (op.diffReads u).2.1 ++ (op.diffReads u).2.2
  else if op.code = mopMld then [op.rowRead u]
  else []

/-- A hold divides the units of a step that began with unit `first`: what those before have read stays with the operation, so that
the rest of it finds the same bytes in the aligned 16-byte units that they share (R105, R259, R274). -/
def State.divide (s : State) (core first : Nat) (op : EngOp) : State :=
  if op.units ≤ first then s
  else s.keepUnits core op ((List.range (op.units - first)).map fun i => op.unitRds (first + i)).flatten

/-- The bytes of the rows that a failed operation has done reach memory: bytes written before a fault stay written (R275). -/
def flushRows (core : Nat) (s : State) (op : EngOp) : Got Unit :=
  if op.pend.isEmpty then .ok s ()
  else (engineWrites core op true s ((byteRuns op.pend).map writeAt)).andThen fun s1 _ => .ok s1 ()

/-- An operation is held at an address (R274): it sleeps, and the host is asked for the page. -/
def State.holdMatrix (s : State) (core : Nat) (op : EngOp) (va : Nat) (p : PageRef) : State :=
  (s.putOp core true { s.opNow core true op with held := some (BitVec.ofNat 64 va), asleep := true,
                                                 event := some (progWord op true) }).requestPage op.ctx va p

/-- Executes units of an operation up to a boundary (R274, R275); the first argument bounds their number, and `first` is the unit
with which the step began. -/
def State.runFrom (core : Nat) : Nat → Nat → EngOp → State → State
  | 0, _, _, s => s
  | n + 1, first, op, s =>
    match s.group? op.group with
    | none => s.dropOp core true op
    | some g =>
      match matrixUnit core s op g with
      | .ok s1 out =>
        let here := { op with units := op.units + 1 }
        let op1 := { here with bits := op.bits ||| out.2, pend := if op.apart then op.pend else (s1.opNow core true op).pend,
                               cache := if here.atBoundary then [] else (s1.opNow core true op).cache }
        let s2 := s1.modGroup op.group fun x => { x with tiles := out.1.tiles, sides := out.1.sides }
        if op1.unitCount ≤ op1.units then s2.completeMatrix core op1
        else if op1.atBoundary then (s2.putOp core true op1).due (.matrixOperationExecute core)
        else runFrom core n first op1 (s2.putOp core true op1)
      | .held s va p => (s.divide core first op).holdMatrix core op va p
      | .fail s code va =>
        match flushRows core s op with
        | .ok s1 _ => (s1.opFailed true op code va).endMatrix core op mstFAULT
        | .fail s1 _ _ => (s1.opFailed true op code va).endMatrix core op mstFAULT
        | .held s1 va p => s1.holdMatrix core op va p
        | .later s1 => s1.due (.matrixOperationExecute core)
        | .asleep s1 => s1
      | .later s => (s.divide core first op).due (.matrixOperationExecute core)
      | .asleep s => s.putOp core true { s.opNow core true op with asleep := true }

/-- Executes units of an operation, from where it stands, up to a boundary. -/
def State.runUnits (core n : Nat) (op : EngOp) (s : State) : State := State.runFrom core n op.units op s

/-- Whether pre-emption has stopped a group's operations at their unit boundaries (R276). Those of a group whose restart is pending
run on, since the restart completes first (R385, R395). -/
def State.unitsStopped (s : State) (group : Nat) : Bool :=
  match s.group? group with
  | none => false
  | some g => !g.restart && ((s.crew? g.crew).map fun c => c.res == .halting || c.res == .ending).getD false

/-- Whether an operation only reads memory: those of the dense array and of the difference-form path. -/
def EngOp.arithmetic (op : EngOp) : Bool := isDense op.code || isDiff op.code

/-- Whether an earlier operation of the queue holds a later one back: both are of one group, and they are of one octet, or one of
them may write memory, or the earlier one is held (R259, R274, R375). -/
def EngOp.before (e op : EngOp) : Bool :=
  e.group == op.group && (e.octet == op.octet || e.asleep || e.held.isSome || !e.arithmetic || !op.arithmetic)

/-- The operations of a queue that may run: none holds them back, and their groups are not among `stopped` (R276). -/
def runnable (stopped : Nat → Bool) : List EngOp → List EngOp → List EngOp
  | _, [] => []
  | seen, op :: r =>
    if op.asleep || stopped op.group || seen.any fun e => e.before op then runnable stopped (op :: seen) r
    else op :: runnable stopped (op :: seen) r

/-- The operation whose unit the engine executes: the first that may run of the difference-form path or of the dense array, which
takes the others too, as the free value says where both have one (R370, R375; log 26). -/
def nextMatrix (diff : Bool) (l : List EngOp) : Option EngOp := (l.find? fun op => isDiff op.code == diff) <|> l.head?

/-- The matrix engine executes the queued operations unit by unit, the dense array and the difference-form path beside each other
(R262, R375). -/
def execMatrixOperationExecute (core : Nat) (s : State) : Host.Outcome State Fault Refusal :=
  match nextMatrix (Config.differenceTurn s.tick) (runnable s.unitsStopped [] (s.coreSt core).matQ) with
  | none => .next s
  | some op => .next (State.runUnits core op.unitCount op s)

/-! ## The instructions -/

/-- Issues a dense matrix multiply-accumulate per issuing octet (R262). -/
def execMma (g : BitVec 3) (z : BitVec 4) (a b : BitVec 6) (r : BitVec 3) (s : State) : Host.Outcome State Fault Refusal :=
  runSplit 4 (cBody g.toNat (pairOf a.toNat ++ pairOf b.toNat) (pairOf a.toNat ++ pairOf b.toNat)
    (matrixBody mopMma r.toNat z.toNat a.toNat b.toNat)) s

/-- Dense multiply-accumulate with B read transposed (R262). -/
def execMmaBt (g : BitVec 3) (z : BitVec 4) (a b : BitVec 6) (r : BitVec 3) (s : State) : Host.Outcome State Fault Refusal :=
  runSplit 4 (cBody g.toNat (pairOf a.toNat ++ pairOf b.toNat) (pairOf a.toNat ++ pairOf b.toNat)
    (matrixBody mopBt r.toNat z.toNat a.toNat b.toNat)) s

/-- Rescales tile rows by rsc, then multiply-accumulates (R263). -/
def execMmaRs (g : BitVec 3) (z : BitVec 4) (a b : BitVec 6) (r : BitVec 3) (s : State) : Host.Outcome State Fault Refusal :=
  runSplit 4 (cBody g.toNat (pairOf a.toNat ++ pairOf b.toNat) (pairOf a.toNat ++ pairOf b.toNat)
    (matrixBody mopRs r.toNat z.toNat a.toNat b.toNat)) s

/-- Difference-form product with dense records (R267). -/
def execMdf (g : BitVec 3) (z : BitVec 4) (a b : BitVec 6) (r : BitVec 3) (s : State) : Host.Outcome State Fault Refusal :=
  runSplit 4 (cBody g.toNat (pairOf a.toNat ++ pairOf b.toNat) (pairOf a.toNat ++ pairOf b.toNat)
    (matrixBody mopMdf r.toNat z.toNat a.toNat b.toNat)) s

/-- Difference-form product with sparse records (R267). -/
def execMdfSp (g : BitVec 3) (z : BitVec 4) (a b : BitVec 6) (r : BitVec 3) (s : State) : Host.Outcome State Fault Refusal :=
  runSplit 4 (cBody g.toNat (pairOf a.toNat ++ pairOf b.toNat) (pairOf a.toNat ++ pairOf b.toNat)
    (matrixBody mopSp r.toNat z.toNat a.toNat b.toNat)) s

/-- Online softmax step writing P and updating side registers (R269). -/
def execMsmx (g : BitVec 3) (z : BitVec 4) (a b : BitVec 6) (s : State) : Host.Outcome State Fault Refusal :=
  runSplit 4 (cBody g.toNat (pairOf a.toNat ++ [b.toNat]) (pairOf a.toNat ++ [b.toNat])
    (matrixBody mopMsmx 0 z.toNat a.toNat b.toNat)) s

/-- Zeroes a tile and resets its side registers (R270). -/
def execMzero (g : BitVec 3) (z : BitVec 4) (s : State) : Host.Outcome State Fault Refusal :=
  runSplit 4 (cBody g.toNat [] [] (matrixBody mopMzero 0 z.toNat 0 0)) s

/-- Loads a tile from memory (R270). -/
def execMld (g : BitVec 3) (z : BitVec 4) (a : BitVec 6) (s : State) : Host.Outcome State Fault Refusal :=
  runSplit 4 (cBody g.toNat (pairOf a.toNat) (pairOf a.toNat) (matrixBody mopMld 0 z.toNat a.toNat 0)) s

/-- Stores a tile, optionally narrowed and normalised (R271). -/
def execMst (g : BitVec 3) (z : BitVec 4) (a : BitVec 6) (r : BitVec 3) (s : State) : Host.Outcome State Fault Refusal :=
  runSplit 4 (cBody g.toNat (pairOf a.toNat) (pairOf a.toNat) (matrixBody mopMst r.toNat z.toNat a.toNat 0)) s

/-- Stores a tile's side registers (R270). -/
def execMside (g : BitVec 3) (z : BitVec 4) (a : BitVec 6) (s : State) : Host.Outcome State Fault Refusal :=
  runSplit 4 (cBody g.toNat (pairOf a.toNat) (pairOf a.toNat) (matrixBody mopMside 0 z.toNat a.toNat 0)) s

end Sys2Proof.Machine
end

