-- ==== Sys2Proof/Machine/Launch.lean ====
section
/-! DEFINITION. The dispatcher: launch queues and waybills, tickets, the aggregator, the choice of launches and the placement of
crews, `launch` and `evpost`, the end of groups and the completion of launches (R155 to R164, R191 to R194, R211, R214 to R228,
R401). -/

namespace Sys2Proof.Machine

/-! ## Memory as the dispatcher sees it (R156, R161, R401) -/

/-- Where an access of the dispatcher goes. -/
inductive SysRoute where
  | mem (l : Leaf) (pa : Nat)
  | area (g : Nat)
  /-- a held translation fault on a page -/
  | held (p : PageRef)
  /-- the completion-word status of R398: 2 address, 3 permission -/
  | bad (status : Nat)
  deriving DecidableEq, Repr

/-- A held fault of the dispatcher, or its end where the host has declared the page fatal, or (true) refused to copy it. -/
def sysHeld (fatal : List (PageRef × Bool)) (va : Nat) (p : PageRef) : SysRoute :=
  match fatal.find? fun x => x.1.covers va with
  | some (_, true) => .bad 3
  | some (_, false) => .bad 2
  | none => .held p

/-- The fate of an access of `n` bytes within a line; `fatal` are pages that the host has declared fatal, or
(true) refused to copy. -/
def State.sysRoute (s : State) (ctx va n : Nat) (write : Bool) (fatal : List (PageRef × Bool)) : State × SysRoute :=
  if addressEnd < va + n ∨ inReservedPage va = true then (s, .bad 2)
  else if inPrivateRange va then
    if write then (s, .bad 3)
    else
      match s.areaAt ctx va n with
      | none => (s, .bad 2)
      | some g => (s, .area g)
  else
    match s.walk none ctx va with
    | (s1, .absent) => (s1, sysHeld fatal va (smallPage va))
    | (s1, .broken) => (s1, .bad 2)
    | (s1, .leaf l) =>
      if pteRm l.pte then (s1, .bad 3)
      else
        match leafDenies l.pte (if write then .store else .load) with
        | some true => (s1, sysHeld fatal va { num := va / 2 ^ leafBits l.lvl, bits := leafBits l.lvl })
        | some false => (s1, .bad 3)
        | none => (s1, .mem l (leafPa l va))

/-- The dispatcher, in the record of who caused an invalidation (R342). -/
def sysCore : Nat := noCore + 1

/-- Whether replica invalidations that the dispatcher's writes caused are on their way: a release at sys scope waits for them
(R342). -/
def State.sysPending (s : State) : Bool := s.invals.any fun x => x.2.2 == sysCore

/-- A line as the dispatcher reaches it: it enters the wafer cache, under the hint of its region (R290, R291). -/
def State.sysLodge (s : State) (ctx va : Nat) (l : Leaf) (line : Nat) : State :=
  (s.noteSheaf l line).lodge line none (some (effectiveHint hintNorm (s.regionOf ctx va l).1))

/-- Reads of the dispatcher, joined; status 4 for an uncorrectable byte. Each is an acquire at sys scope: the recorded releasers of
the line drain, and it is served once the invalidations that they cause have arrived (R156, R340, R342). -/
def sysRead (ctx : Nat) (fatal : List (PageRef × Bool)) : State → List (Nat × Nat) → Got (List Byte)
  | s, [] => .ok s []
  | s, (va, n) :: r =>
    match s.sysRoute ctx va n false fatal with
    | (s1, .held p) => .held s1 va p
    | (s1, .bad st) => .fail s1 st va
    | (s1, .area g) =>
      if s1.areaBad g va n then .fail s1 4 va
      else (sysRead ctx fatal (s1.areaLodge ctx va n) r).andThen fun s2 c => .ok s2 (s1.areaRead g va n ++ c)
    | (s1, .mem l pa) =>
      let line := pa / lineBytes
      let s2 := (s1.sysLodge ctx va l line).drainReleasers line
      if s2.releasersPending line then .later s2
      else
        let s3 := s2.forgetReleasers line
        if s3.bankBad pa n then .fail s3 4 va
        else (sysRead ctx fatal s3 r).andThen fun s4 c => .ok s4 (memReadBytes s3.mem pa n ++ c)

/-- A write of the dispatcher at sys scope: 8 bytes at an aligned address. -/
def State.sysWrite (s : State) (ctx va : Nat) (bytes : List Byte) (fatal : List (PageRef × Bool)) (tag : Word) : Got Unit :=
  match s.sysRoute ctx va bytes.length true fatal with
  | (s1, .held p) => .held s1 va p
  | (s1, .bad st) => .fail s1 st va
  | (s1, .area _) => .fail s1 3 va
  | (s1, .mem l pa) =>
    let line := pa / lineBytes
    let s2 := s1.sysLodge ctx va l line
    if s2.bankBad (line * lineBytes) lineBytes then .fail s2 4 va
    else
      match s2.weirWrite line dispatcherParty with
      | some s3 => .later s3
      | none => .ok ((s2.bankWrite pa sysCore bytes tag).endService line dispatcherParty) ()

/-! ## Placement sets and capacity (R211, R217, R399) -/

/-- Every non-absent logical number. -/
def State.allCores (s : State) : List Nat := (List.range s.part.coreCount).filter fun n => (s.physOf n).isSome

def wbMode (w : List Byte) : Nat := fieldAt w 0x70 2
def wbTarget (w : List Byte) : Nat := fieldAt w 0x72 2

/-- The placement set of a waybill (R217). -/
def State.placementSet (s : State) (w : List Byte) : List Nat :=
  if wbMode w = 0 then s.allCores
  else if wbMode w = 1 then s.numbersOf (8 * (wbTarget w / 256) + wbTarget w % 256)
  else if wbTarget w < s.part.coreCount ∧ (s.physOf (wbTarget w)).isSome = true then [wbTarget w] else []

/-- Tiles of `n` groups of a waybill: names per octet × octets × groups (R211). -/
def tilesOf (w : List Byte) (n : Nat) : Nat := wbTiles w * (2 ^ wbWidth w 0 / 8) * n

/-- Groups, scratch bytes and tiles of a crew: those of its groups that have not ended (R211). -/
def State.crewLoad (s : State) (c : Crew) : Nat × Nat × Nat :=
  let w := s.wbOf c.launch
  (c.live.length, wbScratch w, tilesOf w c.live.length)

/-- Two loads together. -/
def addLoad (a b : Nat × Nat × Nat) : Nat × Nat × Nat := (a.1 + b.1, a.2.1 + b.2.1, a.2.2 + b.2.2)

/-- Whether a load keeps the limits of R211. -/
def loadFits (a : Nat × Nat × Nat) : Bool := decide (a.1 ≤ 128) && decide (a.2.1 ≤ 1048576) && decide (a.2.2 ≤ 256)

/-- Groups, scratch bytes and tiles resident on a core, without the crews of `drop`. -/
def State.coreLoad (s : State) (core : Nat) (drop : List Nat) : Nat × Nat × Nat :=
  ((s.residents core).filter fun c => !drop.contains c.1).foldl (fun a c => addLoad a (s.crewLoad c.2)) (0, 0, 0)

/-- Whether `n` more crews of a waybill pass the limits of R211. -/
def fitsMore (load : Nat × Nat × Nat) (w : List Byte) (n : Nat) : Bool :=
  loadFits (addLoad load (n * wbCount w 1, n * wbScratch w, n * tilesOf w (wbCount w 1)))

/-- How many crews of a waybill a core admits. -/
def roomFor (load : Nat × Nat × Nat) (w : List Byte) : Nat := ((List.range 128).filter fun n => fitsMore load w (n + 1)).length

/-- Bytes of the private areas of a crew. -/
def crewPrivate (w : List Byte) : Nat := wbCount w 1 * privSize w (2 ^ wbWidth w 0)

/-- Bytes of the private pool in use. -/
def State.poolUsed (s : State) : Nat :=
  (s.groups.map fun x => s.areaSize x.2).sum + ((s.contexts.map fun c => (c.2.kept.map KeptArea.size).sum).sum)

/-- Whether a core takes crews: not while it is dressed, and no crew goes on an absent number (R6). -/
def State.coreOpen (s : State) (core : Nat) : Bool := !(s.coreSt core).testing && (s.physOf core).isSome

/-! ## The checks at the take (R155, R157 to R160, R225) -/

/-- A ticket that is malformed, of another context, or names no launch (R158, R214). -/
def State.badTicket (s : State) (ctx t : Nat) : Bool :=
  t != 0 && (!natBit t 63 || natBits t 62 38 != 0 || natBits t 37 32 != ctx || (s.launch? (launchKey ctx (natBits t 31 0))).isNone)

/-- The first failing check of a waybill, as a code of R160; `batch` for an aggregator batch, whose template had `t68` at 0x68 and
whose child count stands at n5 (R224, R225). -/
def State.checkTake (s : State) (ctx : Nat) (w : List Byte) (batch : Bool) (t68 t5 : Nat) : Option Nat :=
  let wk (k : Nat) := wbWidth w k
  let n (k : Nat) := wbCount w k
  let entry := wbEntry w
  let obj := (s.context? ctx).bind fun c => c.objectAt entry
  let zero (a k : Nat) : Bool := fieldAt w a k == 0
  let checks : List (Bool × Nat) :=
    [ (entry % 2 == 0 && obj.isSome, 1),
      (batch || fieldAt w 0x68 8 != 0 || fieldAt w 0x08 8 % 8 == 0, 4),
      (decide (3 ≤ wk 0) && decide (wk 0 ≤ 6) && ((List.range 6).all fun k => decide (wk k ≤ 32)) &&
        decide (((List.range 6).map wk).sum ≤ 64) && (!batch || decide (1 ≤ wk 5)), 2),
      (zero 0x16 2, 9),
      (((List.range 5).all fun k => decide (1 ≤ n (k + 1)) && decide (n (k + 1) ≤ 2 ^ wk (k + 1))) && decide (n 1 ≤ 32) &&
        decide (n 1 * 2 ^ wk 0 ≤ 2048) && (!batch || (n 2 == 1 && n 3 == 1 && n 4 == 1 && t5 == 1)), 2),
      (decide (1 ≤ wbVregs w) && decide (wbVregs w ≤ 64) && decide (1 ≤ wbSregs w) && decide (wbSregs w ≤ 64) &&
        decide (wbTiles w ≤ 16), 3),
      (decide (wbFlags w < 8), 9),
      (!wbHandler w || (obj.bind fun o => o.handler).isSome, 5),
      (decide (wbScratch w ≤ 1048576) && wbPrivate w % 8 == 0 && wbStack w % 32 == 0, 3),
      (decide (wbPriority w ≤ 127) && decide (wbPreload w ≤ 8), 4),
      (zero 0x3E 2, 9),
      (fieldAt w 0x40 8 % 8 == 0, 4),
      (!s.badTicket ctx (fieldAt w 0x50 8) && !s.badTicket ctx (fieldAt w 0x58 8), 6),
      (!natBit (fieldAt w 0x60 4) 13 && decide (natBits (fieldAt w 0x60 4) 31 23 = 0) && decide (fieldAt w 0x64 4 < 8) &&
        (!natBit (fieldAt w 0x64 4) 2 || wbDebug w), 4),
      (if batch then t68 == 0
       else fieldAt w 0x68 8 == 0 || (fieldAt w 0x68 8 % 8 == 0 && n 2 == 1 && n 3 == 1 && n 4 == 1 && decide (n 5 ≤ 4096)), 4),
      ((wbMode w == 0 && wbTarget w == 0) || (wbMode w == 1 && decide (wbTarget w % 256 ≤ 7) && decide (wbTarget w / 256 ≤ 7)) ||
        (wbMode w == 2 && decide (wbTarget w < s.part.coreCount) && (s.physOf (wbTarget w)).isSome), 8),
      (zero 0x74 12, 9),
      (fitsMore (0, 0, 0) w 1 && decide (crewPrivate w ≤ Config.poolBytes), 3) ]
  (checks.find? fun c => !c.1).map fun c => c.2

/-! ## Launch identifiers and records (R214) -/

/-- The identifier after a context's last one. -/
def nextIdentifier (counter : Nat) : Nat := if 0xFFFFFFFF ≤ counter then 1 else counter + 1

/-- A new launch record. -/
def Launch.new (ctx id queue slot : Nat) (w : List Byte) (st : LaunchSt) (batch : Bool) (order : Nat) : Launch where
  ctx := ctx
  id := id
  queue := queue
  slot := slot
  wb := w
  st := st
  table := []
  isBatch := batch
  params := []
  order := order
  placed := 0
  endedCrews := 0
  cores := []
  tree := none
  wordHeld := false
  draining := []
  unconfirmed := []
  suspect := false
  fatal := []

/-- Gives a launch of a context its identifier and record: its key. -/
def State.newLaunch (s : State) (ctx queue slot : Nat) (w : List Byte) (st : LaunchSt) (batch : Bool) : State × Nat :=
  match s.context? ctx with
  | none => (s, 0)
  | some c =>
    let id := nextIdentifier c.counter
    let key := launchKey ctx id
    let s1 := s.setContext ctx { c with counter := id }
    ({ s1.setLaunch key (Launch.new ctx id queue slot w st batch s.nextOrder) with nextOrder := s.nextOrder + 1 }, key)

/-- The ticket of a launch (R158). -/
def ticketOf (ctx id : Nat) : DWord := BitVec.ofNat 64 (2 ^ 63 + ctx * 2 ^ 32 + id)

/-- The oldest taken launch of a queue that is not ready yet: it holds back those behind it (R162, R215). -/
def State.queueHead (s : State) (ctx queue : Nat) : Option Nat :=
  (s.launches.foldl (fun (b : Option (Nat × Nat)) x =>
    if x.2.ctx = ctx ∧ x.2.queue = queue ∧ (x.2.st = .taken ∨ x.2.st = .held) then
      match b with
      | none => some (x.1, x.2.order)
      | some y => if x.2.order < y.2 then some (x.1, x.2.order) else some y
    else b) none).map fun x => x.1

/-- The heads of a context's queues look at their tickets again. -/
def State.readyHeads (s : State) (ctx : Nat) : State :=
  s.dueAll (((List.range 9).filterMap fun q => (s.queueHead ctx q).map Instr.waybillReady).filter fun i => !s.agenda.contains i)

/-- A waybill is rejected: kind-4 event, no group, no completion word (R160, R225). -/
def State.rejectLaunch (s : State) (key code : Nat) : State :=
  match s.launch? key with
  | none => s
  | some l =>
    ((s.setLaunch key { l with st := .rejected }).postEvent l.ctx 4
      (leBytes (if l.isBatch then 255 else l.queue) 1 ++ leBytes code 1 ++ leBytes (if l.isBatch then l.id else l.slot) 2)).readyHeads
      l.ctx

/-! ## Taking a waybill (R160, R162 to R164, R401) -/

/-- Address of the take count (R162); a ring at address 0 has none below 2^56. -/
def LaunchQueue.takeAddr (q : LaunchQueue) : Nat := if q.base.toNat < 8 then addressEnd else q.base.toNat - 8

/-- Keeps a queue waiting for a page. -/
def State.holdQueue (s : State) (ctx q va : Nat) (p : PageRef) : State :=
  (s.modContext ctx fun c => { c with queues := tblMod (fun x => { x with held := true }) c.queues q }).requestPage ctx va p

/-- Writes the take count: it may be left unwritten, with one kind-11 event for the queue; none while the line's holders of crest
are still to be sluiced (R348, R401). -/
def State.putTake (s : State) (ctx q : Nat) (lq : LaunchQueue) : State × Bool :=
  match s.sysWrite ctx lq.takeAddr (leBytes lq.take.toNat 8) lq.fatal tagNone with
  | .ok s1 _ => (s1, true)
  | .fail s1 _ _ =>
    (if lq.faulted then s1
     else
      (s1.modContext ctx fun c => { c with queues := tblMod (fun x => { x with faulted := true }) c.queues q }).postEvent ctx 11
        (leBytes q 1 ++ leBytes 0 7 ++ leBytes lq.take.toNat 8), true)
  | .held s1 _ _ => (s1, true)
  | .later s1 => (s1, false)
  | .asleep s1 => (s1, false)

/-- Takes a waybill whose slot has been read, none where it cannot be: the take count moves on, and the waybill is checked. The
launch has its identifier before the checks of its tickets (R214): a ticket that names the launch itself names a known launch, which
never ends, so the waybill waits for ever. DESIGN CHOICE (log 14), R158 speaks of earlier launches only and gives no outcome. -/
def State.takeSlot (s : State) (ctx q slot : Nat) (lq : LaunchQueue) (w : Option (List Byte)) : State :=
  let lq1 := { lq with take := lq.take + 1, held := false }
  match s.putTake ctx q lq1 with
  | (s1, false) => s1.due (.waybillTake ctx q)
  | (s1, true) =>
    let s2 := s1.modContext ctx fun c => { c with queues := tblMod (fun x => { x with take := lq1.take, held := false, fatal := [] }) c.queues q }
    let (s3, key) := s2.newLaunch ctx q slot (w.getD []) .taken false
    let code : Option Nat :=
      match w with
      | none => some 11
      | some w => s3.checkTake ctx w false 0 1
    let s4 :=
      match code with
      | some k => s3.rejectLaunch key k
      | none => s3.readyHeads ctx
    if lq1.take.toNat < lq1.post.toNat then s4.due (.waybillTake ctx q) else s4

/-- Takes the next posted waybill of a queue. The host's verdicts on its pages stay with the queue until the slot has been taken, so
that they hold where the context is faulted or halted meanwhile. The slot number of its launch, which a kind-4 event carries, is the
slot's place in the ring: DESIGN CHOICE (log 21), R160 says no more than the slot. -/
def State.takeWaybill (s : State) (ctx q : Nat) : State :=
  match s.context? ctx with
  | none => s
  | some c =>
    match tblGet? c.queues q with
    | none => s
    | some lq =>
      if c.st ≠ .running ∨ lq.post.toNat ≤ lq.take.toNat then s
      else
        let slot := lq.take.toNat % 2 ^ lq.k
        match s.sysRoute ctx lq.takeAddr 8 true lq.fatal with
        | (s0, .held p) => s0.holdQueue ctx q lq.takeAddr p
        | (s0, _) =>
          match sysRead ctx lq.fatal s0 (piecesOf (lq.base.toNat + 128 * slot) 128) with
          | .held s1 va p => s1.holdQueue ctx q va p
          | .later s1 => s1.due (.waybillTake ctx q)
          | .asleep s1 => s1
          | .ok s1 w => s1.takeSlot ctx q slot lq (some w)
          | .fail s1 _ _ => s1.takeSlot ctx q slot lq none

/-- The dispatcher copies a posted waybill, advances the take count and checks it (R160). -/
def execWaybillTake (ctx queue : Nat) (s : State) : Host.Outcome State Fault Refusal := .next (s.takeWaybill ctx queue)

/-! ## Readiness (R156 to R158, R214, R215) -/

/-- Launches of a context since an identifier was assigned. -/
def idAge (counter id : Nat) : Nat := if id ≤ counter then counter - id else counter + 0xFFFFFFFF - id

/-- A ticket: none while it waits, some true when satisfied, some false when it names a rejected or failed launch. -/
def State.ticketState (s : State) (ctx t : Nat) : Option Bool :=
  if t = 0 then some true
  else
    let id := natBits t 31 0
    let old : Bool :=
      match s.context? ctx with
      | some c => decide (2 ^ 20 ≤ idAge c.counter id)
      | none => false
    match s.launch? (launchKey ctx id) with
    | none => some true
    | some l =>
      match l.st with
      | .rejected => some false
      | .failed => some false
      | .complete => some true
      | _ => if old then some true else none

/-- The block addresses of a launch: one, or one for each value of field 5 (R157). -/
def blockReads (n : Nat) (blocks : List DWord) : List (List (Nat × Nat)) := blocks.map fun b => piecesOf b.toNat (8 * n)

/-- Dwords of a byte list. -/
def dwordsOf (b : List Byte) : List DWord := (List.range (b.length / 8)).map fun i => BitVec.ofNat 64 (fieldAt b (8 * i) 8)

/-- Reads the preloads of several blocks. -/
def readBlocks (ctx : Nat) (fatal : List (PageRef × Bool)) (n : Nat) : State → List DWord → Got (List (DWord × List DWord))
  | s, [] => .ok s []
  | s, b :: r =>
    (if n = 0 then .ok s []
     else if addressEnd < b.toNat + 8 * n then .fail s 2 b.toNat
     else sysRead ctx fatal s (piecesOf b.toNat (8 * n))).andThen fun s1 x =>
      (readBlocks ctx fatal n s1 r).andThen fun s2 c => .ok s2 ((b, dwordsOf x) :: c)

/-- Parameter blocks of a launch with their preloads (R156, R157). -/
def State.readParams (s : State) (l : Launch) : Got (List (DWord × List DWord)) :=
  let n := wbPreload l.wb
  let fatal := l.fatal
  let table := fieldAt l.wb 0x68 8
  if l.isBatch then readBlocks l.ctx fatal n s l.table
  else if table = 0 then readBlocks l.ctx fatal n s [BitVec.ofNat 64 (fieldAt l.wb 0x08 8)]
  else
    (sysRead l.ctx fatal s (piecesOf table (8 * wbCount l.wb 5))).andThen fun s1 b => readBlocks l.ctx fatal n s1 (dwordsOf b)

/-- A launch at the head of its queue looks at its tickets and reads its parameters. -/
def State.readyLaunch (s : State) (key : Nat) : State :=
  match s.launch? key with
  | none => s
  | some l =>
    if s.queueHead l.ctx l.queue = some key ∧ s.running l.ctx = true then
      match s.ticketState l.ctx (fieldAt l.wb 0x50 8), s.ticketState l.ctx (fieldAt l.wb 0x58 8) with
      | some false, _ => s.rejectLaunch key 7
      | _, some false => s.rejectLaunch key 7
      | some true, some true =>
        match s.readParams l with
        | .ok s1 p => ((s1.setLaunch key { l with st := .ready, params := p, fatal := [] }).readyHeads l.ctx).due (.openLaunch key)
        | .held s1 va p => (s1.setLaunch key { l with st := .held }).requestPage l.ctx va p
        | .fail s1 _ _ => s1.rejectLaunch key 10
        | .later s1 => s1.due (.waybillReady key)
        | .asleep s1 => s1
      | _, _ => s
    else s

/-- A taken waybill's tickets are satisfied and its parameters are read (R215). -/
def execWaybillReady (launch : Nat) (s : State) : Host.Outcome State Fault Refusal := .next (s.readyLaunch launch)

/-! ## Placement (R191, R193, R217, R219, R220, R399) -/

/-- The first `n` numbers that are not used. -/
def freeIndices (used : List Nat) (n : Nat) : List Nat := ((List.range (used.length + n)).filter fun i => !used.contains i).take n

/-- Residence indices of the groups of a core (log 17). -/
def State.usedIndices (s : State) (core : Nat) : List Nat :=
  ((s.residents core).map fun c => (s.groupsOf c.2).map fun g => g.2.index).flatten

/-- An address for a private area: the dispatcher's choice, or behind the areas of the context (R399; log 13). -/
def State.privatePlace (s : State) (ctx gid size : Nat) : Nat :=
  let kept := ((s.context? ctx).map fun c => c.kept.map fun k => (k.base, k.size)).getD []
  let areas := ((s.groups.filter fun x => s.ctxOf x.2 == ctx).map fun x => (x.2.privBase.toNat, s.areaSize x.2)) ++ kept
  let hint := privateLow + 128 * (Config.privateHint gid % 2 ^ 40)
  if areas.all fun a => decide (a.1 + a.2 ≤ hint) || decide (hint + size ≤ a.1) then hint
  else (areas.foldl (fun m a => max m (a.1 + a.2)) privateLow + 127) / 128 * 128

/-- A group at its start (R111, R191). -/
def Group.start (w : List Byte) (crew f1 index : Nat) (base : Nat) (param : DWord × List DWord) : Group where
  crew := crew
  f1 := f1
  index := index
  w0 := wbWidth w 0
  slotA := some (Split.start (BitVec.ofNat 64 (wbEntry w)) (fullMask (2 ^ wbWidth w 0)) (BitVec.ofNat 32 (fieldAt w 0x60 4)))
  slotB := none
  spilled := []
  records := []
  exited := 0
  scalars := tblSet ((List.range param.2.length).map fun i => (i + 1, { val := param.2.getD i 0, st := .full })) 63
    { val := param.1, st := .full }
  c := 0
  preds := []
  vregs := []
  gstat := 0
  gc := BitVec.ofNat 64 (fieldAt w 0x64 4)
  mst := 0
  prog := 0
  bnc := 0
  bnm := 0
  ire := 0
  region := none
  handler := none
  trapRec := []
  keep := false
  priv := []
  privBad := []
  privBase := BitVec.ofNat 64 base
  watch := none
  lanePhase := none
  tiles := []
  sides := []
  opCount := 0
  failures := []
  dzwDue := []
  remoteOut := 0
  swapped := false
  leaving := false
  swapBad := []
  halt := .running
  restart := false
  arriving := []
  damage := []
  active := false
  template := []

/-- Adds the groups of a crew. -/
def State.addGroups (key crew ctx : Nat) (w : List Byte) (param : DWord × List DWord) : State → List (Nat × Nat) → State
  | s, [] => s
  | s, (f1, index) :: r =>
    let gid := s.nextGroup
    let g := Group.start w crew f1 index (s.privatePlace ctx gid (privSize w (2 ^ wbWidth w 0))) param
    State.addGroups key crew ctx w param { s.setGroup gid g with nextGroup := gid + 1 } r

/-- A launch runs a crew on a core, whose next dressing it awaits (R394). -/
def Launch.runsOn (l : Launch) (core tick : Nat) : Launch :=
  { l with cores := tblSet l.cores core tick,
           unconfirmed := if l.unconfirmed.contains core then l.unconfirmed else core :: l.unconfirmed }

/-- Places the next crew of a launch on a core; coordinates are given out in ascending order (R194; log 17). The start of its groups
is an acquire: clean bytes of the context leave the L1 (R333, R340). -/
def State.placeCrew (s : State) (key core : Nat) : State :=
  match s.launch? key with
  | none => s
  | some l =>
    let w := l.wb
    let k := l.placed
    let n (i : Nat) := wbCount w i
    let f5 := k / (n 2 * n 3 * n 4)
    let param := (l.params[if l.isBatch || fieldAt w 0x68 8 != 0 then f5 else 0]?).getD (0, [])
    let cid := s.nextCrew
    let crewIndex := (freeIndices ((s.residents core).map fun c => c.2.index) 1).headD 0
    let c : Crew :=
      { launch := key, f2 := k % n 2, f3 := k / n 2 % n 3, f4 := k / (n 2 * n 3) % n 4, f5 := f5, core := core,
        index := crewIndex, groups := (List.range (n 1)).map fun i => s.nextGroup + i, ended := [], scratch := [],
        scratchBad := [], queues := [], bars := [], order := s.nextOrder, res := .resident, savedCopy := [], savedMat := [] }
    let indices := freeIndices (s.usedIndices core) (n 1)
    let s0 := s.invalidateClean core l.ctx 0 lineEnd
    let s1 : State := { s0.setCrew cid c with nextCrew := cid + 1, nextOrder := s.nextOrder + 1 }
    let s2 := State.addGroups key cid l.ctx w param s1 ((List.range (n 1)).zip indices)
    s2.setLaunch key (Launch.runsOn { l with placed := k + 1 } core s.tick)

/-- Crews of a launch: n2 × n3 × n4 × n5 (R155, R194). -/
def crewTotal (w : List Byte) : Nat := wbCount w 2 * wbCount w 3 * wbCount w 4 * wbCount w 5

/-- Tollgate trees (R220). -/
def treeCount : Nat := 16

/-- The trees that no launch has. -/
def State.freeTrees (s : State) : List Nat := (List.range treeCount).filter fun t => (tblGet? s.trees t).isNone

/-- Gives a gated launch its tree: each core's counter is its number of groups (R220). -/
def State.giveTree (s : State) (key t : Nat) : State :=
  let count (core : Nat) : Nat := ((s.launchGroups key).filter fun x => x.2.2 == core).length
  let cores := (s.launchGroups key).foldl (fun (l : Tbl (Nat × Nat)) x => tblSet l x.2.2 (count x.2.2, count x.2.2)) []
  State.modLaunch { s with trees := tblSet s.trees t { launch := key, counters := cores, arrived := [] } } key fun l =>
    { l with tree := some t }

/-- What waits for a place: a crew of an open launch, or a pre-empted crew. -/
inductive Pending where
  | launch (key : Nat)
  | crew (id : Nat)
  deriving DecidableEq, Repr

/-- Priority and opening order of what waits. -/
def State.pendingKey (s : State) : Pending → Nat × Nat
  | .launch k => (wbPriority (s.wbOf k), ((s.launch? k).map (·.order)).getD 0)
  | .crew c =>
    let k := ((s.crew? c).map (·.launch)).getD 0
    (wbPriority (s.wbOf k), ((s.launch? k).map (·.order)).getD 0)

/-- Whether one key is served before another (R217). -/
def servedBefore (a b : Nat × Nat) : Bool := decide (b.1 < a.1) || (a.1 == b.1 && decide (a.2 < b.2))

/-- Inserts by key. -/
def insertPending (s : State) (p : Pending) : List Pending → List Pending
  | [] => [p]
  | q :: r => if servedBefore (s.pendingKey p) (s.pendingKey q) then p :: q :: r else q :: insertPending s p r

/-- Everything that waits for a place, in the order of R217. -/
def State.pending (s : State) : List Pending :=
  let launches := (s.launches.filter fun x => x.2.st == .opened && decide (x.2.placed < crewTotal x.2.wb) && s.running x.2.ctx).map
    fun x => Pending.launch x.1
  let crews := (s.crews.filter fun x => (x.2.res == .shadow || x.2.res == .hbm) && s.running (ctxOfKey x.2.launch)).map
    fun x => Pending.crew x.1
  (crews ++ launches).foldl (fun l p => insertPending s p l) []

/-- What the dispatcher reckons with beside the crews that stand on the cores: crews that leave, and what is set aside for those
that are served earlier: loads on cores, bytes of the private pool, tollgate trees. -/
structure Room where
  gone : List Nat
  kept : List (Nat × Nat × Nat × Nat)
  pool : Nat
  trees : Nat
  deriving DecidableEq, Repr

/-- The cores as they stand. -/
def Room.asIs : Room := { gone := [], kept := [], pool := 0, trees := 0 }

/-- Adds to what is set aside on a core. -/
def Room.claim (seat : Nat × Nat × Nat × Nat) (r : Room) : Room := { r with kept := r.kept ++ [seat] }

/-- The load of a core in a room. -/
def State.roomLoad (s : State) (core : Nat) (r : Room) : Nat × Nat × Nat :=
  (r.kept.filter fun k => k.1 == core).foldl (fun a k => addLoad a k.2) (s.coreLoad core r.gone)

/-- Whether a core takes a crew of a load in each of some rooms (R211). -/
def State.fitsIn (s : State) (rooms : List Room) (load : Nat × Nat × Nat) (core : Nat) : Bool :=
  s.coreOpen core && rooms.all fun r => loadFits (addLoad (s.roomLoad core r) load)

/-- The crews of a launch that are saved. -/
def State.savedCrews (s : State) (key : Nat) : List (Nat × Crew) :=
  s.crews.filter fun c => c.2.launch == key && (c.2.res == .shadow || c.2.res == .hbm)

/-- The cores on which a saved crew may resume: its own (R388), or, where that number is absent, those of its placement set (R394).
DEDUCED (log 27): where the set holds no core, as that of a core-mode launch whose number is absent, the crew waits for ever; so
does a launch that has been opened with crews still to place (R160 checks the set at the take, and no later). -/
def State.seatsOf (s : State) (c : Crew) : List Nat :=
  if (s.physOf c.core).isSome then [c.core] else s.placementSet (s.wbOf c.launch)

/-- The crews that come back with a saved crew: all of a gated launch (R219). -/
def State.returning (s : State) (id : Nat) (c : Crew) : List (Nat × Crew) :=
  if wbGated (s.wbOf c.launch) then s.savedCrews c.launch else [(id, c)]

/-- The crews that are placed together with what waits, each as the cores it may stand on and its load: all crews of a gated launch,
else one (R217, R219). -/
def State.needs (s : State) : Pending → List (List Nat × Nat × Nat × Nat)
  | .launch k =>
    let w := s.wbOf k
    let groups := wbCount w 1
    List.replicate (if wbGated w then crewTotal w else 1) (s.placementSet w, groups, wbScratch w, tilesOf w groups)
  | .crew id => ((s.crew? id).map fun c => (s.returning id c).map fun x => (s.seatsOf x.2, s.crewLoad x.2)).getD []

/-- Bytes of the private pool that placing what waits takes: a saved crew has its areas already (R399). -/
def State.poolNeed (s : State) (p : Pending) : Nat :=
  match p with
  | .launch k => (s.needs p).length * crewPrivate (s.wbOf k)
  | .crew _ => 0

/-- Tollgate trees that placing what waits takes (R220). -/
def State.treeNeed (s : State) : Pending → Nat
  | .launch k => if wbGated (s.wbOf k) then 1 else 0
  | .crew _ => 0

/-- Whether the crews of a gated launch have all left their cores: it resumes on all of them together (R219, R388). -/
def State.allOut (s : State) : Pending → Bool
  | .launch _ => true
  | .crew id =>
    let key := ((s.crew? id).map (·.launch)).getD 0
    !wbGated (s.wbOf key) || !(s.crews.any fun x => x.2.launch == key && (x.2.res == .halting || x.2.res == .ending))

/-- Seats for crews, each on the first of its cores that takes it in every room beside those already seated; where the rules let the
dispatcher choose any (R217, R394), a step that names a core goes before this order (logs 11, 27). None where they do not fit. -/
def State.seat (s : State) : List Room → List (List Nat × Nat × Nat × Nat) → Option (List (Nat × Nat × Nat × Nat))
  | _, [] => some []
  | rooms, n :: r =>
    match n.1.find? (s.fitsIn rooms n.2) with
    | some core => (State.seat s (rooms.map (Room.claim (core, n.2))) r).map fun l => (core, n.2) :: l
    | none => none

/-- The seats of what waits in each of some rooms: where the pool supplies its areas (R399), a gated launch finds a tree (R220), and
its crews are all out. -/
def State.places (s : State) (rooms : List Room) (p : Pending) : Option (List (Nat × Nat × Nat × Nat)) :=
  if s.allOut p && rooms.all fun r =>
      decide (s.poolUsed + r.pool + s.poolNeed p ≤ Config.poolBytes) && decide (r.trees + s.treeNeed p ≤ s.freeTrees.length) then
    s.seat rooms (s.needs p)
  else none

/-- The crews that go with a victim: all of a gated launch (R219). -/
def State.withGate (s : State) (x : Nat × Crew) : List Nat :=
  if wbGated (s.wbOf x.2.launch) then (s.crews.filter fun y => y.2.launch == x.2.launch && y.2.res == .resident).map fun y => y.1
  else [x.1]

/-- The cores on which what waits could stand. -/
def State.pendingCores (s : State) (p : Pending) : List Nat := ((s.needs p).map fun n => n.1).flatten

/-- Takes victims in turn until what waits fits in the room that they leave: the victims, and its seats (R218). -/
def State.chooseVictims (s : State) (p : Pending) (r : Room) :
    List Nat → List (Nat × Crew) → Option (List Nat × List (Nat × Nat × Nat × Nat))
  | taken, [] => (s.places [{ r with gone := r.gone ++ taken }] p).map fun l => (taken, l)
  | taken, v :: rest =>
    match s.places [{ r with gone := r.gone ++ taken }] p with
    | some l => some (taken, l)
    | none => s.chooseVictims p r (taken ++ (s.withGate v).filter fun x => !taken.contains x && !r.gone.contains x) rest

/-- Resident crews of lower priority on the cores of what waits, those of faulted and halted contexts too: the lowest priority
first, in it the crew placed latest first (R218, R386). -/
def State.victims (s : State) (p : Pending) : List (Nat × Crew) :=
  let cores := s.pendingCores p
  let lower := s.crews.filter fun c => c.2.res == .resident && cores.contains c.2.core &&
    decide (wbPriority (s.wbOf c.2.launch) < (s.pendingKey p).1)
  let before (a b : Nat × Crew) : Bool :=
    let pa := wbPriority (s.wbOf a.2.launch)
    let pb := wbPriority (s.wbOf b.2.launch)
    decide (pa < pb) || (pa == pb && decide (b.2.order < a.2.order))
  let rec insert (x : Nat × Crew) : List (Nat × Crew) → List (Nat × Crew)
    | [] => [x]
    | y :: r => if before x y then x :: y :: r else y :: insert x r
  lower.foldl (fun l x => insert x l) []

/-- A room when what waits has its seats set aside and its victims have left. -/
def State.setAside (s : State) (r : Room) (p : Pending) (gone : List Nat) (seats : List (Nat × Nat × Nat × Nat)) : Room :=
  { gone := r.gone ++ gone, kept := r.kept ++ seats, pool := r.pool + s.poolNeed p, trees := r.trees + s.treeNeed p }

/-- The dispatcher's plan for what waits, in order: the first that fits as the cores stand, with its seats, and the crews to halt
for those before it, which fit once these and the crews that are halting have left (R217, R218). DEDUCED (log 27): what is served
earlier keeps the seats that its victims leave, for it is not delayed by lower crews; where no victims suffice it keeps nothing. -/
def State.planFor (s : State) :
    Room → List Nat → List Pending → Option (Pending × List (Nat × Nat × Nat × Nat) × Room) × List Nat
  | _, halts, [] => (none, halts)
  | r, halts, p :: rest =>
    match s.places [.asIs, r] p with
    | some seats => (some (p, seats, r), halts)
    | none =>
      match s.chooseVictims p r [] (s.victims p) with
      | some (gone, seats) => s.planFor (s.setAside r p gone seats) (halts ++ gone) rest
      | none => s.planFor r halts rest

/-- The crews that are halting. -/
def State.halting (s : State) : List Nat := (s.crews.filter fun c => c.2.res == .halting).map fun c => c.1

/-- What the dispatcher places next, with its seats and the room that is set aside for what is served earlier; and the crews that it
halts. -/
def State.planning (s : State) : Option (Pending × List (Nat × Nat × Nat × Nat) × Room) × List Nat :=
  s.planFor { Room.asIs with gone := s.halting } [] s.pending

/-- The dispatcher's plan: what it places next, and the crews that it halts. -/
def State.plan (s : State) : Option (Pending × List (Nat × Nat × Nat × Nat)) × List Nat :=
  (s.planning.1.map fun x => (x.1, x.2.1), s.planning.2)

/-- The step that places what waits. -/
def placing (p : Pending) (core : Nat) : Instr :=
  match p with
  | .launch k => .crewPlacement k core
  | .crew id => .crewResume id

/-- Makes the plan due: the halts, for different cores and launches at once (R388), and the next placement. -/
def State.dispatch (s : State) : State :=
  let plan := s.plan
  let next := (plan.1.map fun x => placing x.1 ((x.2.head?.map fun k => k.1).getD 0)).toList
  s.dueAll ((plan.2.map Instr.preemptionHalt ++ next).filter fun i => !s.agenda.contains i)

/-- The seats that the plan has for what waits, where it is what is placed next. -/
def State.seatsFor (s : State) (p : Pending) : Option (List (Nat × Nat × Nat × Nat)) :=
  s.plan.1.bind fun x => if x.1 = p then some x.2 else none

/-- The cores of a crew with one of them before the others. -/
def preferring (core : Nat) (n : List Nat × Nat × Nat × Nat) : List Nat × Nat × Nat × Nat :=
  (if n.1.contains core then core :: n.1 else n.1, n.2)

/-- The seats for what is placed next where the dispatcher chooses a core: any that takes it in the room that the plan leaves it
(R217; log 11). -/
def State.seatsOn (s : State) (p : Pending) (core : Nat) : Option (List (Nat × Nat × Nat × Nat)) :=
  s.planning.1.bind fun x =>
    if x.1 = p then (s.seat [.asIs, x.2.2] ((s.needs p).map (preferring core))).filter fun l => l.any fun k => k.1 == core else none

/-- A crew of an open launch is placed on the core named, where that one takes it (R217); the crews of a gated launch are placed at
once, with a tree (R219, R220). -/
def execCrewPlacement (launch core : Nat) (s : State) : Host.Outcome State Fault Refusal :=
  match s.seatsOn (.launch launch) core with
  | none => .next s.dispatch
  | some seats =>
    let s1 := seats.foldl (fun t k => t.placeCrew launch k.1) s
    match (if wbGated (s.wbOf launch) then s.freeTrees.head? else none) with
    | some t => .next (s1.giveTree launch t).dispatch
    | none => .next s1.dispatch

/-! ## Opening launches (R216) -/

/-- The oldest ready waybill of every queue of a running context. -/
def State.oldestReady (s : State) : List (Nat × Launch) :=
  let ready := s.launches.filter fun x => x.2.st == .ready && s.running x.2.ctx
  ready.filter fun x => !ready.any fun y => y.2.ctx == x.2.ctx && y.2.queue == x.2.queue && decide (y.2.order < x.2.order)

/-- The first number after `last`, wrapping, of an ascending list. -/
def firstAfter (last : Option Nat) (l : List Nat) : Option Nat :=
  match last with
  | none => l.head?
  | some x => (l.find? fun y => decide (x < y)) <|> l.head?

/-- Key of a level and a context. -/
def levelKey (level ctx : Nat) : Nat := 256 * level + ctx

/-- The dispatcher's choice among ready waybills of the highest level: the launch, and the state with the round moved on. -/
def State.choose (s : State) : Option (Nat × State) :=
  let ready := s.oldestReady
  let level := ready.foldl (fun m x => max m (wbPriority x.2.wb)) 0
  let at_ := ready.filter fun x => wbPriority x.2.wb == level
  let ctxs := (s.contexts.map fun c => c.1).filter fun c => at_.any fun x => x.2.ctx == c
  let rich (cr : Tbl Nat) : List Nat := ctxs.filter fun c => tblGet cr (levelKey level c) 0 != 0
  let fresh := s.contexts.foldl (fun cr c => tblSet cr (levelKey level c.1) c.2.share) s.credits
  let credits := if (rich s.credits).isEmpty then fresh else s.credits
  match firstAfter (tblGet? s.lastServed level) (rich credits) with
  | none => none
  | some c =>
    let qs := (List.range 9).filter fun q => at_.any fun x => x.2.ctx == c && x.2.queue == q
    match firstAfter (tblGet? s.lastQueue (levelKey level c)) qs with
    | none => none
    | some q =>
      (at_.find? fun x => x.2.ctx == c && x.2.queue == q).map fun x =>
        (x.1, { s with credits := tblSet credits (levelKey level c) (tblGet credits (levelKey level c) 0 - 1),
                       lastServed := tblSet s.lastServed level c, lastQueue := tblSet s.lastQueue (levelKey level c) q })

/-- Opens a launch, or rejects one that can never be placed (R217, R219). -/
def State.openOne (s : State) (key : Nat) : State :=
  match s.launch? key with
  | none => s
  | some l =>
    let set := s.placementSet l.wb
    if set.isEmpty then s.rejectLaunch key 8
    else if wbGated l.wb && decide ((set.map fun _ => roomFor (0, 0, 0) l.wb).sum < crewTotal l.wb) then s.rejectLaunch key 3
    else (State.setLaunch { s with nextOrder := s.nextOrder + 1 } key { l with st := .opened, order := s.nextOrder }).dispatch

/-- The dispatcher opens the next ready waybill by priority and share rounds (R216); `launch` is the waybill whose readiness made
the step due. -/
def execOpenLaunch (_launch : Nat) (s : State) : Host.Outcome State Fault Refusal :=
  match s.choose with
  | none => .next s
  | some (key, s1) => .next (s1.openOne key)

/-! ## The aggregator (R223 to R226) -/

/-- Writes a field of a byte list. -/
def putField (w : List Byte) (a : Nat) (b : List Byte) : List Byte := w.take a ++ b ++ w.drop (a + b.length)

/-- Closes a batch: it becomes one waybill, its template with n5 set to the child count and a table (R224, R225). -/
def State.closeBatch (s : State) (ctx : Nat) (b : Batch) : State :=
  let key := launchKey ctx b.id
  let w := putField (putField b.wb 0x28 (leBytes b.table.length 4)) 0x68 (leBytes 8 8)
  let s1 := s.modContext ctx fun c => { c with batches := c.batches.filter fun x => x.id != b.id }
  let s2 : State := { s1 with nextOrder := s1.nextOrder + 1 }
  let s3 := s2.modLaunch key fun l => { l with wb := w, st := .taken, table := b.table, order := s1.nextOrder }
  match s3.checkTake ctx w true (fieldAt b.wb 0x68 8) (fieldAt b.wb 0x28 4) with
  | some code => s3.rejectLaunch key code
  | none => s3.readyHeads ctx

/-- Nanoseconds that a batch stays open (R224). -/
def batchWindow : Nat := 2000

/-- An aggregator batch closes 2 µs after opening and becomes a waybill (R224); the context's earliest batch closes, and the clock
has reached its end. -/
def execAggregatorBatchClose (ctx : Nat) (s : State) : Host.Outcome State Fault Refusal :=
  match s.context? ctx with
  | some c =>
    match c.batches with
    | b :: _ =>
      if c.st = .running then
        let t := b.openedAt + BitVec.ofNat 64 batchWindow
        .next (State.closeBatch { s with clock := if s.clock.ult t then t else s.clock } ctx b)
      else .next s
    | [] => .next s
  | none => .next s

/-- Children at which a batch closes (R224). -/
def batchLimit (w : List Byte) : Nat := min 4096 (2 ^ wbWidth w 5)

/-- The aggregator accepts a child: the state and the ticket (R223). -/
def State.acceptChild (s : State) (ctx : Nat) (template : DWord) (w : List Byte) (param : DWord) : State × DWord :=
  match s.context? ctx with
  | none => (s, 0)
  | some c =>
    let (s1, b) : State × Batch :=
      match c.batches.find? fun b => b.template == template with
      | some b => (s, b)
      | none =>
        let s0 :=
          match c.batches with
          | first :: _ => if 8 ≤ c.batches.length then s.closeBatch ctx first else s
          | [] => s
        let (s1, key) := s0.newLaunch ctx 8 0 w .gathering true
        (s1, { template := template, id := key % 4294967296, wb := w, table := [], openedAt := s.clock })
    let b1 := { b with table := b.table ++ [param] }
    let s2 := s1.modContext ctx fun c =>
      { c with batches := if c.batches.any fun x => x.id == b.id then c.batches.map fun x => if x.id = b.id then b1 else x
                          else c.batches ++ [b1] }
    (if batchLimit b.wb ≤ b1.table.length then s2.closeBatch ctx b1 else s2, ticketOf ctx b.id)

/-- The bytes of a template piece. -/
def templatePiece (s : State) (g : Group) : Nat × Nat × Route → List Byte
  | (n, _, .mem _ pa) => memReadBytes s.mem pa n
  | (n, va, .area a) => s.areaRead a va n
  | (n, va, .remote _ _) => bytesAt (((g.template.find? fun x => x.1 == va).map (·.2)).getD []) 0 n
  | (n, _, _) => List.replicate n 0

/-- Remote pieces of a template that have not been read. -/
def templateWants (g : Group) (l : List (Nat × Nat × Route)) : List (Nat × Nat × Peer × Nat) :=
  l.filterMap fun x =>
    match x with
    | (n, va, .remote p a) => if g.template.any fun y => y.1 == va then none else some (n, va, p, a)
    | _ => none

/-- Whether a template piece holds an uncorrectable error, and where. -/
def templateBad (s : State) : Nat × Nat × Route → Option Nat
  | (n, va, .mem _ pa) => if s.bankBad pa n then some va else none
  | (n, va, .area a) => if s.areaBad a va n then some va else none
  | _ => none

/-- The pieces of a template: those within lines, or all of it in the private range. -/
def templateSpans (va : Nat) : List (Nat × Nat) := if inPrivateRange va then [(va, 128)] else piecesOf va 128

/-- The fates of the pieces of a template, as of the bytes of one lane. -/
def templateFates (core ctx : Nat) (verdicts : List (PageRef × Bool)) : State → List (Nat × Nat) → State × List (Nat × Nat × Route)
  | s, [] => (s, [])
  | s, (va, n) :: r =>
    let fate := s.route core ctx va n .load verdicts
    let rest := templateFates core ctx verdicts fate.1 r
    (rest.1, (noLane, va, fate.2) :: rest.2)

/-- A remote template piece whose read has failed, kept as its status alone: the cause and the address (R104; log 22). -/
def templateFailed (g : Group) : Nat × Nat × Route → Option (Nat × Nat)
  | (_, va, .remote _ a) =>
    match (g.template.find? fun x => x.1 == va).map (·.2) with
    | some [st] => some (if st = 4 then causeUCE else causeDZW, a)
    | _ => none
  | _ => none

/-- The context's open batch for a template (R224). -/
def State.openBatch (s : State) (ctx : Nat) (template : DWord) : Option Batch :=
  (s.context? ctx).bind fun c => c.batches.find? fun b => b.template == template

/-- The body of `launch` (R223). The template's bytes are read where a batch is to be opened with them (R224): for a batch that is
open the address is translated, and no more. -/
def launchBody (d a b : Nat) (v : View) : Res :=
  let va := (v.g.sval a).toNat
  if va % 8 ≠ 0 then .stop v.s (.trap causeALIGN noLane v.sl.mask (BitVec.ofNat 64 va) 0)
  else if addressEnd < va + 128 then .stop v.s (.trap causeADDR noLane v.sl.mask (BitVec.ofNat 64 va) 0)
  else
    let checked := templateFates v.core v.ctx v.sl.verdicts v.s (templateSpans va)
    match accessStop v.sl.mask checked.2 with
    | some e => .stop checked.1 e
    | none =>
      let pieces := (templateSpans va).zip checked.2 |>.map fun x => (x.1.2, x.1.1, x.2.2.2)
      let opens := (checked.1.openBatch v.ctx (v.g.sval a)).isNone
      match (if opens then templateWants v.g pieces else []) with
      | (n, pva, p, addr) :: _ =>
        .stop (checked.1.request (peerMsg p 1 n addr 0 []) (.template v.gid pva)) (.wait .remote)
      | [] =>
        match (if opens then pieces.findSome? (templateFailed v.g) else none) with
        | some f => .report checked.1 { v.g with template := [] } (.trap f.1 noLane v.sl.mask (BitVec.ofNat 64 f.2) 0)
        | none =>
        let p := performAt { v with s := checked.1 } 3
        if p.2 then .stop p.1 (.wait .ack)
        else
          match p.1.context? v.ctx with
          | some { st := .resetting, .. } => .done { v with s := p.1, g := v.g.setScalar d 0 }
          | _ =>
            match (if opens then pieces.findSome? (templateBad p.1) else none) with
            | some bad => .stop p.1 (.trap causeUCE noLane v.sl.mask (BitVec.ofNat 64 bad) 0)
            | none =>
              let (s1, t) := p.1.acceptChild v.ctx (v.g.sval a) ((pieces.map (templatePiece p.1 v.g)).flatten) (v.g.sval b)
              .done { v with s := s1, g := { v.g.setScalar d t with template := [] } }

/-- Posts a device-side child launch to the aggregator and returns its ticket (R223). -/
def execLaunch (g : BitVec 3) (d a b : BitVec 6) (s : State) : Host.Outcome State Fault Refusal :=
  runSplit 4 (cBody g.toNat [d.toNat, a.toNat, b.toNat] [a.toNat, b.toNat] (launchBody d.toNat a.toNat b.toNat)) s

/-- Records that a context may have unacknowledged before `evpost` waits (R227). -/
def eventLimit : Nat := 256

/-- The body of `evpost` (R227). -/
def eventBody (a : Nat) (v : View) : Res :=
  let p := performAt v 4
  if p.2 then .stop p.1 (.wait .ack)
  else
    let full : Bool :=
      match p.1.context? v.ctx with
      | some c => decide (eventLimit ≤ c.unacked.length)
      | none => false
    if full then .stop p.1 (.wait .event)
    else
      .done { v with s := p.1.postEvent v.ctx 10 (leBytes (v.g.sval a).toNat 8 ++
        leBytes (v.s.launchOf v.g % 4294967296) 4 ++ leBytes v.core 4) }

/-- Posts a kernel event record to the host, waiting when 256 are unacknowledged (R227). -/
def execEvpost (g : BitVec 3) (a : BitVec 6) (s : State) : Host.Outcome State Fault Refusal :=
  runSplit 4 (cBody g.toNat [a.toNat] [a.toNat] (eventBody a.toNat)) s

/-! ## The end of a group (R130, R204, R215, R222) -/

/-- A group's exit at the tollgate: an arrival in the phase, and one group fewer in later phases (R222). -/
def State.leaveTollgate (s : State) (gid : Nat) (g : Group) : State :=
  match s.treeOf g with
  | none => s
  | some (k, t) =>
    let t1 := if t.arrived.contains gid then t else t.arrive (s.coreOf g) gid
    let t2 : Tree := { t1 with counters := tblMod (fun c => (c.1, c.2 - 1)) t1.counters (s.coreOf g) }
    if t2.counters.all fun c => c.2.2 == 0 then { s with trees := tblSet s.trees k t2 } else s.putTree k t2

/-- The end of a crew: its place on the core is free, and the launch counts it. -/
def State.endCrew (s : State) (cid : Nat) (c : Crew) : State :=
  let s1 := { s with crews := tblErase s.crews cid }
  match s1.launch? c.launch with
  | none => s1
  | some l =>
    let l1 := { l with endedCrews := l.endedCrews + 1, cores := tblSet l.cores c.core s.tick }
    if l1.endedCrews = crewTotal l.wb then
      (s1.setLaunch c.launch { l1 with st := .ended, draining := l1.cores.map fun x => x.1 }).due (.launchCompletion c.launch)
    else s1.setLaunch c.launch l1

/-- The private area of a group that ends, where it is kept (R399). -/
def State.keptOf (s : State) (gid : Nat) (g : Group) : List KeptArea :=
  if g.keep then
    [{ group := gid, base := g.privBase.toNat, size := s.areaSize g,
       mem := memWriteBytes g.priv (trapOffset (s.groupWb g) g.width) g.trapRec, bad := g.privBad }]
  else []

/-- A group's final exit counts its completion once its engine operations have completed (R130): its registers, records and
private area are released (R204), but for an area that is kept until the context is reset (R399). What it held of its core may let a
crew that waits be placed (R211, R217). -/
def execGroupCompletion (group : Nat) (s : State) : Host.Outcome State Fault Refusal :=
  match s.group? group with
  | none => .next s
  | some g0 =>
    if (g0.present == 0) then
      let s0 := s.flushArea (s.ctxOf g0) g0.privBase.toNat (s.areaSize g0)
      let g := (s0.group? group).getD g0
      let s1 := s0.leaveTollgate group g
      let s2 := State.modContext { s1 with groups := tblErase s1.groups group } (s.ctxOf g) fun c =>
        { c with kept := c.kept ++ s.keptOf group g, progress := c.progress || g.active }
      match s2.crew? g.crew with
      | none => .next s2
      | some c =>
        let c1 := { c with ended := c.ended ++ [group] }
        if c1.live.isEmpty then .next ((s2.setCrew g.crew c1).endCrew g.crew c1).dispatch
        else .next ((s2.setCrew g.crew c1).recheckBars none g.crew).dispatch
    else .next s

/-! ## Completion of a launch (R161, R228, R394) -/

/-- Whether a delta line has nothing pending: its additions go to the bank one by one, and none waits (R357). -/
def Delta.quiet (d : Delta) : Bool := d.st == .direct && d.waiting.isEmpty && !d.spilling && !d.leaving

/-- Whether weir additions of a context are pending on a core, or messages about them are on their way (R353, R357). -/
def State.weirPending (s : State) (ctx core : Nat) : Bool :=
  (s.agenda.any fun i =>
    match i with
    | .sluice c x _ => x == ctx && c == core
    | .weirRun c x _ _ _ _ => x == ctx && c == core
    | .spillAcknowledgement c x _ => x == ctx && c == core
    | .returnNotice c x _ => x == ctx && c == core
    | .shareRequest c x _ _ => x == ctx && c == core
    | .shareGrant c x _ _ => x == ctx && c == core
    | _ => false) || ((s.coreSt core).deltas.any fun d => d.ctx == ctx && !d.quiet) || (s.coreSt core).roomless.any fun x => x.ctx == ctx

/-- The sluices that drain a context's delta lines on some cores, those not yet on their way. -/
def State.spillsDue (s : State) (ctx : Nat) (cores : List Nat) : List Instr :=
  ((cores.map fun k => ((s.coreSt k).deltas.filter fun d => d.ctx == ctx && !d.leaving && !d.quiet).map fun d =>
    Instr.sluice k ctx d.pline).flatten).filter fun i => !s.agenda.contains i

/-- The tag of the completion word (R161, R337). -/
def completionTag : Word := scopeTag 4 tagDispatcher 0 0

/-- Steps 3 and 4 of R228, once the completion word has its status: tickets are satisfied, the provisional event posts, the tree
is free, and a launch whose cores have all passed dressing is confirmed (R394). -/
def State.finishLaunch (s : State) (key : Nat) (l : Launch) (status : Nat) : State :=
  let s0 : State :=
    match l.tree with
    | some t => { s with trees := tblErase s.trees t }
    | none => s
  let s1 := ((s0.setLaunch key { l with st := .complete, tree := none, wordHeld := false }).postEvent l.ctx 1
    (leBytes l.id 4 ++ leBytes status 1)).readyHeads l.ctx
  let s2 := if l.unconfirmed.isEmpty && !l.suspect then s1.postEvent l.ctx 2 (leBytes l.id 4) else s1
  s2.dispatch

/-- Steps 2 to 4 of R228: the completion word is a release at sys scope, which waits for the replica invalidations that the
dispatcher's earlier writes caused (R342), and the event posts once the word's own have arrived (R329). -/
def State.putCompletion (s : State) (key : Nat) (l : Launch) : State :=
  let addr := fieldAt l.wb 0x40 8
  if addr = 0 then s.finishLaunch key l 1
  else if s.sysPending then s.due (.launchCompletion key)
  else
    match s.sysWrite l.ctx addr (bytesAt l.wb 0x48 8) l.fatal completionTag with
    | .ok s1 _ =>
      if s1.sysPending then (s1.setLaunch key { l with st := .written, wordHeld := false }).due (.launchCompletion key)
      else s1.finishLaunch key l 0
    | .held s1 va p => (s1.setLaunch key { l with wordHeld := true }).requestPage l.ctx va p
    | .fail s1 st _ => s1.finishLaunch key l st
    | .later s1 => s1.due (.launchCompletion key)
    | .asleep s1 => s1

/-- The steps of R228: each core that ran the launch is drained until nothing of the context is pending on it. -/
def State.completeLaunch (s : State) (key : Nat) : State :=
  match s.launch? key with
  | none => s
  | some l =>
    if l.st = .written then (if s.sysPending then s.due (.launchCompletion key) else s.finishLaunch key l 0)
    else if l.st ≠ .ended then s
    else
      let l1 := { l with draining := l.draining.filter fun c => s.weirPending l.ctx c }
      if l1.draining = [] then (s.setLaunch key l1).putCompletion key l1
      else ((s.setLaunch key l1).dueAll (s.spillsDue l.ctx l1.draining)).due (.launchCompletion key)

/-- After the last group ends, weir deltas drain, the completion word is written, tickets satisfied and the provisional event
posted (R228). -/
def execLaunchCompletion (launch : Nat) (s : State) : Host.Outcome State Fault Refusal := .next (s.completeLaunch launch)

end Sys2Proof.Machine
end

