-- ==== Sys2Proof/Machine/Sched.lean ====
section
/-! DEFINITION. What a core issues next, and how waiting and pre-empted groups leave and come back: readiness, effective
priorities and the ring (R195 to R199), rotation (R202), the swap area (R209, R210), pre-emption and resumption (R212, R387,
R388, R395). -/

namespace Sys2Proof.Machine

/-! ## Readiness (R195) -/

/-- Whether a group may issue at all. -/
def Group.mayIssue (g : Group) : Bool :=
  !g.swapped && !g.leaving && !g.restart && g.halt == .running && !((g.slotA.toList ++ g.slotB.toList).any Split.held)

/-- Whether a live slot is ready: it does not wait, or it waits for an allocation that is now served. -/
def State.slotReady (s : State) (core : Nat) (g : Group) (b : Bool) : Bool :=
  match g.slot b with
  | none => false
  | some x =>
    !g.frozen b &&
      match x.wait with
      | .none => true
      | .hold true => true
      | .alloc n => s.allocServed core g.crew n
      | _ => false

/-- A split in the ring of its core: residence index, slot, group, wait count and launch priority. -/
structure RingEntry where
  index : Nat
  slotB : Bool
  group : Nat
  prio  : Nat
  deriving DecidableEq, Repr

/-- Effective priority (R196). -/
def effective (prio waitCount : Nat) : Nat := min 127 (prio + waitCount / 4096)

/-- Place in the ring: by residence index, slot A before B (R197). -/
def RingEntry.place (e : RingEntry) : Nat := 2 * e.index + (if e.slotB then 1 else 0)

/-- The resident groups of a core that may issue. -/
def State.issuers (s : State) (core : Nat) : List (Nat × Group × Nat) :=
  ((s.crews.filter fun c => c.2.core == core && c.2.res == .resident).map fun c =>
    ((s.groupsOf c.2).filter fun g => g.2.mayIssue && s.goesOn (ctxOfKey c.2.launch) g.1).map fun g =>
      (g.1, g.2, wbPriority (s.wbOf c.2.launch))).flatten

/-- The ready splits of a core with their effective priorities. -/
def State.readySplits (s : State) (core : Nat) : List RingEntry :=
  ((s.issuers core).map fun x =>
    ([false, true].filter fun b => s.slotReady core x.2.1 b).map fun b =>
      ({ index := x.2.1.index, slotB := b, group := x.1,
         prio := effective x.2.2 (((x.2.1.slot b).map (·.waitCount)).getD 0) } : RingEntry)).flatten

/-- The first entry of a level after a place in ring order, wrapping. -/
def ringNext (l : List RingEntry) (last : Option Nat) : Option RingEntry :=
  let least (l : List RingEntry) : Option RingEntry := l.foldl (fun b e =>
    match b with
    | none => some e
    | some x => if e.place < x.place then some e else b) none
  match last with
  | none => least l
  | some p => least (l.filter fun e => decide (p < e.place)) <|> least l

/-- The split that a core issues next in the cycle under way (R197): none where its issue slots are full or nothing is ready. -/
def State.nextSplit (s : State) (core : Nat) : Option RingEntry :=
  let c := s.coreSt core
  if 4 ≤ c.issued then none
  else
    let r := (s.readySplits core).filter fun e => !c.done.contains e.group
    let top := r.foldl (fun m e => max m e.prio) 0
    ringNext (r.filter fun e => e.prio == top) ((tblGet? c.pointer top).map fun p => 2 * p.1 + (if p.2 then 1 else 0))

/-- Notes that a split issues: the pointer of its level, its group for this cycle, and the issue slot that it fills (R195, R197,
R198). -/
def State.noteIssue (s : State) (core : Nat) (e : RingEntry) (slot : IssueSlot) : State :=
  State.modCore { s with lastCore := core } core fun c =>
    { c with pointer := tblSet c.pointer e.prio (e.index, e.slotB), issued := c.issued + 1, done := e.group :: c.done,
             slot := some slot }

/-- The split that a core may pack next into the issue slot that it has filled: the first in ring order after the chosen one, of the
same context at the same code address, whose lanes find room (R198; log 1: the lanes of a split are its active ones). -/
def State.packSplit (s : State) (core : Nat) : Option RingEntry :=
  let c := s.coreSt core
  match c.slot with
  | none => none
  | some t =>
    let fits (e : RingEntry) : Bool :=
      match s.group? e.group with
      | none => false
      | some g =>
        let joins (x : Split) : Bool := x.pc == t.pc && decide (t.lanes + popCount x.mask.toNat 64 ≤ 64)
        s.ctxOf g == t.ctx && ((g.slot e.slotB).map joins).getD false
    ringNext ((s.readySplits core).filter fun e => !c.done.contains e.group && fits e) (some t.place)

/-- Notes that a packed split issues: its group issues nothing else in the cycle; no pointer moves (R198). -/
def State.notePack (s : State) (core : Nat) (e : RingEntry) (lanes : Nat) : State :=
  State.modCore { s with lastCore := core } core fun c =>
    { c with done := e.group :: c.done, slot := c.slot.map fun t => { t with lanes := t.lanes + lanes } }

/-- The wait counts of a group at the end of a cycle: one more for a split that was ready and did not issue; a split that was not
ready starts again (R195). `ready` says whether a split that waits for nothing would issue. -/
def State.countWaits (s : State) (core : Nat) (ready : Nat → Bool → Bool) (may : Bool) (gid : Nat) (g : Group) : Group :=
  let f (b : Bool) (x : Split) : Split :=
    if may && s.slotReady core g b && ready gid b then { x with waitCount := x.waitCount + 1 } else { x with waitCount := 0 }
  { g with slotA := g.slotA.map (f false), slotB := g.slotB.map (f true) }

/-- The end of a core's cycle: the wait counts of its groups, and `%cycle` moves on (R133, R182, R195; log 2). -/
def State.endCycle (s : State) (core : Nat) (ready : Nat → Bool → Bool) : State :=
  let c := s.coreSt core
  let mine := ((s.residents core).map fun c => (s.groupsOf c.2).map fun g => g.1).flatten
  let may := ((s.issuers core).map fun x => x.1).filter fun g => !c.done.contains g
  let s1 := mine.foldl (fun t gid => t.modGroup gid fun g => s.countWaits core ready (may.contains gid) gid g) s
  s1.setCore core { c with issued := 0, done := [], slot := none, cycle := c.cycle + 1 + BitVec.ofNat 64 (Config.stallCycles s.tick) }

/-- The wait counts of splits that are not ready start again at the end of a turn, those of a core that nothing issues on included
(R195). -/
def State.restartIdle (s : State) : State :=
  if s.groups.any fun x => x.2.allSplits.any fun y => y.waitCount != 0 then
    { s with groups := tblMap (fun gid g =>
        let may := (s.issuers (s.coreOf g)).any fun x => x.1 == gid
        let f (b : Bool) (x : Split) : Split := if may && s.slotReady (s.coreOf g) g b then x else { x with waitCount := 0 }
        { g with slotA := g.slotA.map (f false), slotB := g.slotB.map (f true),
                 spilled := g.spilled.map fun x => { x with waitCount := 0 } }) s.groups }
  else s

/-! ## Rotation (R202) -/

/-- A live split that ran 1,024 instructions without an acting join is rotated out for a spilled split (R202); the end of every
instruction does the same (`Group.balance`), so that none is kept waiting. -/
def execSplitRotation (group : Nat) (slotB : Bool) (s : State) : Host.Outcome State Fault Refusal :=
  .next (s.modGroup group fun g => g.rotate slotB)

/-! ## The swap area (R209, R210) -/

/-- Cycles after which a waiting group may be swapped out. -/
def swapCycles : Nat := 2048

/-- Since when a split waits as a candidate for the swap area: in one of the waits of R209, or with `alloc` on an allocation. A wait
of another kind at the same instruction does not count. -/
def Split.swapSince (alloc : Bool) (x : Split) : Option DWord :=
  if x.swapWait alloc then (x.since.filter fun p => p.1 == x.wait.kind).map fun p => p.2 else none

/-- How long a group has waited as a candidate, in cycles; none where a live slot does not wait so. Where both slots are idle, the
spilled splits are looked at: they all sleep at barriers, since any other would take a slot (R202). -/
def State.swapAge (s : State) (core : Nat) (g : Group) (alloc : Bool) : Option Nat :=
  let live := g.slotA.toList ++ g.slotB.toList
  let slots := (if live.isEmpty then g.spilled else live).map fun x => x.swapSince alloc
  if slots.isEmpty || !(slots.all Option.isSome) then none
  else
    let ages := slots.map fun x => ((s.coreSt core).cycle - x.getD 0).toNat
    some (ages.foldl min (ages.headD 0))

/-- Octet-registers of the registers that a swapped group restores. -/
def Group.swappedRegs (g : Group) : Nat := g.vregs.length * (g.width / 8)

/-- The octet-registers that a slot's instruction waits for. -/
def Group.allocWait (g : Group) (b : Bool) : Option Nat :=
  match g.slot b with
  | some { wait := .alloc n, .. } => if g.frozen b then none else some n
  | _ => none

/-- The allocations that a group of a core waits for, each in octet-registers: those of its instructions, with its registers where
they are swapped out, and the restoring of a group that has woken. -/
def State.wants (s : State) (gid : Nat) (g : Group) : List Nat :=
  let own := if g.swapped then g.swappedRegs else 0
  ([false, true].filterMap fun b => (g.allocWait b).map fun n => n + own) ++
    (if g.swapped && s.agenda.contains (.swapIn gid) then [own] else [])

/-- The groups of running crews of a core. -/
def State.runningGroups (s : State) (core : Nat) : List (Nat × Group) :=
  ((s.crews.filter fun c => c.2.core == core && c.2.res == .resident && s.running (ctxOfKey c.2.launch)).map fun c =>
    s.groupsOf c.2).flatten

/-- The groups of a core that stall on an allocation that is not served. -/
def State.stalled (s : State) (core : Nat) : List (Nat × Group) :=
  (s.runningGroups core).filter fun x => (s.wants x.1 x.2).any fun n => !s.allocServed core x.2.crew n

/-- Swapped groups that stalled on an allocation which is now served: they come back (R209, R210). -/
def State.wakeable (s : State) (core : Nat) : List Nat :=
  ((s.runningGroups core).filter fun x => x.2.swapped && !s.agenda.contains (.swapIn x.1) &&
    (s.wants x.1 x.2).any fun n => s.allocServed core x.2.crew n).map fun x => x.1

/-- The longest-waiting candidate of a core for the stall of group `me`, which is none itself (R209, R210). -/
def State.swapFor (s : State) (core me : Nat) : Option Nat :=
  let groups := ((s.residents core).map fun c => s.groupsOf c.2).flatten
  let short : Option Nat := (s.favoured core).bind fun f => if s.pool core < s.deficit f.2 then some f.1 else none
  let old := groups.filterMap fun x =>
    if x.1 = me || x.2.swapped || x.2.vregs.isEmpty then none
    else
      let alloc :=
        match short with
        | some f => x.2.crew != f
        | none => false
      (s.swapAge core x.2 alloc).bind fun a => if swapCycles ≤ a then some (x.1, a) else none
  (old.foldl (fun (b : Option (Nat × Nat)) x =>
    match b with
    | none => some x
    | some y => if y.2 < x.2 then some x else b) none).map fun x => x.1

/-- The group that a core swaps out next: for the first of its stalled groups that there is a candidate for (R209). -/
def State.swapChoice (s : State) (core : Nat) : Option Nat := (s.stalled core).findSome? fun x => s.swapFor core x.1

/-- A waiting group's registers are written to the swap area to serve a stalled allocation (R209), once its outstanding
register-writing operations have completed. A swap-out that has begun is completed, and a wake takes effect after it. -/
def execSwapOut (group : Nat) (s : State) : Host.Outcome State Fault Refusal :=
  match s.group? group with
  | none => .next s
  | some g =>
    if g.swapped then .next s
    else if g.leaving || s.swapChoice (s.coreOf g) == some group then
      if s.loadsOut group g then .next ((s.setGroup group { g with leaving := true }).due (.swapOut group))
      else .next ((s.setGroup group { g with swapped := true, leaving := false }).restore group)
    else .next s

/-- The registers of a group as they come back from the swap area: a lane with an uncorrectable byte is poisoned with UCE (R209). -/
def Group.restored (g : Group) : Group :=
  let g1 := g.swapBad.foldl (fun g x => g.putLanes x.1 [x.2] fun l => { val := g.lane x.1 l, st := .poisoned false 0 }) g
  { g1 with swapped := false, swapBad := [] }

/-- A swapped group's registers are restored on wake (R209): as an allocation is served (R210), and only while its crew is resident
(R212). -/
def execSwapIn (group : Nat) (s : State) : Host.Outcome State Fault Refusal :=
  match s.group? group with
  | none => .next s
  | some g =>
    if g.swapped && ((s.crew? g.crew).map fun c => c.res == .resident).getD false then
      if s.allocServed (s.coreOf g) g.crew g.swappedRegs then .next (s.setGroup group g.restored)
      else .next (s.due (.swapIn group))
    else .next s

/-! ## Pre-emption (R212, R387, R395) -/

/-- The crews that are halted, or go on, with a crew: those of a gated launch in the same place (R219, R388). -/
def State.mates (s : State) (id : Nat) (c : Crew) : List (Nat × Crew) :=
  if wbGated (s.wbOf c.launch) then s.crews.filter fun x => x.2.launch == c.launch && x.2.res == c.res else [(id, c)]

/-- Halts one crew. -/
def State.haltCrew (s : State) (id : Nat) (c : Crew) : State :=
  let stop (g : Group) : Group := if g.halt = .running then { g with halt := .preempted } else g
  c.groups.foldl (fun t g => t.modGroup g stop) (s.setCrew id { c with res := .halting })

/-- Whether a pre-emption is under way on some cores: halts and swaps of one core's crews proceed one after another (R388). -/
def State.preempting (s : State) (cores : List Nat) : Bool :=
  s.crews.any fun x => (x.2.res == .halting || x.2.res == .ending) && cores.contains x.2.core

/-- Whether a crew is to leave its core: for what the dispatcher serves (R218), or for a dressing (R393). -/
def State.toLeave (s : State) (id : Nat) (c : Crew) : Bool := (s.coreSt c.core).testing || s.plan.2.contains id

/-- A crew is halted at instruction boundaries for pre-emption (R387), the crews of a gated launch together (R219), once no other
pre-emption is under way on their cores (R388), if it still has to leave: a debug halt stays recorded (R395). -/
def execPreemptionHalt (crew : Nat) (s : State) : Host.Outcome State Fault Refusal :=
  match s.crew? crew with
  | none => .next s
  | some c =>
    if c.res = .resident ∧ s.toLeave crew c = true then
      let all := s.mates crew c
      if s.preempting (all.map fun x => x.2.core) then .next (s.due (.preemptionHalt crew))
      else .next ((all.foldl (fun t x => t.haltCrew x.1 x.2) s).dueAll (all.map fun x => .shadowSwap x.1))
    else .next s

/-- Whether a halting crew's loads, copy commands and restarts are settled (R212, R321, R395). -/
def State.crewSettled (s : State) (c : Crew) : Bool :=
  (s.groupsOf c).all fun x => !s.loadsOut x.1 x.2 && !x.2.restart &&
    !((s.coreSt c.core).copyQ.any fun o => o.group == x.1 && o.held.isNone)

/-- A group goes on after pre-emption. -/
def Group.released (g : Group) : Group := if g.halt = .preempted then { g with halt := .running } else g

/-- A matrix operation that pre-emption stops between units keeps its event for `%prog` (R273, R276). -/
def stoppedOp (op : EngOp) : EngOp :=
  if op.units ≠ 0 ∧ op.held.isNone = true then { op with event := some (progWord op false) } else op

/-- A group's watch is dropped by pre-emption (R241, R387). -/
def Group.loseWatch (g : Group) : Group := { g with watch := g.watch.map fun w => { w with lost := true } }

/-- Moves a crew's on-core state to the shadow storage; what stood there goes to HBM (R387). Splits that wait for room in an engine
queue look again. -/
def State.swapCrew (s : State) (crew : Nat) (c : Crew) : State :=
  let cs := s.coreSt c.core
  let mine (o : EngOp) : Bool := c.groups.contains o.group
  let out (x : Crew) : Crew := if x.core = c.core ∧ x.res = .shadow then { x with res := .hbm } else x
  let s1 : State := { s with crews := tblMap (fun _ x => out x) s.crews }
  let s2 := s1.setCore c.core { cs with copyQ := cs.copyQ.filter fun o => !mine o, matQ := cs.matQ.filter fun o => !mine o }
  let c1 : Crew := { c with res := .shadow, savedCopy := cs.copyQ.filter mine, savedMat := (cs.matQ.filter mine).map stoppedOp }
  let s3 := c.groups.foldl (fun t g => t.modGroup g Group.loseWatch) (s2.setCrew crew c1)
  s3.wakeGroups (fun _ g => s3.coreOf g == c.core) fun w => decide (w = .engine)

/-- A pre-emption ends before its crew has left: its groups go on, its matrix operations too, which the halt has stopped between
units (R273), and those of its groups that have woken in the swap area come back. -/
def State.unhalt (s : State) (crew : Nat) (c : Crew) : State :=
  let mine (o : EngOp) : Bool := c.groups.contains o.group
  let s1 := c.groups.foldl (fun t g => (t.modGroup g Group.released).restore g) (s.setCrew crew { c with res := .resident })
  let s2 := s1.modCore c.core fun k => { k with matQ := k.matQ.map fun o => if mine o then stoppedOp o else o }
  s2.dueAll (((s.coreSt c.core).matQ.filter mine).map fun _ => .matrixOperationExecute c.core)

/-- A halted crew's on-core state moves to shadow storage (R387), the crews of a gated launch together, once all of them are settled
(R219, R388); the pre-emption ends where the context has faulted while they were halting (R395). -/
def execShadowSwap (crew : Nat) (s : State) : Host.Outcome State Fault Refusal :=
  match s.crew? crew with
  | none => .next s
  | some c =>
    let all := s.mates crew c
    if c.res = .ending then .next (all.foldl (fun t x => t.unhalt x.1 x.2) s).dispatch
    else if c.res = .halting then
      if all.all fun x => s.crewSettled x.2 then .next (all.foldl (fun t x => t.swapCrew x.1 x.2) s).dispatch
      else .next (s.due (.shadowSwap crew))
    else .next s

/-- A split after resumption: its counts restart (R212). -/
def Split.restartCounts (cycle : DWord) (x : Split) : Split :=
  { x with run := 0, waitCount := 0, since := x.since.map fun p => (p.1, cycle) }

/-- A group after resumption. -/
def Group.resumed (cycle : DWord) (index : Nat) (g : Group) : Group :=
  let f := Split.restartCounts cycle
  { g.released with index := index, leaving := false, slotA := g.slotA.map f, slotB := g.slotB.map f, spilled := g.spilled.map f }

/-- The registers of a resumed crew return to the vector file as far as allocations of their size are served; the others wait in the
swap area (R205, R210; log 17). -/
def State.refile (s : State) (core crew : Nat) (groups : List Nat) : State :=
  let held := groups.filter fun g => ((s.group? g).map fun x => !x.swapped && !x.vregs.isEmpty).getD false
  let s1 := held.foldl (fun t g => t.modGroup g fun x => { x with swapped := true }) s
  let s2 := held.foldl (fun t g =>
    match t.group? g with
    | some x => if t.allocServed core crew x.swappedRegs then t.setGroup g { x with swapped := false } else t
    | none => t) s1
  groups.foldl (fun t g => t.restore g) s2

/-- The watchdog window of a context begins anew: nothing that was active before counts (R386, R390, R395). -/
def State.restartWindow (s : State) (ctx : Nat) : State :=
  State.modContext { s with groups := tblMap (fun _ g => if s.ctxOf g = ctx then { g with active := false } else g) s.groups } ctx
    fun c => { c with windowStart := s.clock, progress := false }

/-- Restores one crew on a core: its own, or another one, whose L1 gives up the clean bytes of the context, as at a placement (R333,
R394), and whose reticle the replicas of which invalidations are on their way (R190, R334). The launch awaits the core's dressing
(R394). The watchdog window of its context restarts (R395). -/
def State.resumeCrew (s0 : State) (crew : Nat) (c : Crew) : State :=
  let moved := ((s0.crew? crew).map fun x => x.core != c.core).getD false
  let sm := if moved then (s0.invalidateClean c.core (ctxOfKey c.launch) 0 lineEnd).dropStales (s0.reticleOf c.core) else s0
  let s := (sm.modLaunch c.launch fun l => l.runsOn c.core s0.tick).restartWindow (ctxOfKey c.launch)
  let ix := freeIndices (s.usedIndices c.core) c.groups.length
  let ci := (freeIndices ((s.residents c.core).map fun x => x.2.index) 1).headD 0
  let cycle := (s.coreSt c.core).cycle
  let s1 := s.setCrew crew { c with res := .resident, index := ci, savedCopy := [], savedMat := [] }
  let s2 := (c.groups.zip ix).foldl (fun t x => t.modGroup x.1 (Group.resumed cycle x.2)) s1
  let s3 := (s2.refile c.core crew c.groups).modCore c.core fun k =>
    { k with copyQ := k.copyQ ++ c.savedCopy, matQ := k.matQ ++ c.savedMat }
  let asleep := c.groups.filter fun g =>
    match s3.group? g with
    | some x => x.monitorDst.isSome && (x.watch.map (·.lost)).getD false
    | none => false
  s3.dueAll (c.savedCopy.map (fun _ => Instr.copyCommandExecute c.core) ++
    c.savedMat.map (fun _ => Instr.matrixOperationExecute c.core) ++ asleep.map fun g => Instr.monitorWake g 2)

/-- A pre-empted crew is readmitted and restored (R388), in the order of R217: the crews of a gated launch together (R219), each on
its own core, or on another of its placement set where that number is absent (R394). -/
def execCrewResume (crew : Nat) (s : State) : Host.Outcome State Fault Refusal :=
  match s.crew? crew with
  | none => .next s
  | some c =>
    match s.seatsFor (.crew crew) with
    | none => .next s.dispatch
    | some seats =>
      .next (((s.returning crew c).zip seats).foldl (fun t x => t.resumeCrew x.1.1 { x.1.2 with core := x.2.1 }) s).dispatch

end Sys2Proof.Machine
end

