-- ==== Sys2Proof/Machine/Hosts.lean ====
section
/-! DEFINITION. Dzingewin at the wafer: what is received and when it is performed, memory requests and doorbells, completions of
the wafer's own requests, loss and recovery, ports and the innkeeper's notices (R165 to R171, R175 to R178, R184, R185). -/

namespace Sys2Proof.Machine

/-! ## Notices of the innkeeper (R183, R184) -/

/-- The 32-byte header (R167). -/
def headerBytes (m : Msg) : List Byte :=
  [m.kind, m.flags, m.context, m.status] ++ leBytes m.length.toNat 4 ++ leBytes m.seq.toNat 8 ++ leBytes m.address.toNat 8 ++
    leBytes m.operand.toNat 8

/-- What a signature covers: the header with its status byte 0, then `n` bytes of the payload (R183). -/
def signedBytes (m : Msg) (n : Nat) : List Byte := headerBytes { m with status := 0 } ++ m.payload.take n

/-- Bytes of a signature (R183). -/
def signatureBytes : Nat := 132

/-- The notice of the innkeeper to the owner, signed with the wafer's identity key (R184): none is sent while the wafer has no
owner. -/
def State.notice (s : State) (ctx kind : Nat) (data : List Byte) : State :=
  match s.owner with
  | none => s
  | some o =>
    let body := leBytes 0x0050 2 ++ leBytes 0 2 ++ leBytes (2 + data.length) 4 ++ leBytes kind 2 ++ data
    let m : Msg := { peer := o.ip, kind := 7, flags := 0, context := BitVec.ofNat 8 ctx, status := 0,
                     length := BitVec.ofNat 32 (body.length + signatureBytes), seq := (s.link o.ip).next, address := 0,
                     operand := 0, payload := body }
    s.request { m with payload := body ++ identitySign s.tick (signedBytes m body.length) } .notice

/-- A context field that names no context. -/
def noContext : Nat := 0xFF

/-! ## Receiving (R165, R167, R169, R170, R181) -/

/-- A frame counts as received (R400). -/
def Port.frame (p : Port) : Port := { p with received := p.received + 1 }

/-- Acknowledgements go out at a port, and count as sent; they wait while the partner pauses priority 5 (R166, R400; log 24). -/
def Port.acknowledge (p : Port) (tick : Nat) : Port :=
  if p.paused.getLsbD 5 then { p with acks := true }
  else { p with acks := false, sent := p.sent + BitVec.ofNat 64 (Config.ackFrames tick) }

/-- The acknowledgements that have waited at a port go out where its pauses let them (R166). -/
def Port.goOn (p : Port) (tick : Nat) : Port := if p.acks then p.acknowledge tick else p

/-- A frame arrives at a port: it counts as received, and acknowledgements may go out, which count as sent; or as `dropped` where it
is too long (R165, R170, R400). Under flow control the wafer may then pause priority 3 at the partner, or end the pause: a pause
frame goes out (R166; log 24). -/
def Port.arrive (p : Port) (tick : Nat) (dropped : Bool) : Port :=
  let p1 := if dropped then { p with dropped := p.dropped + 1 }
            else p.frame.acknowledge tick
  if p1.pfc && Config.holdsPartner tick != p1.holds then { p1 with holds := !p1.holds, sent := p1.sent + 1 } else p1

/-- The port at which a frame with a number arrives; 48 where none is up (log 24). -/
def State.portOf (s : State) (n : Nat) : Nat :=
  let ports := (s.livePorts []).map fun p => p.1
  (ports[Config.sprayPort (s.tick + n) % ports.length]?).getD 48

/-- A message counts at the port that it arrives at (R165, R400; log 24). -/
def State.countFrame (s : State) (m : Msg) (dropped : Bool) : State :=
  { s with ports := tblMod (fun p => p.arrive s.tick dropped) s.ports (s.portOf m.seq.toNat) }

/-- A message has come from a correspondent in recovery: its paths are live again, and what waited for one goes out (R170; log 24).
-/
def State.heardFrom (s : State) (ip : BitVec 128) : State :=
  if (s.link ip).recovering.isSome then (s.setLink { s.link ip with removed := [], losses := [], recovering := none }).flush else s

/-- Whether a message has been performed before (R170). -/
def State.duplicate (s : State) (m : Msg) : Bool := (s.link m.peer).seen.contains m.seq

/-- Notes that a message has been performed. -/
def State.noteSeen (s : State) (m : Msg) : State :=
  let l := s.link m.peer
  s.setLink { l with seen := m.seq :: l.seen }

/-- A message that has not been performed after all. -/
def State.forget (s : State) (m : Msg) : State :=
  let l := s.link m.peer
  s.setLink { l with seen := l.seen.filter fun q => q != m.seq }

/-- Whether a message may be performed: an ordered one only after every lower-numbered one of its sender to its context (R169).
Lower numbers count as settled where they have been performed, or where they have arrived for another context; a write to the same
context whose answer waits for replica invalidations has not been performed at sys scope (R329). -/
def State.inOrder (s : State) (m : Msg) : Bool :=
  if m.flags.getLsbD 0 then
    let owed (q : DWord) : Bool := s.owed.any fun o => o.msg.peer == m.peer && o.msg.seq == q && o.msg.context == m.context
    let before := ((s.link m.peer).seen.filter fun q => q.ult m.seq && !owed q) ++
      ((s.inbox.filter fun x => x.peer == m.peer && x.seq.ult m.seq && x.context != m.context).map fun x => x.seq)
    decide (before.eraseDups.length = m.seq.toNat)
  else true

/-- What a request comes to. -/
inductive Reply where
  /-- performed and answered, once the invalidations of some units have arrived -/
  | answer (s : State) (status : Nat) (data : List Byte) (units : List Nat)
  /-- answered later, or never -/
  | silent (s : State)
  /-- looked at again: something that it waits for is under way -/
  | again (s : State)

/-- A claim (R184). -/
def isClaim (m : Msg) : Bool := m.kind == 7 && fieldAt m.payload 0 2 == 0x0001

/-- Puts a message back behind the others that have arrived; a claim stays before later claims (R173). -/
def State.putBack (s : State) (m : Msg) : State :=
  if isClaim m then
    let before := s.inbox.takeWhile fun x => !isClaim x
    { s with inbox := before ++ m :: s.inbox.drop before.length }
  else { s with inbox := s.inbox ++ [m] }

/-- Receives a message: a frame that is too long is dropped, a duplicate is discarded, an ordered message waits for its turn, and
nothing but management is accepted before the wafer is brought up. -/
def State.receive (s : State) (m : Msg) (f : State → Reply) : State :=
  if tooLong m then s.countFrame m true
  else if (!s.broughtUp && m.kind != 7) || s.duplicate m then s.countFrame m false
  else if !s.inOrder m then s.putBack m
  else
    match f ((s.heardFrom m.peer).noteSeen m) with
    | .answer s1 st d u => (s1.countFrame m false).answerOnce m st d u
    | .silent s1 => s1.countFrame m false
    | .again s1 => (s1.forget m).putBack m

/-- An answer that waits for nothing. -/
def reply (s : State) (status : Nat) (data : List Byte) : Reply := .answer s status data []

/-- A notice, which only the innkeeper sends (R184). -/
def isNotice (m : Msg) : Bool := decide (m.flags.toNat / 4 = 0) && m.kind == 7 && fieldAt m.payload 0 2 == 0x0050

/-- A message with an unknown kind or reserved flag is dropped and answered with status 1 (R167); so are a message of kind 6
(R168) and an unknown management code (R183). A notice comes from a sender that R184 does not allow: status 3. -/
def execMalformedMessage (m : Msg) (s : State) : Host.Outcome State Fault Refusal :=
  .next (s.receive m fun s => reply s (if isNotice m then 3 else 1) [])

/-! ## Checks of a memory request (R168, R175 to R177, R185, R399) -/

/-- Whether a host may use a context's windows (R175). -/
def Context.admits (c : Context) (ip : BitVec 128) : Bool := c.hosts.any fun h => h.1 == ip

/-- Whether a message comes from the owner. -/
def State.fromOwner (s : State) (ip : BitVec 128) : Bool :=
  match s.owner with
  | some o => o.ip == ip
  | none => false

/-- Whether a byte lies in a window that grants read or write permission (R176). -/
def Window.grants (w : Window) (read write : Bool) (a : Nat) : Bool :=
  decide (w.base.toNat ≤ a) && decide (a < w.base.toNat + w.len.toNat) && (!read || w.perm.getLsbD 0) && (!write || w.perm.getLsbD 1)

/-- Whether every byte of a range is inside the context's windows (R176). -/
def Context.inWindows (c : Context) (read write : Bool) (a n : Nat) : Bool :=
  decide (a + n ≤ addressEnd) && (List.range n).all fun i => c.windows.any fun w => w.2.grants read write (a + i)

/-- The violation ring and its counter, with a kind-8 event (R176, R398). -/
def State.violation (s : State) (ctx : Nat) (a : DWord) : State :=
  match s.context? ctx with
  | none => s
  | some c =>
    let ring := if c.violations.length < 64 then c.violations ++ [a] else c.violations.set (c.violationCount.toNat % 64) a
    (s.setContext ctx { c with violations := ring, violationCount := c.violationCount + 1 }).postEvent ctx 8
      (leBytes a.toNat 8 ++ leBytes (c.violationCount + 1).toNat 8)

/-- First addresses of the pages that a range touches. -/
def pagesOf (a n : Nat) : List Nat :=
  (List.range ((a + n - 1) / pageBytes + 1 - a / pageBytes)).map fun i => max a ((a / pageBytes + i) * pageBytes)

/-- What a leaf answers to the page check: itself, or a status (R177). -/
def checkLeaf (write : Bool) : Walk → Leaf ⊕ Nat
  | .broken => .inr 1
  | .absent => .inr 3
  | .leaf l => if pteRm l.pte || (write && !pteHw l.pte) then .inr 3 else .inl l

/-- The leaves of the pages of a range, or the first status; the tables are read as a walk does (R177, R284). -/
def hostLeaves (ctx : Nat) (write : Bool) : State → List Nat → State × (List (Nat × Leaf) ⊕ Nat)
  | s, [] => (s, .inl [])
  | s, va :: r =>
    let w := s.walk none ctx va
    match checkLeaf write w.2 with
    | .inr st => (w.1, .inr st)
    | .inl l =>
      match hostLeaves ctx write w.1 r with
      | (s2, .inr st) => (s2, .inr st)
      | (s2, .inl q) => (s2, .inl ((va / pageBytes, l) :: q))

/-- Where an admitted request goes. -/
inductive HostPath where
  | deny (s : State) (status : Nat)
  /-- the private range (R399) -/
  | area (g : Nat)
  /-- pieces within lines: virtual address, physical address, length and leaf -/
  | mem (s : State) (l : List (Nat × Nat × Nat × Leaf))

/-- The pieces of a range under its leaves. -/
def hostPieces (leaves : List (Nat × Leaf)) (a n : Nat) : List (Nat × Nat × Nat × Leaf) :=
  (piecesOf a n).filterMap fun p =>
    (leaves.find? fun x => x.1 == p.1 / pageBytes).map fun x => (p.1, leafPa x.2 p.1, p.2, x.2)

/-- Whether a range touches the 256 bytes of the doorbells (R185). -/
def touchesDoorbells (a n : Nat) : Bool := decide (a < doorbellBase + 256) && decide (doorbellBase < a + n)

/-- The checks of a memory request of `n` bytes, in order: the form, the context, the sender, the doorbells, the private range, the
windows and the pages. The order of the first two, by which a malformed request to a context that is absent or being reset is
answered with status 1, is DESIGN CHOICE (log 21): R168 does not say which status answers a request that fails several checks. So
are status 5 for a context field above 63, and status 1, with no violation, for a request that begins below the doorbells and
reaches into them (log 21). -/
def State.hostPath (s : State) (m : Msg) (n : Nat) (formOk read write : Bool) : HostPath :=
  let ctx := m.context.toNat
  let a := m.address.toNat
  if !formOk then .deny s 1
  else
    match s.context? ctx with
    | none => .deny s 5
    | some c =>
      if c.st = .resetting then .deny s 5
      else
        let private_ := decide (a < privateEnd) && decide (privateLow < a + n)
        let door := touchesDoorbells a n
        if !c.admits m.peer && !((door || private_) && s.fromOwner m.peer) then .deny s 3
        else if door then .deny s 1
        else if private_ then
          if write then .deny s 3
          else
            match s.areaAt ctx a n with
            | some g => .area g
            | none => .deny s 2
        else if !c.inWindows read write a n then .deny (s.violation ctx m.address) 2
        else
          match hostLeaves ctx write s (pagesOf a n) with
          | (s1, .inr st) => .deny s1 st
          | (s1, .inl leaves) => .mem s1 (hostPieces leaves a n)

/-! ## Performing (R104, R168, R290, R329, R337) -/

/-- The tag that a Dzingewin write leaves (R337). -/
def hostTag : Word := scopeTag 4 tagHost 0 0

/-- A request reaches the anchor of a line, under the hint of its region (R290, R291). -/
def State.hostTouch (s : State) (ctx va pa : Nat) (l : Leaf) : State := s.sysLodge ctx va l (pa / lineBytes)

/-- Reads the pieces of a request; none where a byte is uncorrectable. -/
def hostRead (ctx : Nat) : State → List (Nat × Nat × Nat × Leaf) → State × Option (List Byte)
  | s, [] => (s, some [])
  | s, (va, pa, n, l) :: r =>
    let s1 := s.hostTouch ctx va pa l
    if s1.bankBad pa n then (s1, none)
    else
      match hostRead ctx s1 r with
      | (s2, some b) => (s2, some (memReadBytes s1.mem pa n ++ b))
      | (s2, none) => (s2, none)

/-- A write to a line with an uncorrectable error is performed and reported (R104). -/
def State.hostPut (s : State) (ctx pa : Nat) (b : List Byte) : State :=
  let line := pa / lineBytes * lineBytes
  let s1 := if s.bankBad line lineBytes then s.reportError ctx line else s
  s1.bankWrite pa noCore b hostTag

/-- Writes the pieces of a request at their lodging banks. -/
def hostWrite (ctx : Nat) : State → List (Nat × Nat × Nat × Leaf) → List Byte → State
  | s, [], _ => s
  | s, (va, pa, n, l) :: r, b => hostWrite ctx ((s.hostTouch ctx va pa l).hostPut ctx pa (b.take n)) r (b.drop n)

/-- The directory units of the pieces. -/
def State.unitsOf (s : State) (l : List (Nat × Nat × Nat × Leaf)) : List Nat := l.map fun x => s.dirLine (x.2.1 / lineBytes)

/-- A read of 1 to 4,096 bytes (R168). -/
def readReply (m : Msg) (s : State) : Reply :=
  let n := m.length.toNat
  match s.hostPath m n (m.payload.isEmpty && decide (1 ≤ n) && decide (n ≤ 4096)) true false with
  | .deny s1 st => reply s1 st []
  | .area g =>
    let s1 := s.areaLodge m.context.toNat m.address.toNat n
    if s1.areaBad g m.address.toNat n then reply s1 4 [] else reply s1 0 (s1.areaRead g m.address.toNat n)
  | .mem s l =>
    match hostRead m.context.toNat s l with
    | (s1, some b) => reply s1 0 b
    | (s1, none) => reply s1 4 []

/-- A write of 1 to 4,096 bytes (R168). -/
def writeReply (m : Msg) (s : State) : Reply :=
  let n := m.length.toNat
  match s.hostPath m n (m.payload.length == n && decide (1 ≤ n) && decide (n ≤ 4096)) false true with
  | .deny s1 st => reply s1 st []
  | .area _ => reply s 3 []
  | .mem s l =>
    let s1 := hostWrite m.context.toNat s l m.payload
    .answer s1 0 [] (s1.unitsOf l)

/-- An atomic of 4 or 8 bytes: `f` gives the new value from the old one, none where nothing is written (R168). -/
def atomicReply (m : Msg) (formOk : Bool) (f : Nat → Option Nat) (s : State) : Reply :=
  let n := m.length.toNat
  match s.hostPath m n (formOk && (n == 4 || n == 8) && decide (m.address.toNat % n = 0)) true true with
  | .deny s1 st => reply s1 st []
  | .area _ => reply s 3 []
  | .mem s l =>
    match l with
    | (va, pa, _, leaf) :: _ =>
      let s1 := (s.hostTouch m.context.toNat va pa leaf).recallNow (pa / lineBytes)
      if s1.bankBad pa n then reply s1 4 []
      else
        let old := leNat (memReadBytes s1.mem pa n)
        match f old with
        | some x =>
          let s2 := s1.hostPut m.context.toNat pa (leBytes x n)
          .answer s2 0 (leBytes old n) (s2.unitsOf l)
        | none => reply s1 0 (leBytes old n)
    | [] => reply s 1 []

/-- Host or peer read of context memory inside windows and page checks (R168). -/
def execDzwRead (m : Msg) (s : State) : Host.Outcome State Fault Refusal := .next (s.receive m (readReply m))

/-- Host or peer write of context memory (R168). -/
def execDzwWrite (m : Msg) (s : State) : Host.Outcome State Fault Refusal := .next (s.receive m (writeReply m))

/-- Dzingewin atomic add of 4 or 8 bytes, answered with the old value (R168). -/
def execDzwAtomicAdd (m : Msg) (s : State) : Host.Outcome State Fault Refusal :=
  .next (s.receive m (atomicReply m m.payload.isEmpty fun old => some (old + m.operand.toNat)))

/-- Dzingewin compare and swap, answered with the old value (R168). -/
def execDzwCas (m : Msg) (s : State) : Host.Outcome State Fault Refusal :=
  .next (s.receive m (atomicReply m (m.payload.length == m.length.toNat) fun old =>
    if old = m.operand.toNat % 2 ^ (8 * m.length.toNat) then some (leNat m.payload) else none))

/-! ## Doorbells (R162, R185) -/

/-- A post word for a queue: one below the current post word, or beyond the ring, is ignored and raises the kind-7 event; a queue
whose ring has not been set has no slot (R162; log 21). -/
def State.post (s : State) (ctx q : Nat) (c : Context) (p : DWord) : State :=
  match tblGet? c.queues q with
  | none => s.postEvent ctx 7 (leBytes q 1 ++ leBytes 0 7 ++ leBytes p.toNat 8)
  | some lq =>
    if p.toNat < lq.post.toNat ∨ lq.take.toNat + 2 ^ lq.k < p.toNat then
      s.postEvent ctx 7 (leBytes q 1 ++ leBytes 0 7 ++ leBytes p.toNat 8)
    else
      let s1 := s.setContext ctx { c with queues := tblSet c.queues q { lq with post := p } }
      if lq.post = lq.take ∧ p ≠ lq.post ∧ lq.held = false ∧ c.st = .running then s1.due (.waybillTake ctx q) else s1

/-- What a doorbell write comes to. -/
def postReply (m : Msg) (s : State) : Reply :=
  let ctx := m.context.toNat
  match s.context? ctx with
  | none => reply s 5 []
  | some c =>
    if c.st = .resetting then reply s 5 []
    else if !c.admits m.peer && !s.fromOwner m.peer then reply s 3 []
    else if !isPostWord m then reply s 1 []
    else reply (s.post ctx ((m.address.toNat - doorbellBase) / 8) c (BitVec.ofNat 64 (leNat m.payload))) 0 []

/-- A doorbell write that sets a launch queue's post word (R185). -/
def execPostWord (m : Msg) (s : State) : Host.Outcome State Fault Refusal := .next (s.receive m (postReply m))

/-! ## Completions of the wafer's own requests (R104, R168, R170, R178, R241, R308) -/

/-- A remote access of a group has been answered: releases and fences look again; an acquire that is now
performed lets its split go on (R236, R340). -/
def State.remoteAnswered (s : State) (gid : Nat) : State :=
  match s.group? gid with
  | none => s
  | some g =>
    ((s.passAcquires gid g).modGroup gid fun g => g.wake Wait.isAck).restore gid

/-- A group's remote store or atomic has been answered. -/
def State.remoteDone (s : State) (gid : Nat) (failed : Option DWord) : State :=
  let f (g : Group) : Group :=
    let g1 := { g with remoteOut := g.remoteOut - 1, active := true }
    match failed with
    | some a => { g1.raise bitDZWERR with dzwDue := g1.dzwDue ++ [a] }
    | none => g1
  (s.modGroup gid f).remoteAnswered gid

/-- The values that a remote read brings: those of a failed one are poisoned, with UCE where the peer found an uncorrectable byte
(R104; log 22). -/
def remoteArrivals (m : Msg) (reg lane n : Nat) (signed : Bool) (status : Nat) (data : List Byte) : List Arriving :=
  let poison := if status = 0 then 0 else if status = 4 then 1 else 2
  if lane = 64 then
    [{ reg := reg, lane := 64, val := if status = 0 then BitVec.ofNat 64 (fieldAt data 0 8) else m.address, poison := poison }]
  else if status = 0 then arrivals reg lane signed n (bytesAt data 0 n) 0
  else (regsOf reg n).map fun r => { reg := r, lane := lane, val := m.address, poison := poison }

def Wait.isArming : Wait → Bool
  | .arming => true
  | _ => false

/-- Whether reads of watched lines of a group are outstanding. -/
def State.polling (s : State) (gid : Nat) : Bool := s.outstanding.any fun t =>
  match t.purpose with
  | .poll g => g == gid
  | _ => false

/-- A watched remote line has been read: the read that `marm` sent keeps its bytes and completes it, a later one that differs wakes
the group (R241). A read of a line that is watched no longer counts for nothing. -/
def State.polled (s0 : State) (gid addr status : Nat) (data : List Byte) : State :=
  let mine : Bool := (((s0.group? gid).bind fun g => g.watch).map fun w => w.pline * lineBytes == addr).getD false
  let s := if mine || !s0.polling gid then s0.modGroup gid (Group.pass Wait.isArming) else s0
  match s.group? gid with
  | none => s
  | some g =>
    match g.watch.filter fun _ => mine with
    | none => s
    | some w =>
      let asleep := g.monitorDst.isSome
      let now := bytesAt data 0 lineBytes
      if status ≠ 0 then
        let s1 := s.setGroup gid { g with watch := some { w with lost := true } }
        if asleep then s1.due (.monitorWake gid 2) else s1
      else if w.bytes.isEmpty then
        let s1 := s.setGroup gid { g with watch := some { w with bytes := now } }
        if asleep then s1.due (.remoteWatchPoll gid) else s1
      else if w.bytes = now then (if asleep then s.due (.remoteWatchPoll gid) else s)
      else
        let s1 := s.setGroup gid { g with watch := some { w with fired := true } }
        if asleep then s1.due (.monitorWake gid 0) else s1

def Wait.isEvent : Wait → Bool
  | .event => true
  | _ => false

def Wait.isRemote : Wait → Bool
  | .remote => true
  | _ => false

/-- The host has acknowledged a record: it is kept no longer, and `evpost` looks again (R178, R227). -/
def State.acknowledged (s : State) (ctx seq : Nat) : State :=
  (s.modContext ctx fun c => { c with unacked := c.unacked.filter fun r => r.seq != seq }).wakeGroups
    (fun _ g => s.ctxOf g == ctx) Wait.isEvent

/-- What the end of a request does: status 0 with its data, or why it failed. -/
def State.finishTxn (s : State) (t : Txn) (status : Nat) (data : List Byte) : State :=
  let failed : Option (Bool × DWord) := if status = 0 then none else some (status == 4, t.msg.address)
  match t.purpose with
  | .load gid tag reg lane n signed =>
    let new := remoteArrivals t.msg reg lane n signed status data
    let f (g : Group) : Group :=
      { g with arriving := tblSet g.arriving tag (tblGet g.arriving tag [] ++ new),
               remoteOut := if t.msg.kind = 1 then g.remoteOut else g.remoteOut - 1 }
    ((s.modGroup gid f).due (.loadDataArrival gid tag)).remoteAnswered gid
  | .store gid => s.remoteDone gid (failed.map fun f => f.2)
  | .poll gid => s.polled gid t.msg.address.toNat status data
  | .template gid va =>
    let piece : List Byte := if status = 0 then data else [BitVec.ofNat 8 status]
    let f (g : Group) : Group := Group.wake Wait.isRemote { g with template := g.template ++ [(va, piece)], active := true }
    (s.modGroup gid f).restore gid
  | .event ctx seq => if status = 0 then s.acknowledged ctx seq else s
  | .notice => s
  | .answer => s
  | .engineRead core gid num va =>
    s.wakeOps core false (fun o => o.group == gid && o.num == num) fun o =>
      match failed with
      | some f => { o with lost := some f }
      | none => { o with cache := o.cache ++ [(va, data)] }
  | .engineWrite core gid num _ =>
    let mine (o : EngOp) : Bool := o.group == gid && o.num == num
    let count (o : EngOp) : EngOp :=
      { o with out := o.out - 1, lost := o.lost.or (failed.map fun f => (false, f.2)) }
    let last := ((s.coreSt core).copyQ.find? mine).any fun o => decide (o.out ≤ 1)
    if last then s.wakeOps core false mine count else s.modQueue core false fun q => q.map fun o => if mine o then count o else o

/-- Retransmissions over some ports have arrived: the losses of those paths are in a row no more (R170). -/
def Link.arrived (l : Link) (ports : List Nat) : Link := { l with losses := l.losses.filter fun x => !ports.contains x.1 }

/-- A completion answers an outstanding request of the wafer, which has arrived therefore, acknowledged or not; one that names none
is dropped (R168). An answer other than status 0 to an event message acknowledges nothing: the record stays. -/
def execDzwCompletion (m : Msg) (s : State) : Host.Outcome State Fault Refusal :=
  .next (s.receive m fun s =>
    let mine (t : Txn) : Bool := t.msg.peer == m.peer && t.msg.seq == m.operand && t.purpose != .answer
    match s.outstanding.find? mine with
    | none => .silent s
    | some t =>
      let s1 := if t.again then s.setLink ((s.link m.peer).arrived [t.port]) else s
      .silent (State.finishTxn { s1 with outstanding := s1.outstanding.filter fun t => !mine t } t m.status.toNat m.payload))

/-! ## Loss and recovery (R170) -/

/-- Whether a path to a correspondent is live. -/
def State.hasPath (s : State) (l : Link) : Bool := s.ports.any fun p => p.2.up && !l.removed.contains p.1

/-- Since when a correspondent is in recovery, once its paths have changed. -/
def State.watchPath (s : State) (l : Link) : Link :=
  if s.hasPath l then { l with recovering := none }
  else { l with recovering := l.recovering.or (some s.clock) }

/-- A selective acknowledgement of received sequence numbers (R170): the messages named are not missing and are not retransmitted. A
completion is done with; a retransmission that has arrived ends the losses of its path, and the paths to a peer in recovery are live
again. -/
def execDzwAcknowledgement (peer : BitVec 128) (seqs : List Nat) (s : State) : Host.Outcome State Fault Refusal :=
  let mine (t : Txn) : Bool := t.msg.peer == peer && seqs.contains t.msg.seq.toNat
  let good := (s.outstanding.filter fun t => mine t && t.again).map fun t => t.port
  let rest := (s.outstanding.filter fun t => !(mine t && t.purpose == .answer)).map fun t => if mine t then { t with acked := true } else t
  let s1 : State := { s with outstanding := rest, ports := tblMod Port.frame s.ports (s.portOf (seqs.headD 0)) }
  .next (match s.link? peer with
    | some l => (s1.setLink (l.arrived good)).heardFrom peer
    | none => s1)

/-- A retransmission over a port has been lost: the third in a row removes the path (R170). -/
def Link.lose (l : Link) (port : Nat) : Link :=
  let n := ((l.losses.find? fun x => x.1 == port).map fun x => x.2).getD 0 + 1
  let rest := l.losses.filter fun x => x.1 != port
  if 3 ≤ n then { l with removed := if l.removed.contains port then l.removed else l.removed ++ [port], losses := rest }
  else { l with losses := (port, n) :: rest }

/-- The sender retransmits missing sequence numbers (R170): a message that was acknowledged or still waits for a port is not
missing; where the message that is missing was itself a retransmission, its path has lost one. The messages of a peer in recovery
are retried in the same way, over the paths that were removed. -/
def execRetransmission (peer : BitVec 128) (seq : Nat) (s : State) : Host.Outcome State Fault Refusal :=
  let mine (t : Txn) : Bool := t.msg.peer == peer && t.msg.seq.toNat == seq
  match s.outstanding.find? mine with
  | none => .next s
  | some t =>
    if t.acked || s.unsent.any fun m => m.peer == peer && m.seq.toNat == seq then .next s
    else
      let l := s.link peer
      let s1 : State := { s with outstanding := s.outstanding.map fun x => if mine x then { x with again := true } else x }
      .next ((s1.setLink (s1.watchPath (if t.again then l.lose t.port else l))).transmit t.msg)

/-- An operation to a peer in recovery fails with status 6 when the window ends (R170); the clock has reached the end. An event
record stays queued (R178). -/
def execRecoveryWindowExpiry (peer : BitVec 128) (seq : Nat) (s : State) : Host.Outcome State Fault Refusal :=
  let mine (t : Txn) : Bool := t.msg.peer == peer && t.msg.seq.toNat == seq
  match s.outstanding.find? mine, (s.link peer).recovering with
  | some t, some since =>
    let end_ := since + BitVec.ofNat 64 s.recoveryWindow
    let s1 : State := { s with clock := if s.clock.ult end_ then end_ else s.clock,
                               outstanding := s.outstanding.filter fun t => !mine t,
                               unsent := s.unsent.filter fun m => !(m.peer == peer && m.seq.toNat == seq) }
    .next (s1.finishTxn t 6 [])
  | _, _ => .next s

/-- A received priority flow control pause frame pauses transmission on its priorities, and what waited goes out where it ends a
pause (R166); a port without flow control has none. -/
def execPauseFrame (port : Nat) (classes : Byte) (s : State) : Host.Outcome State Fault Refusal :=
  let pause (p : Port) : Port := if p.pfc then Port.goOn { p.frame with paused := classes } s.tick else p.frame
  .next (State.flush { s with ports := tblMod pause s.ports port })

/-- A port comes up at 800GBASE-R or goes down, reported to the owner (R165, R184); the paths of every correspondent follow. -/
def execLinkStateChange (port : Nat) (up : Bool) (s : State) : Host.Outcome State Fault Refusal :=
  match tblGet? s.ports port with
  | none => .next s
  | some p =>
    let s1 := { s with ports := tblSet s.ports port { p with up := up, paused := 0, holds := false, acks := false } }
    let free (l : Link) : Link :=
      if up then { l with removed := l.removed.filter fun x => x != port, losses := l.losses.filter fun x => x.1 != port } else l
    let s2 := State.flush { s1 with links := s1.links.map fun l => s1.watchPath (free l) }
    .next (s2.notice noContext 1 (leBytes port 1 ++ leBytes (if up then 1 else 0) 1))

end Sys2Proof.Machine
end

