-- ==== Sys2Proof/Machine/Drover.lean ====
section
/-! DEFINITION. The Drover and the banks: halving of the counts, moves under a tombstone, eviction from the wafer cache and banks
retired in service (R292, R293, R296 to R298). -/

namespace Sys2Proof.Machine

/-! ## Counts and moves (R292, R293) -/

/-- Mesh cycles between halvings (R292). -/
def halvingCycles : Nat := 4096

/-- Every anchor halves every requester count at the common 4,096-cycle instant (R292); the mesh has reached it. -/
def execCountHalving (s : State) : Host.Outcome State Fault Refusal :=
  let halve (e : DirEntry) : DirEntry := { e with requesters := e.requesters.map fun x => (x.1, x.2 / 2) }
  .next { s with mesh := max s.mesh (halvingCycles * (s.halvings + 1)), halvings := s.halvings + 1,
                 dir := tblMap (fun _ e => halve e) s.dir }

/-- An anchor carries out one move at a time (R293). -/
def State.anchorMoving (s : State) (line : Nat) : Bool :=
  s.dir.any fun x => x.1 != line && x.2.moving.isSome && s.anchorBank x.1 == s.anchorBank line

/-- Whether an earlier decision of a line's anchor is still due (R293). -/
def State.dueBefore (s : State) (line order : Nat) : Bool :=
  s.dir.any fun x => x.1 != line && (x.2.due.map fun d => decide (d.2 < order)).getD false && s.anchorBank x.1 == s.anchorBank line

/-- A moved line is installed in its bank of a reticle, where a bank that has been retired meanwhile gives way to its substitute; a
replica there is dropped (R293, R298). -/
def State.installMove (s : State) (line r : Nat) : State :=
  let unit := s.dirLine line
  let s1 := (s.modEntry line fun e => { e with ret := r, bank := s.bankIn unit r, moving := none }).dropReplica unit r
  s1.checkRoom r (s.bankIn unit r) unit

/-- An anchor carries out a decided move of a line one hop under a tombstone, one move at a time and in the order of the decisions
(R293): the line leaves under the tombstone, then it is installed. An exclusive grant ends first (R235). A line that has been
pinned, that has become a weir line (R355) or is being evicted does not move. -/
def execDroverMove (line : Nat) (s : State) : Host.Outcome State Fault Refusal :=
  match s.entry? line with
  | none => .next s
  | some e =>
    match e.moving, e.due with
    | some (r, _), _ => .next (s.installMove line r)
    | none, some (r, order) =>
      if e.pin || e.strm || e.leaving || !e.weir.isEmpty then .next (s.setEntry line { e with due := none })
      else if s.anchorMoving (s.dirLine line) || s.dueBefore (s.dirLine line) order then .next (s.due (.droverMove line))
      else
        let leaves (e : DirEntry) : DirEntry := { e with due := none, moving := some (r, s.bankIn (s.dirLine line) r) }
        .next (((s.recallNow line).modEntry line leaves).due (.droverMove line))
    | none, none => .next s

/-! ## Eviction (R297) -/

/-- Where a unit is held: a reticle and a bank for the line itself and for each of its replicas. -/
def State.placesOf (s : State) (unit : Nat) : List (Nat × Nat) :=
  ((tblGet? s.dir unit).map fun e => (e.ret, e.bank)).toList ++
    (s.replicas.filter fun x => x.1 / 64 == unit).map fun x => (x.1 % 64, s.bankIn unit (x.1 % 64))

/-- The place in which some lines compete: a unit, and the reticle and the bank that hold all of the lines; where there is none,
those of the first line that is held. -/
def State.setOfLines (s : State) (lines : List Nat) : Option (Nat × Nat × Nat) :=
  let units := lines.map s.dirLine
  let held := (units.map fun u => (s.placesOf u).map fun p => (u, p)).flatten
  (held.find? fun x => units.all fun u => (s.placesOf u).contains x.2) <|> held.head?

/-- The victim among the units of one set of a bank: a streamed line, a replica (marked `true`), the least recently used line that
is not pinned, the least recently used pinned line (R297). What is on its way out already is no victim. -/
def State.victim (s : State) (mates : List (Nat × Bool)) : Option (Nat × Bool) :=
  let lines := mates.filterMap fun x => if x.2 then none else (tblGet? s.dir x.1).map fun e => (x.1, e)
  let here := lines.filter fun x => !x.2.leaving
  ((oldest (here.filter fun x => x.2.strm)).map fun u => (u, false)) <|> (mates.find? fun x => x.2) <|>
    ((oldest (here.filter fun x => !x.2.pin)).map fun u => (u, false)) <|> ((oldest here).map fun u => (u, false))

/-- The end of an eviction: watches fire, and the entry is freed with its counts, its pin state and its records. Dirty data is in
HBM already: `State.mem` holds a byte's value wherever it lodges. -/
def State.freeEntry (s : State) (unit : Nat) : State :=
  let s1 := s.fireWatches unit fun _ => true
  let s2 := if s.dirSpan unit = 2 then s1.fireWatches (unit + 1) fun _ => true else s1
  State.wakeGroups { s2 with dir := tblErase s2.dir unit } (fun _ _ => true) Wait.isAck

/-- Whether replica invalidations of a unit are on their way. -/
def State.unitInvals (s : State) (unit : Nat) : Bool := s.invals.any fun x => x.1 == unit

/-- One step of the eviction of a unit (R297): a moving line is chosen, and its eviction waits for the move (R296); its replicas are
invalidated; the releases that it records drain, those made since the step before included, and an exclusive grant is recalled; the
holders of crest are sluiced; then the entry is freed. -/
def State.evictUnit (s : State) (unit : Nat) : State :=
  match tblGet? s.dir unit with
  | none => s
  | some e =>
    let again (s : State) : State := s.due (.waferCacheEviction [unit])
    if e.moving.isSome then again (s.modEntry unit fun e => { e with leaving := true })
    else
      let s0 := s.modEntry unit fun e => { e with leaving := true, due := none }
      let s1 := ((s0.drainReleasers unit).recallNow unit).collapse unit noCore
      if s1.releasersPending unit || s1.unitInvals unit then again s1
      else
        match s1.askParty evictionParty (e.weir.map fun w => w.1) with
        | some s2 => again s2
        | none => s1.freeEntry unit

/-- A lodged line is evicted: replicas invalidated, dirty data written, entry freed (R297). `lines` name the set of a bank in which
they compete; one line alone that is leaving goes on leaving. -/
def execWaferCacheEviction (lines : List Nat) (s : State) : Host.Outcome State Fault Refusal :=
  let going : Option Nat :=
    match lines with
    | [l] => if ((s.entry? l).map fun e => e.leaving).getD false then some (s.dirLine l) else none
    | _ => none
  match going with
  | some u => .next (s.evictUnit u)
  | none =>
    match s.setOfLines lines with
    | none => .next s
    | some (unit, r, b) =>
      match s.victim (s.setMates r b unit) with
      | none => .next s
      | some (u, true) => .next (s.dropReplica u r)
      | some (u, false) => .next (s.evictUnit u)

/-! ## Banks retired in service (R298) -/

/-- The innkeeper retires a bank in service (R298): its replicas are dropped, its lines are due to be written back and dropped, and
its substitute takes its place; the owner is told. -/
def execBankRetirement (bank : Nat) (s : State) : Host.Outcome State Fault Refusal :=
  let r := bank / 64
  let b := bank % 64
  let s1 : State := { s with retired := bank :: s.retired }
  if s.part.inMap bank && !s.retired.contains bank && s1.substitute r b != b then
    let copies := (s.replicas.filter fun x => x.1 % 64 == r && s.bankIn (x.1 / 64) r == b).map fun x => x.1 / 64
    let lodged := (s.dir.filter fun x => x.2.ret == r && x.2.bank == b).map fun x => x.1
    let s2 := copies.foldl (fun t u => t.dropReplica u r) s1
    .next ((lodged.foldl (fun t u => t.startEviction u) s2).notice noContext 4
      (leBytes r 2 ++ leBytes b 2 ++ leBytes (s1.substitute r b) 2))
  else .next s

end Sys2Proof.Machine
end

