-- ==== Sys2Proof/Machine/Loader.lean ====
section
/-! DEFINITION. The loader of code objects: the ELF64 profile, the version note, mapping, relocation and the result entries (R149 to
R154, R184). The places of ELF64's own fields are those of the ELF standard (log 25). -/

namespace Sys2Proof.Machine

/-! ## The image (R149, R150) -/

/-- A section header. -/
structure ElfSection where
  name   : List Byte
  flags  : Nat
  kind   : Nat
  addr   : Nat
  offset : Nat
  size   : Nat
  deriving DecidableEq, Repr

/-- A symbol of `.symtab`. -/
structure ElfSymbol where
  name  : List Byte
  info  : Nat
  shndx : Nat
  value : Nat
  size  : Nat
  deriving DecidableEq, Repr

/-- Characters of an ASCII name. -/
def nameBytes (s : String) : List Byte := s.toList.map fun c => BitVec.ofNat 8 c.toNat

/-- A string of a string table: the bytes up to the first zero. -/
def stringAt (t : List Byte) (a : Nat) : List Byte := (t.drop a).takeWhile fun b => b != 0

/-- Whether the ELF header holds the values of R149. -/
def headerOk (b : List Byte) : Bool :=
  decide (64 ≤ b.length) && b.take 4 == [0x7F, 0x45, 0x4C, 0x46] && fieldAt b 4 1 == 2 && fieldAt b 5 1 == 1 &&
    fieldAt b 7 1 == 0 && fieldAt b 16 2 == 3 && fieldAt b 18 2 == 0x4858 && fieldAt b 48 4 == 0

/-- The contents of a section; a section without file contents reads 0. -/
def ElfSection.bytes (x : ElfSection) (b : List Byte) : List Byte :=
  if x.kind = 8 then List.replicate x.size 0 else bytesAt b x.offset x.size

/-- Whether a section's contents lie in the image. -/
def ElfSection.inImage (x : ElfSection) (b : List Byte) : Bool := x.kind == 8 || decide (x.offset + x.size ≤ b.length)

/-- The section headers of an image. -/
def sectionsOf (b : List Byte) : List ElfSection :=
  let shoff := fieldAt b 40 8
  let entry := fieldAt b 58 2
  let raw := (List.range (fieldAt b 60 2)).map fun i => bytesAt b (shoff + entry * i) 64
  let names : List Byte :=
    match raw[fieldAt b 62 2]? with
    | some h => bytesAt b (fieldAt h 24 8) (min (fieldAt h 32 8) b.length)
    | none => []
  raw.map fun h => { name := stringAt names (fieldAt h 0 4), flags := fieldAt h 8 8, kind := fieldAt h 4 4,
                     addr := fieldAt h 16 8, offset := fieldAt h 24 8, size := fieldAt h 32 8 }

/-- The section of a name, with its index. -/
def findSection (l : List ElfSection) (n : String) : Option (Nat × ElfSection) := findIdxVal (fun x => x.name == nameBytes n) l

/-- The sections that are mapped, in the order of R184, with the bits of their leaves: V, R, W, X and L. -/
def mappedNames : List (String × Nat) := [(".text", 0x2B), (".rodata", 0x23), (".data", 0x27)]

/-- The sections that an object may hold allocated (R150). -/
def knownNames : List String :=
  [".text", ".rodata", ".data", ".note.hexrov", ".symtab", ".strtab", ".rela.text", ".rela.rodata", ".rela.data"]

/-- Whether the sections keep R150: no other allocated section, `.text` of even length, contents inside the image. -/
def sectionsOk (b : List Byte) (l : List ElfSection) : Bool :=
  (l.all fun x => !natBit x.flags 1 || knownNames.any fun n => nameBytes n == x.name) &&
    (l.all fun x => !(knownNames.any fun n => nameBytes n == x.name) || x.inImage b) &&
    (match findSection l ".text" with
      | some (_, x) => x.size % 2 == 0
      | none => true)

/-- The contents of a section by name, empty where it is absent or outside the image. -/
def sectionBytes (b : List Byte) (l : List ElfSection) (n : String) : List Byte :=
  match findSection l n with
  | some (_, x) => if x.inImage b then x.bytes b else []
  | none => []

/-- Whether a table has room for entry `i`. -/
def entryAt (t : List Byte) (size i : Nat) : List Byte := bytesAt t (size * i) size

/-- The symbols of `.symtab`, in its order. -/
def symbolsOf (b : List Byte) (l : List ElfSection) : List ElfSymbol :=
  let t := sectionBytes b l ".symtab"
  let names := sectionBytes b l ".strtab"
  (List.range (t.length / 24)).map fun i =>
    let e := entryAt t 24 i
    { name := stringAt names (fieldAt e 0 4), info := fieldAt e 4 1, shndx := fieldAt e 6 2, value := fieldAt e 8 8,
      size := fieldAt e 16 8 }

/-- The relocations of a section: offset, symbol, type and addend (R150). -/
def relocsOf (b : List Byte) (l : List ElfSection) (n : String) : List (Nat × Nat × Nat × Nat) :=
  let t := sectionBytes b l (".rela" ++ n)
  (List.range (t.length / 24)).map fun i =>
    let e := entryAt t 24 i
    (fieldAt e 0 8, fieldAt e 12 4, fieldAt e 8 4, fieldAt e 16 8)

/-! ## Kernels and templates (R151) -/

def ElfSymbol.isGlobal (x : ElfSymbol) : Bool := x.info / 16 == 1
def ElfSymbol.isFunc (x : ElfSymbol) : Bool := x.info % 16 == 2
def ElfSymbol.isObject (x : ElfSymbol) : Bool := x.info % 16 == 1

/-- Whether a symbol lies in a section of a name. -/
def ElfSymbol.inSection (x : ElfSymbol) (l : List ElfSection) (n : String) : Bool :=
  match findSection l n with
  | some (i, _) => x.shndx == i
  | none => false

/-- The kernel symbols: the global functions of `.text`, with their indices (R151). -/
def kernelSymbols (l : List ElfSection) (syms : List ElfSymbol) : List (Nat × ElfSymbol) :=
  ((List.range syms.length).zip syms).filter fun x => x.2.isGlobal && x.2.isFunc && x.2.inSection l ".text"

/-- The template symbol of a kernel, by its name. -/
def templateSymbol (syms : List ElfSymbol) (k : ElfSymbol) : Option (Nat × ElfSymbol) :=
  findIdxVal (fun x => x.name == k.name ++ nameBytes ".wb") syms

/-- Whether a kernel and its template keep R151. -/
def kernelOk (l : List ElfSection) (syms : List ElfSymbol) (k : ElfSymbol) : Bool :=
  k.value % 2 == 0 &&
    match templateSymbol syms k with
    | some (_, t) => t.isGlobal && t.isObject && t.size == 128 && t.inSection l ".rodata"
    | none => false

/-! ## The version note (R152, R153) -/

/-- The descriptor of the note: level, ignore, trap and handler; none where the note is missing or malformed. -/
def noteOf (b : List Byte) (l : List ElfSection) : Option (Nat × Nat × Nat × Nat) :=
  let n := sectionBytes b l ".note.hexrov"
  if n.length = 36 ∧ fieldAt n 0 4 = 7 ∧ fieldAt n 4 4 = 16 ∧ fieldAt n 8 4 = 1 ∧
      (n.drop 12).take 8 = nameBytes "Hexrov" ++ [0, 0] then
    some (fieldAt n 20 4, fieldAt n 24 4, fieldAt n 28 4, fieldAt n 32 4)
  else none

/-- Whether a handler index names a function of `.text` at an even address. -/
def handlerOk (l : List ElfSection) (syms : List ElfSymbol) (h : Nat) : Bool :=
  h == 0 ||
    match syms[h]? with
    | some x => x.isFunc && x.inSection l ".text" && x.value % 2 == 0
    | none => false

/-! ## The refusal mask (R184) -/

/-- Pages of a section. -/
def pagesNeeded (n : Nat) : Nat := (n + pageBytes - 1) / pageBytes

/-- Size of a mapped section. -/
def mappedSize (l : List ElfSection) (n : String) : Nat := ((findSection l n).map fun x => x.2.size).getD 0

/-- Pages of an object. -/
def objectPages (l : List ElfSection) : Nat := (mappedNames.map fun x => pagesNeeded (mappedSize l x.1)).sum

/-- The address of a page's level-4 entry; none where a table is missing. -/
def level4Entry (m : Memory) (va : Nat) : Nat → List Nat → Option Nat
  | t, [] => some (t + 8 * tableIndex va 4)
  | t, lvl :: r =>
    let e : DWord := BitVec.ofNat 64 (leNat (memReadBytes m (t + 8 * tableIndex va lvl) 8))
    if !pteV e || malformed e lvl || pteL e then none else level4Entry m va (ptePpn e * pageBytes) r

/-- The arguments of a load (R184). -/
structure LoadArgs where
  image    : Nat
  length   : Nat
  base     : Nat
  limit    : Nat
  phys     : Nat
  physLen  : Nat
  result   : Nat
  override : Bool
  deriving DecidableEq, Repr

/-- Whether a map range holds the pages: aligned, below the limit, clear of the private range and the reserved page. That the bits
of a range that is too small (9, 11) also answer one that is misaligned, or leaves the memory, is DESIGN CHOICE (log 25). -/
def mapFits (a : LoadArgs) (pages : Nat) : Bool :=
  let end_ := a.base + pages * pageBytes
  a.base % pageBytes == 0 && decide (end_ ≤ a.limit) && decide (end_ ≤ addressEnd) &&
    (decide (end_ ≤ privateLow) || pages == 0)

/-- Whether every level-4 table of the range exists. -/
def State.tablesExist (s : State) (root : Nat) (a : LoadArgs) (pages : Nat) : Bool :=
  (List.range pages).all fun i => (level4Entry s.mem (a.base + i * pageBytes) root [1, 2, 3]).isSome

/-- Whether the physical range holds the pages. -/
def physFits (a : LoadArgs) (pages : Nat) : Bool :=
  a.phys % pageBytes == 0 && decide (pages * pageBytes ≤ a.physLen) && decide (a.phys + pages * pageBytes ≤ Config.hbmBytes)

/-- A bit of the mask. -/
def maskBit (n : Nat) (bad : Bool) : Nat := if bad then 2 ^ n else 0

/-- The conditions of an image that fail, each of them reported whichever others fail (R153): what a bad header leaves of the
sections is read as it stands. A level above the device's fails where the note or the trap mask fails too (R153). -/
def State.refusalMask (s : State) (root : Nat) (a : LoadArgs) (b : List Byte) : Nat :=
  let l := sectionsOf b
  let syms := symbolsOf b l
  let note := noteOf b l
  let handler := (note.map fun n => n.2.2.2).getD 0
  let trap := (note.map fun n => n.2.2.1).getD 0
  let pages := objectPages l
  maskBit 0 (!headerOk b) +
  maskBit 1 (!sectionsOk b l) +
  maskBit 2 (mappedNames.any fun x => (relocsOf b l x.1).any fun r => decide (1 < r.2.2.1)) +
  maskBit 3 (!(kernelSymbols l syms).all fun k => kernelOk l syms k.2) +
  maskBit 4 note.isNone +
  maskBit 5 (trap != 0) +
  maskBit 6 (decide (16 ≤ (note.map fun n => n.2.1).getD 0)) +
  maskBit 7 (decide (Config.isaLevel < (note.map fun n => n.1).getD 0) && trap != 0) +
  maskBit 8 (!handlerOk l syms handler) +
  maskBit 9 (!mapFits a pages) +
  maskBit 10 (!s.tablesExist root a pages) +
  maskBit 11 (!physFits a pages)

/-- The mask without the bits that the debug override lets pass (R154). -/
def refusing (override : Bool) (mask : Nat) : Nat := if override then mask - natBits mask 7 5 * 32 else mask

/-! ## Mapping and relocation (R150, R184) -/

/-- The mapped address of each section: name, index, section, address, leaf bits and first page of the object. -/
structure Placed where
  name    : String
  index   : Nat
  sec     : ElfSection
  va      : Nat
  bits    : Nat
  page    : Nat

/-- Places the sections on ascending pages from the map base (R184). A section of size 0 takes no page, so that the next one begins
at the same address: DESIGN CHOICE (log 25), the spec does not speak of an empty section. -/
def placeSections (l : List ElfSection) (base : Nat) : Nat → List (String × Nat) → List Placed
  | _, [] => []
  | p, (n, bits) :: r =>
    match findSection l n with
    | some (i, x) =>
      { name := n, index := i, sec := x, va := base + p * pageBytes, bits := bits, page := p } ::
        placeSections l base (p + pagesNeeded x.size) r
    | none => placeSections l base p r

/-- The mapped value of a symbol; one outside the mapped sections keeps its value. -/
def symbolAddress (placed : List Placed) (x : ElfSymbol) : Nat :=
  match placed.find? fun p => p.index == x.shndx with
  | some p => p.va + x.value - p.sec.addr
  | none => x.value

/-- A section's contents with its relocations: type 1 writes the symbol's mapped value plus the addend (R150). A relocation whose 8
bytes do not lie in the section is skipped, and one that names no symbol takes 0 as the symbol's value (log 25, DESIGN CHOICE). -/
def relocated (b : List Byte) (l : List ElfSection) (placed : List Placed) (syms : List ElfSymbol) (p : Placed) : List Byte :=
  (relocsOf b l p.name).foldl (fun bytes r =>
    let off := r.1 - p.sec.addr
    if r.2.2.1 = 1 ∧ p.sec.addr ≤ r.1 ∧ off + 8 ≤ bytes.length then
      putField bytes off (leBytes (((syms[r.2.1]?).map (symbolAddress placed)).getD 0 + r.2.2.2) 8)
    else bytes) (p.sec.bytes b)

/-- Writes bytes at a physical address, line by line, as the innkeeper does (R290). -/
def State.physWrite (s : State) (pa : Nat) (b : List Byte) : State :=
  (cutBytes (piecesOf pa b.length) b).foldl (fun s x =>
    (s.lodge (x.1 / lineBytes) none none).bankWrite x.1 noCore x.2 hostTag) s

/-- Writes the contents and the leaves of a placed section. -/
def State.mapSection (s : State) (root : Nat) (a : LoadArgs) (p : Placed) (bytes : List Byte) : State :=
  (List.range (pagesNeeded p.sec.size)).foldl (fun s i =>
    match level4Entry s.mem (p.va + i * pageBytes) root [1, 2, 3] with
    | some e => s.physWrite e (leBytes (a.phys + (p.page + i) * pageBytes + p.bits) 8)
    | none => s) (s.physWrite (a.phys + p.page * pageBytes) bytes)

/-- The result entries: address, `.symtab` index and kind, in ascending index (R184). -/
def resultEntries (l : List ElfSection) (syms : List ElfSymbol) (placed : List Placed) : List (List Byte) :=
  let kernels := kernelSymbols l syms
  let templates := kernels.filterMap fun k => (templateSymbol syms k.2).map fun t => t.1
  (List.range syms.length).filterMap fun i =>
    let kind := if kernels.any fun k => k.1 == i then 1 else if templates.contains i then 2 else 0
    if kind = 0 then none
    else (syms[i]?).map fun x => leBytes (symbolAddress placed x) 8 ++ leBytes i 4 ++ leBytes kind 4

/-- Writes the entries at the result address; bytes on a page that the context does not let the wafer write stay as they are
(log 25). -/
def State.writeEntries (s : State) (ctx a : Nat) (b : List Byte) : State :=
  (cutBytes (piecesOf a b.length) b).foldl (fun s x =>
    match s.sysRoute ctx x.1 x.2.length true [] with
    | (s1, .mem l pa) => (s1.hostTouch ctx x.1 pa l).bankWrite pa noCore x.2 hostTag
    | (s1, _) => s1) s

/-- The weir lines that a load writes: in its physical range, or among the lines of its result entries (R348). -/
def State.crestLines (s : State) (ctx : Nat) (a : LoadArgs) (entries : Nat) : List Nat :=
  let lines := (piecesOf a.result (16 * entries)).filterMap fun x =>
    match (s.sysRoute ctx x.1 x.2 true []).2 with
    | .mem _ pa => some (pa / lineBytes)
    | _ => none
  ((s.dir.map fun e => e.2.weir.map fun w => w.1).flatten).filter fun x =>
    lines.contains x || (decide (a.phys < (x + 1) * lineBytes) && decide (x * lineBytes < a.phys + a.physLen))

/-- Loads an image that passes: the state, the handle and the number of entries. The mark of an overridden object in the event log
and in the quotes is its context in 1 byte and its handle in 4: DESIGN CHOICE (logs 19 and 21), R154 gives no format. -/
def State.loadImage (s : State) (ctx : Nat) (c : Context) (a : LoadArgs) (b : List Byte) : State × Nat × Nat :=
  let l := sectionsOf b
  let syms := symbolsOf b l
  let handler := ((noteOf b l).map fun n => n.2.2.2).getD 0
  let placed := placeSections l a.base 0 mappedNames
  let s1 := placed.foldl (fun s p => s.mapSection c.root.toNat a p (relocated b l placed syms p)) s
  let entries := resultEntries l syms placed
  let s2 := s1.writeEntries ctx a.result entries.flatten
  let text := placed.find? fun p => p.name == ".text"
  let obj : CodeObj :=
    { textBase := BitVec.ofNat 64 ((text.map fun p => p.va).getD 0), textLen := BitVec.ofNat 64 ((text.map fun p => p.sec.size).getD 0),
      handler := if handler = 0 then none else (syms[handler]?).map fun x => BitVec.ofNat 64 (symbolAddress placed x),
      overridden := a.override }
  let handle := c.objects.length
  let s3 := s2.modContext ctx fun c => { c with objects := c.objects ++ [obj] }
  let mark := leBytes ctx 1 ++ leBytes handle 4
  let s4 : State :=
    if a.override then
      State.modContext { s3 with overrides := s3.overrides ++ [mark] } ctx fun c => { c with log := c.log ++ mark }
    else s3
  (s4, handle, entries.length)

/-- The image, read through the context's pages, as the dispatcher reads (R184). -/
def State.readImage (s : State) (ctx : Nat) (a : LoadArgs) : Got (List Byte) :=
  if addressEnd < a.image + a.length then .fail s 2 a.image else sysRead ctx [] s (piecesOf a.image a.length)

end Sys2Proof.Machine
end

