-- ==== Sys2Proof/Machine/Manage.lean ====
section
/-! DEFINITION. The innkeeper: ownership, the management commands and the page replies (R102, R166, R173 to R185, R286, R299,
R386, R389 to R391, R398, R400). -/

namespace Sys2Proof.Machine

/-! ## Commands (R173, R174, R183) -/

/-- Nanoseconds of a lease and of a successor's grace (R173). -/
def leaseNs : Nat := 30000000000
def graceNs : Nat := 5000000000

/-- Argument bytes that a message announces. -/
def argLen (m : Msg) : Nat := fieldAt m.payload 4 4

/-- Whether the signature verifies against a provisioned key (R183). -/
def signedBy (m : Msg) (key : Nat) : Bool :=
  m.payload.length == 8 + argLen m + signatureBytes && decide (key < Config.keyCount) &&
    ecdsaVerify (Config.hostKey key) (signedBytes m (8 + argLen m)) (m.payload.drop (8 + argLen m))

/-- Who may send a command (R184). -/
inductive Sender where
  | owner
  /-- the owner or an admitted host -/
  | admitted
  | anyone
  deriving DecidableEq, Repr

/-- Whether a sender is allowed. -/
def State.maySend (s : State) (m : Msg) : Sender → Bool
  | .anyone => true
  | .owner => s.fromOwner m.peer
  | .admitted => s.fromOwner m.peer || ((s.context? m.context.toNat).map fun c => c.admits m.peer).getD false

/-- Whether a signed command of the owner carries its signature (R183). -/
def State.ownerSigned (s : State) (m : Msg) : Bool :=
  match s.owner with
  | some o => signedBy m o.key
  | none => false

/-- The owner renews its lease with any signed management message (R173). -/
def State.renewed (s : State) : State :=
  { s with owner := s.owner.map fun o => { o with lease := s.clock + BitVec.ofNat 64 leaseNs } }

/-- Whether a command's bytes have the form of R183: reserved bytes zero, an argument length that agrees with the command and with
the payload, and a context field that fits. That a context field which does not fit, and an address or an operand that is not 0,
count as malformed and are answered with status 1 is DESIGN CHOICE (log 21): the answers of R183 name no case for them. -/
def formOk (m : Msg) (alen : Nat → Bool) (per signed : Bool) : Bool :=
  decide (8 ≤ m.payload.length) && fieldAt m.payload 2 2 == 0 && alen (argLen m) &&
    m.payload.length == 8 + argLen m + (if signed then signatureBytes else 0) && m.length.toNat == m.payload.length &&
    m.address == 0 && m.operand == 0 && (if per then decide (m.context.toNat < 64) else m.context.toNat == noContext)

/-- The arguments of a command. -/
def argsOf (m : Msg) : List Byte := (m.payload.drop 8).take (argLen m)

/-- The checks of R183 in their order, then the command. A command to a context that is being reset is answered with status 5, as
every request is (R168, R391). -/
def State.command (s : State) (m : Msg) (alen : Nat → Bool) (per : Bool) (from_ : Sender) (signed : Bool)
    (f : State → Context → List Byte → Reply) (absent : State → List Byte → Reply) : Reply :=
  if !s.maySend m from_ then reply s 3 []
  else if signed && !s.ownerSigned m then reply s 3 []
  else
    let s1 := if signed then s.renewed else s
    if !formOk m alen per signed then reply s1 1 []
    else if !per then absent s1 (argsOf m)
    else
      match s1.context? m.context.toNat with
      | none => absent s1 (argsOf m)
      | some c => if c.st = .resetting then reply s1 5 [] else f s1 c (argsOf m)

/-- A command of the owner to a context that exists. -/
def State.contextCommand (s : State) (m : Msg) (alen : Nat) (f : State → Context → List Byte → Reply) : Reply :=
  s.command m (fun n => n == alen) true .owner true f fun s _ => reply s 5 []

/-- A command of the owner to the wafer. -/
def State.waferCommand (s : State) (m : Msg) (alen : Nat → Bool) (f : State → List Byte → Reply) : Reply :=
  s.command m alen false .owner true (fun s _ a => f s a) f

/-- Receives a command. -/
def manage (m : Msg) (s : State) (f : State → Reply) : Host.Outcome State Fault Refusal := .next (s.receive m f)

/-! ## Ownership (R173) -/

/-- The innkeeper reports the ports that have stayed down (R165). -/
def State.reportDown (s : State) : State :=
  (s.ports.filter fun p => !p.2.up).foldl (fun s p => s.notice noContext 1 (leBytes p.1 1 ++ leBytes 0 1)) s

/-- A claim: busy while a lease or a successor's grace holds; a named successor's claim takes the wafer (log 23), and the new owner
is told of the ports that are down (R165). That a claim of the owner itself, which is busy too, does not renew the lease is DESIGN
CHOICE (log 23). -/
def claimReply (m : Msg) (s : State) : Reply :=
  let key := fieldAt (argsOf m) 0 2
  if !s.broughtUp then .again s
  else if !signedBy m key then reply s 3 []
  else if !formOk m (fun n => n == 2) false true then reply s 1 []
  else
    let named : Bool := (s.successor.map fun x => x.1 == key).getD false
    if (s.owner.isSome || s.successor.isSome) && !named then reply s 7 []
    else
      let s1 := State.renewed { s with owner := some { ip := m.peer, key := key, lease := 0 }, successor := none }
      reply s1.reportDown 0 (leBytes (s.clock + BitVec.ofNat 64 leaseNs).toNat 8)

/-- Management command 0x0001 claiming ownership on a 30 s lease (R173). -/
def execClaim (m : Msg) (s : State) : Host.Outcome State Fault Refusal := manage m s (claimReply m)

/-- Management command 0x0002 renewing the owner's lease (R184). -/
def execRenew (m : Msg) (s : State) : Host.Outcome State Fault Refusal :=
  manage m s fun s => s.waferCommand m (fun n => n == 0) fun s _ =>
    reply s 0 (leBytes ((s.owner.map Owner.lease).getD 0).toNat 8)

/-- Management command 0x0003 giving up ownership (R184). -/
def execReleaseOwnership (m : Msg) (s : State) : Host.Outcome State Fault Refusal :=
  manage m s fun s => s.waferCommand m (fun n => n == 0) fun s _ => reply { s with owner := none } 0 []

/-- Management command 0x0004 naming a successor key with a 5 s grace period (R173). -/
def execNameSuccessor (m : Msg) (s : State) : Host.Outcome State Fault Refusal :=
  manage m s fun s => s.waferCommand m (fun n => n == 2) fun s a =>
    reply { s with successor := some (fieldAt a 0 2, s.clock + BitVec.ofNat 64 graceNs) } 0 []

/-! ## Contexts (R175, R178, R282, R390, R400) -/

/-- A context after its creation (R214, R299, R390, R398). -/
def Context.fresh (root : DWord) (share : Nat) (ring : DWord) (depth : Nat) (clock : DWord) : Context where
  st := .running
  root := root
  share := share
  windows := []
  hosts := []
  queues := []
  regions := []
  peers := []
  counter := 0
  ringBase := ring
  ringDepth := depth
  evSeq := 0
  unacked := []
  channelHalted := false
  violations := []
  violationCount := 0
  log := []
  batches := []
  watchdog := 1000000000
  park := 0
  requested := []
  objects := []
  kept := []
  windowStart := clock
  parkedSince := none
  progress := false
  fault := none
  unhalted := []
  discarded := 0
  resetMsg := none

/-- Whether a number is a power of two from 16 to 65,536. -/
def ringDepthOk (n : Nat) : Bool := (List.range 13).any fun k => n == 16 * 2 ^ k

/-- Management command 0x0010 creating a context with its table, share and event ring (R184). -/
def execCreateContext (m : Msg) (s : State) : Host.Outcome State Fault Refusal :=
  manage m s fun s => s.command m (fun n => n == 21) true .owner true (fun s _ _ => reply s 1 []) fun s a =>
    let share := fieldAt a 8 1
    let depth := fieldAt a 17 4
    if share = 0 ∨ ringDepthOk depth = false then reply s 1 []
    else
      reply (s.setContext m.context.toNat (Context.fresh (BitVec.ofNat 64 (fieldAt a 0 8)) share (BitVec.ofNat 64 (fieldAt a 9 8))
        depth s.clock)) 0 []

/-- What a context that runs again takes up: its queues, its ready launches and the placement of crews; the watchdog window
restarts (R386). -/
def State.takeUp (s : State) (ctx : Nat) : State :=
  match s.context? ctx with
  | none => s
  | some c =>
    let takes := (c.queues.filter fun q => decide (q.2.take.toNat < q.2.post.toNat)).map fun q => Instr.waybillTake ctx q.1
    let opens := (s.launches.filter fun x => x.2.ctx == ctx && x.2.st == .ready).map fun x => Instr.openLaunch x.1
    let s1 := (s.setContext ctx { c with parkedSince := none }).restartWindow ctx
    ((s1.dueAll ((takes ++ opens).filter fun i => !s1.agenda.contains i)).readyHeads ctx).dispatch

/-- Sends the unacknowledged records of a context again, oldest first (R178). -/
def State.resendEvents (s : State) (ctx : Nat) (c : Context) : State :=
  let send (s : State) (r : EventRec) : State :=
    let sent := s.send (c.eventMsg s.ownerIp ctx r.seq r.bytes) (.event ctx r.seq)
    sent.1.modContext ctx fun c =>
      { c with unacked := c.unacked.map fun x => if x.seq = r.seq then { x with msgSeq := sent.2, sentAt := s.clock } else x }
  let old (t : Txn) : Bool :=
    match t.purpose with
    | .event x _ => x == ctx
    | _ => false
  c.unacked.foldl send (State.modContext { s with outstanding := s.outstanding.filter fun t => !old t } ctx
    fun c => { c with channelHalted := false })

/-- The wait counts of a group that has been halted: its splits were not ready (R195). -/
def Group.restartWaits (g : Group) : Group :=
  let f (x : Split) : Split := { x with waitCount := 0 }
  { g with slotA := g.slotA.map f, slotB := g.slotB.map f, spilled := g.spilled.map f }

/-- The wait counts of a context that has been faulted or halted start again (R195). -/
def State.restartWaits (s : State) (ctx : Nat) : State :=
  { s with groups := tblMap (fun _ g => if s.ctxOf g = ctx then g.restartWaits else g) s.groups }

/-- Management command 0x0012 resuming a faulted or halted context (R146, R178, R386): its groups go on where they halted, one that
trapped at the trapping instruction. A resume that arrives while the fault event is still to post resumes at once, and a second
fault then replaces what the event names: DESIGN CHOICE (log 33), the spec does not say. -/
def execResumeContext (m : Msg) (s : State) : Host.Outcome State Fault Refusal :=
  manage m s fun s => s.contextCommand m 0 fun s c _ =>
    let ctx := m.context.toNat
    if c.st = .running then reply s 0 []
    else
      let s1 := (s.restartWaits ctx).modContext ctx fun c => { c with st := .running, unhalted := [] }
      let s2 := if c.channelHalted then s1.resendEvents ctx c else s1
      reply (s2.takeUp ctx) 0 []

/-- Management command 0x0013 halting a whole context for the debugger (R389): as a fault does, without an event. -/
def execHaltContext (m : Msg) (s : State) : Host.Outcome State Fault Refusal :=
  manage m s fun s => s.contextCommand m 0 fun s c _ =>
    reply (if c.st = .running then s.setContext m.context.toNat { c with st := .halted } else s) 0 []

/-- The resident group of a context at a place. -/
def State.groupAt (s : State) (ctx core index : Nat) : Option (Nat × Group) :=
  s.groups.find? fun x => s.ctxOf x.2 == ctx && s.coreOf x.2 == core && x.2.index == index &&
    ((s.crew? x.2.crew).map fun c => c.res == .resident || c.res == .halting).getD false

/-- Management command 0x0014 resuming a debug-halted group (R389) at pc + 4, once its halt is settled. -/
def execResumeGroup (m : Msg) (s : State) : Host.Outcome State Fault Refusal :=
  manage m s fun s => s.contextCommand m 3 fun s _ a =>
    match s.groupAt m.context.toNat (fieldAt a 0 2) (fieldAt a 2 1) with
    | none => reply s 1 []
    | some (gid, g) =>
      match g.halt with
      | .debug true b _ _ =>
        let on (x : Split) : Split := { x with pc := x.pc + 4, run := x.run + 1 }
        let g1 := { (g.setSlot b ((g.slot b).map on)).restartWaits with halt := .running, active := true }
        reply (s.setGroup gid g1) 0 []
      | .debug false _ _ _ => .again s
      | _ => reply s 1 []

/-- Management command 0x0015 setting a context's dispatch share (R216). -/
def execSetShare (m : Msg) (s : State) : Host.Outcome State Fault Refusal :=
  manage m s fun s => s.contextCommand m 1 fun s c a =>
    let share := fieldAt a 0 1
    if share = 0 then reply s 1 [] else reply (s.setContext m.context.toNat { c with share := share }) 0 []

/-- Management command 0x0016 setting or removing a memory window (R175). -/
def execSetWindow (m : Msg) (s : State) : Host.Outcome State Fault Refusal :=
  manage m s fun s => s.contextCommand m 18 fun s c a =>
    let i := fieldAt a 0 1
    let base := fieldAt a 1 8
    let len := fieldAt a 9 8
    let perm := fieldAt a 17 1
    if 31 < i ∨ 3 < perm ∨ addressEnd < base + len then reply s 1 []
    else
      let w : Window := { base := BitVec.ofNat 64 base, len := BitVec.ofNat 64 len, perm := BitVec.ofNat 2 perm }
      reply (s.setContext m.context.toNat { c with windows := if len = 0 then tblErase c.windows i else tblSet c.windows i w }) 0 []

/-- Management command 0x0017 admitting or revoking a host (R175). -/
def execAdmitHost (m : Msg) (s : State) : Host.Outcome State Fault Refusal :=
  manage m s fun s => s.contextCommand m 19 fun s c a =>
    let ip : BitVec 128 := BitVec.ofNat 128 (fieldAt a 0 16)
    let rest := c.hosts.filter fun h => h.1 != ip
    match fieldAt a 18 1 with
    | 0 => reply (s.setContext m.context.toNat { c with hosts := rest }) 0 []
    | 1 => reply (s.setContext m.context.toNat { c with hosts := rest ++ [(ip, fieldAt a 16 2)] }) 0 []
    | _ => reply s 1 []

/-- Management command 0x0018 setting a launch queue's ring base and depth (R162): its counts start at 0 (log 21).
That an argument outside its range, here and in the other commands, is answered with status 1 is DESIGN CHOICE (log 21). -/
def execSetQueue (m : Msg) (s : State) : Host.Outcome State Fault Refusal :=
  manage m s fun s => s.contextCommand m 10 fun s c a =>
    let q := fieldAt a 0 1
    let base := fieldAt a 1 8
    let k := fieldAt a 9 1
    if 7 < q ∨ base % 128 ≠ 0 ∨ k < 4 ∨ 12 < k then reply s 1 []
    else
      let lq : LaunchQueue :=
        { base := BitVec.ofNat 64 base, k := k, post := 0, take := 0, held := false, faulted := false, fatal := [] }
      reply (s.setContext m.context.toNat { c with queues := tblSet c.queues q lq }) 0 []

/-- Management command 0x001A setting a peer table slot (R171). -/
def execSetPeer (m : Msg) (s : State) : Host.Outcome State Fault Refusal :=
  manage m s fun s => s.contextCommand m 18 fun s c a =>
    let i := fieldAt a 0 1
    if 127 < i then reply s 1 []
    else
      let p : Peer := { ip := BitVec.ofNat 128 (fieldAt a 1 16), tag := BitVec.ofNat 8 (fieldAt a 17 1) }
      reply (s.setContext m.context.toNat { c with peers := tblSet c.peers i p }) 0 []

/-- Management command 0x0020 setting the watchdog window and park limit (R390). -/
def execSetWatchdog (m : Msg) (s : State) : Host.Outcome State Fault Refusal :=
  manage m s fun s => s.contextCommand m 16 fun s c a =>
    let w := fieldAt a 0 8
    let p := fieldAt a 8 8
    let within (x lo hi : Nat) : Bool := x == 0 || (decide (lo ≤ x) && decide (x ≤ hi))
    if within w 10000000 60000000000 && within p 1000000000 3600000000000 then
      reply ((s.setContext m.context.toNat { c with watchdog := w, park := p }).restartWindow m.context.toNat) 0 []
    else reply s 1 []

/-! ## Regions and mappings (R286, R299) -/

/-- The cores that hold any state. -/
def State.usedCores (s : State) : List Nat := s.cores.map fun c => c.1

/-- Whether the fields of a region register keep R299. -/
def regionOk (base len kind param : Nat) : Bool :=
  base % 128 == 0 && len % 128 == 0 && decide (base < addressEnd) && decide (len < addressEnd) && decide (base + len ≤ addressEnd) &&
    decide (kind < 4) &&
    (if kind = regionWeir then decide (0 < param) && decide (param < 0x7F800000) else param == 0)

/-- Whether messages about a context's weir additions are on their way (R353). -/
def State.weirMessages (s : State) (ctx : Nat) : Bool :=
  s.agenda.any fun i =>
    match i with
    | .weirRun _ c _ _ _ _ => c == ctx
    | .spillAcknowledgement _ c _ => c == ctx
    | .returnNotice _ c _ => c == ctx
    | .shareRequest _ c _ _ => c == ctx
    | .shareGrant _ c _ _ => c == ctx
    | _ => false

/-- The sluices of the delta lines of a context in a range, those not yet on their way. -/
def State.sluicesIn (s : State) (ctx lo hi : Nat) : List Instr :=
  ((s.usedCores.map fun k => ((s.coreSt k).deltas.filter fun d =>
    d.ctx == ctx && decide (lo ≤ d.vline) && decide (d.vline < hi) && !d.leaving).map fun d => Instr.sluice k ctx d.pline).flatten).filter
      fun i => !s.agenda.contains i

/-- Settles the old range of a region register, whatever its kind, since another register that covers it may decide: none once the
delta lines in it are spilled and their shares returned (R299). -/
def State.settleRange (s : State) (ctx : Nat) (r : RegionReg) : Option State :=
  let lo := r.base.toNat / lineBytes
  let hi := (r.base.toNat + r.len.toNat) / lineBytes
  if (s.deltasIn ctx s.usedCores lo hi).isEmpty && !s.weirMessages ctx then none else some (s.dueAll (s.sluicesIn ctx lo hi))

/-- The drains of an old range, whatever its register's kind: noncoherent dirty lines in it are written back (R299). -/
def State.drainRange (s : State) (ctx : Nat) (r : RegionReg) : State × List Nat :=
  let lo := r.base.toNat / lineBytes
  let hi := (r.base.toNat + r.len.toNat) / lineBytes
  let lines (k : Nat) : List L1Line := (s.dirtyLines k ctx true lo hi).filter fun x => x.nc
  (s.usedCores.foldl (fun t k => t.drainLines k (lines k)) s, (s.usedCores.map fun k => (lines k).map fun x => s.dirLine x.pline).flatten)

/-- Management command 0x0019 writing a region register after settling its old range (R299): until then accesses follow the old
register. -/
def execSetRegion (m : Msg) (s : State) : Host.Outcome State Fault Refusal :=
  manage m s fun s => s.contextCommand m 25 fun s c a =>
    let i := fieldAt a 0 1
    let base := fieldAt a 1 8
    let len := fieldAt a 9 8
    let kind := fieldAt a 17 4
    let param := fieldAt a 21 4
    if 15 < i ∨ regionOk base len kind param = false then reply s 1 []
    else
      let new : RegionReg :=
        { base := BitVec.ofNat 64 base, len := BitVec.ofNat 64 len, kind := kind, crest := BitVec.ofNat 32 param }
      let put (s : State) : State := s.modContext m.context.toNat fun c => { c with regions := tblSet c.regions i new }
      match tblGet? c.regions i with
      | none => reply (put s) 0 []
      | some old =>
        match s.settleRange m.context.toNat old with
        | some s1 => .again s1
        | none =>
          let d := s.drainRange m.context.toNat old
          .answer (put d.1) 0 [] d.2

/-- Whether a watched address still maps to its line. -/
def State.watchStands (s : State) (ctx : Nat) (w : Watch) : Bool :=
  match (s.walk none ctx (w.vline * lineBytes)).2 with
  | .leaf l =>
    if pteRm l.pte then
      w.remote && ((s.peerOf ctx l (w.vline * lineBytes)).map fun p => p.2 / lineBytes == w.pline).getD false
    else !w.remote && leafPa l (w.vline * lineBytes) / lineBytes == w.pline
  | _ => false

/-- A watch in a range whose page has been unmapped is lost (R241). -/
def State.loseWatches (s : State) (ctx lo hi : Nat) : State :=
  let gone (g : Group) : Bool :=
    s.ctxOf g == ctx &&
      match g.watch with
      | some w => decide (lo ≤ w.vline) && decide (w.vline < hi) && decide (w.pline ≠ 0 ∨ w.fired = false) && !s.watchStands ctx w
      | none => false
  let wakes := (s.groups.filter fun x => gone x.2 && x.2.monitorDst.isSome).map fun x => Instr.monitorWake x.1 2
  State.dueAll { s with groups := tblMap (fun _ g => if gone g then g.loseWatch else g) s.groups } wakes

/-- Drops a core's TLB entries and L1 lines of a context in a range of virtual lines. -/
def State.dropMappings (s : State) (ctx lo hi core : Nat) : State :=
  let inRange (x : L1Line) : Bool := x.ctx == ctx && decide (lo ≤ x.vline) && decide (x.vline < hi)
  let page (e : Nat × Nat × Leaf) : Bool :=
    let size := 2 ^ leafBits e.2.2.lvl
    let first := e.2.1 / size * size
    e.1 == ctx && decide (first < hi * lineBytes) && decide (lo * lineBytes < first + size)
  let grants := ((s.coreSt core).l1.filter fun x => inRange x && x.excl).map fun x => x.pline
  let s1 := s.modCore core fun c => { c with l1 := c.l1.filter fun x => !inRange x, tlb := c.tlb.filter fun e => !page e }
  grants.foldl (fun s l => s.endGrant l core) s1

/-- Steps 1 and 2 of R286 for a range of virtual lines; watches of pages that are gone are lost. -/
def State.shootRange (s : State) (ctx lo hi : Nat) : State :=
  (s.usedCores.foldl (fun s k => (s.drain k ctx true lo hi).dropMappings ctx lo hi k) s).loseWatches ctx lo hi

/-- Whether accesses that may have been translated under an old entry are still to be performed: weir additions held in the range or
on their way, and remote accesses of the context's groups and engine operations (R286). -/
def State.oldAccesses (s : State) (ctx lo hi : Nat) : Bool :=
  !(s.deltasIn ctx s.usedCores lo hi).isEmpty || s.weirMessages ctx ||
    (s.groups.any fun x => s.ctxOf x.2 == ctx && s.waitsRemote x.1 x.2) || s.outstanding.any fun t =>
      match t.purpose with
      | .engineRead _ g _ _ => ((s.group? g).map fun x => s.ctxOf x == ctx).getD false
      | .engineWrite _ g _ _ => ((s.group? g).map fun x => s.ctxOf x == ctx).getD false
      | .template g _ => ((s.group? g).map fun x => s.ctxOf x == ctx).getD false
      | _ => false

/-- Management command 0x001B writing back, dropping TLB and L1 entries for a range (R286): it completes once nothing that was
translated before is still to be performed. -/
def execShootdown (m : Msg) (s : State) : Host.Outcome State Fault Refusal :=
  manage m s fun s => s.contextCommand m 16 fun s _ a =>
    let ctx := m.context.toNat
    let lo := fieldAt a 0 8 / lineBytes
    let hi := (fieldAt a 0 8 + fieldAt a 8 8 + lineBytes - 1) / lineBytes
    let s1 := s.shootRange ctx lo hi
    if s1.oldAccesses ctx lo hi then .again (s1.dueAll (s1.sluicesIn ctx lo hi))
    else .answer s1 0 [] (s1.invals.map fun x => x.1)

/-! ## Physical memory (R184, R281) -/

/-- Whether a physical range is refused: at or above 3 TiB, or in a reserved area. -/
def physRefused (a n : Nat) : Bool :=
  decide (Config.hbmBytes < a + n) ||
    (List.range Config.reservedCount).any fun i =>
      decide (a < (Config.reservedArea i).1.toNat + (Config.reservedArea i).2.1.toNat) &&
        decide ((Config.reservedArea i).1.toNat < a + n)

/-- Management command 0x001C writing physical memory (R184): the holders of a weir line are sluiced first (R348). That a signed one
of more data bytes than its payload or packet has room for is performed where it reaches the wafer is DESIGN CHOICE (log 21). -/
def execWritePhysical (m : Msg) (s : State) : Host.Outcome State Fault Refusal :=
  manage m s fun s => s.waferCommand m (fun n => decide (9 ≤ n) && decide (n ≤ 4008)) fun s a =>
    let pa := fieldAt a 0 8
    let b := a.drop 8
    if physRefused pa b.length then reply s 3 []
    else
      let lines := (piecesOf pa b.length).map fun p => p.1 / lineBytes
      match s.askParty innkeeperParty lines with
      | some s1 => .again s1
      | none => .answer (endServicesOf (s.physWrite pa b) innkeeperParty lines) 0 [] (lines.map s.dirLine)

/-- Management command 0x001D reading physical memory (R184). -/
def execReadPhysical (m : Msg) (s : State) : Host.Outcome State Fault Refusal :=
  manage m s fun s => s.waferCommand m (fun n => n == 12) fun s a =>
    let pa := fieldAt a 0 8
    let n := fieldAt a 8 4
    if n = 0 ∨ 4000 < n then reply s 1 []
    else if physRefused pa n then reply s 3 []
    else if s.bankBad pa n then reply s 4 []
    else
      reply ((piecesOf pa n).foldl (fun s p => s.lodge (p.1 / lineBytes) none none) s) 0 (memReadBytes s.mem pa n)

/-- Management command 0x001E loading and mapping an ELF code object (R153). -/
def execLoadObject (m : Msg) (s : State) : Host.Outcome State Fault Refusal :=
  manage m s fun s => s.contextCommand m 60 fun s c a =>
    let args : LoadArgs :=
      { image := fieldAt a 0 8, length := fieldAt a 8 8, base := fieldAt a 16 8, limit := fieldAt a 24 8, phys := fieldAt a 32 8,
        physLen := fieldAt a 40 8, result := fieldAt a 48 8, override := natBit (fieldAt a 56 4) 0 }
    if 1 < fieldAt a 56 4 then reply s 1 []
    else
      match s.readImage m.context.toNat args with
      | .held s1 _ _ => reply s1 1 (leBytes (2 ^ 12) 4)
      | .fail s1 _ _ => reply s1 1 (leBytes (2 ^ 12) 4)
      | .later s1 => .again s1
      | .asleep s1 => .again s1
      | .ok s1 b =>
        let mask := s1.refusalMask c.root.toNat args b
        let weirs := s1.crestLines m.context.toNat args (symbolsOf b (sectionsOf b)).length
        if refusing args.override mask ≠ 0 then reply s1 1 (leBytes mask 4)
        else
          match s1.askParty innkeeperParty weirs with
          | some s2 => .again s2
          | none =>
            match s1.loadImage m.context.toNat c args b with
            | (s2, handle, entries) =>
              let flying := (s2.invals.filter fun x => x.2.2 == noCore).map fun x => x.1
              .answer (endServicesOf s2 innkeeperParty weirs) 0 (leBytes handle 4 ++ leBytes entries 4) flying

/-! ## Page replies (R102, R274, R308, R401) -/

/-- A verdict of the host on some pages. -/
def verdictOn (pages : List PageRef) (verdict : Option Bool) : List (PageRef × Bool) :=
  match verdict with
  | some v => pages.map fun p => (p, v)
  | none => []

/-- Wakes the held splits of a context; a refusal is kept for the instruction that executes again. -/
def State.wakeHeld (s : State) (ctx : Nat) (fatal : List (PageRef × Bool)) : State :=
  let f (x : Split) : Split := if x.onHold then { x with wait := .hold true, verdicts := x.verdicts ++ fatal } else x
  let g (x : Group) : Group := { x with slotA := x.slotA.map f, slotB := x.slotB.map f, spilled := x.spilled.map f }
  { s with groups := tblMap (fun _ x => if s.ctxOf x == ctx then g x else x) s.groups }

/-- Wakes the engine operations that some pages hold, in the cores and in the saved crews. -/
def State.wakeHeldOps (s : State) (ctx : Nat) (pages : List PageRef) (fatal : List (PageRef × Bool)) : State :=
  let mine (o : EngOp) : Bool := o.ctx == ctx && (o.held.map fun a => pages.any fun p => p.covers a.toNat).getD false
  let f (o : EngOp) : EngOp := { o with fatal := o.fatal ++ fatal, held := none }
  let free (o : EngOp) : EngOp := if mine o then { f o with asleep := false } else o
  let s1 := s.usedCores.foldl (fun s k => (s.wakeOps k false mine f).wakeOps k true mine f) s
  { s1 with crews := tblMap (fun _ c => { c with savedCopy := c.savedCopy.map free, savedMat := c.savedMat.map free }) s1.crews }

/-- The dispatcher looks again at what waits for a page of a context; the verdict stays with what waits until it has been used, as
while the context is faulted or halted. A queue waits until a take has passed its page (R401). -/
def State.retryDispatcher (s : State) (ctx : Nat) (fatal : List (PageRef × Bool)) : State :=
  match s.context? ctx with
  | none => s
  | some c =>
    let queues := (c.queues.filter fun q => q.2.held).map fun q => q.1
    let queue (x : LaunchQueue) : LaunchQueue := if x.held then { x with fatal := x.fatal ++ fatal } else x
    let launch (x : Launch) : Launch :=
      if x.ctx = ctx ∧ (x.st = .held ∨ x.wordHeld = true) then { x with fatal := x.fatal ++ fatal } else x
    let s0 : State := State.modContext { s with launches := tblMap (fun _ x => launch x) s.launches } ctx fun c =>
      { c with queues := tblMap (fun _ x => queue x) c.queues }
    let s1 := queues.foldl (fun s q => s.takeWaybill ctx q) s0
    let held := (s1.launches.filter fun x => x.2.ctx == ctx && x.2.st == .held).map fun x => x.1
    let s2 := held.foldl (fun s k => s.readyLaunch k) s1
    let words := (s2.launches.filter fun x => x.2.ctx == ctx && x.2.wordHeld).map fun x => x.1
    words.foldl (fun s k => s.completeLaunch k) s2

/-- The pages that a reply answers: those requested that hold the address, whatever their size, else the smallest one. -/
def Context.answered (c : Context) (va : Nat) : List PageRef :=
  match c.requested.filter fun p => p.covers va with
  | [] => [smallPage va]
  | l => l

/-- Management command 0x001F answering a page request, resuming or failing held accesses (R102). -/
def execPageReply (m : Msg) (s : State) : Host.Outcome State Fault Refusal :=
  manage m s fun s => s.command m (fun n => n == 9) true .admitted false (fun s c a =>
    let ctx := m.context.toNat
    let pages := c.answered (fieldAt a 0 8)
    let verdict : Option Bool :=
      match fieldAt a 8 1 with
      | 1 => some false
      | 2 => some true
      | _ => none
    let fatal := verdictOn pages verdict
    if 2 < fieldAt a 8 1 then reply s 1 []
    else
      let s1 := s.modContext ctx fun c => { c with requested := c.requested.filter fun p => !pages.contains p }
      reply (((s1.wakeHeld ctx fatal).wakeHeldOps ctx pages fatal).retryDispatcher ctx fatal) 0 []) fun s _ => reply s 5 []

/-! ## The wafer (R166, R170, R179, R180) -/

/-- Management command 0x0021 setting the recovery window (R170). -/
def execSetRecoveryWindow (m : Msg) (s : State) : Host.Outcome State Fault Refusal :=
  manage m s fun s => s.waferCommand m (fun n => n == 8) fun s a =>
    let w := fieldAt a 0 8
    if w < 100000000 ∨ 60000000000 < w then reply s 1 [] else reply { s with recoveryWindow := w } 0 []

/-- Management command 0x0022 setting a port's address and flow control (R166). -/
def execSetPort (m : Msg) (s : State) : Host.Outcome State Fault Refusal :=
  manage m s fun s => s.waferCommand m (fun n => n == 18) fun s a =>
    let i := fieldAt a 0 1
    let flags := fieldAt a 17 1
    if 47 < i ∨ 1 < flags then reply s 1 []
    else
      let set (p : Port) : Port :=
        Port.goOn { p with ip := BitVec.ofNat 128 (fieldAt a 1 16), pfc := flags == 1,
                           paused := if flags = 1 then p.paused else 0 } s.tick
      reply (State.flush { s with ports := tblMod set s.ports i }) 0 []

/-- The firmware image that runs (R179). -/
def State.runningImage (s : State) : List Byte := s.firmware.getD Config.firmwareImage

/-- Whether an image replaces the running one: signed, and not older (R179; log 12). -/
def State.firmwareOk (s : State) (image : List Byte) : Bool :=
  firmwareSigned image && decide (Config.firmwareVersion s.runningImage ≤ Config.firmwareVersion image)

/-- Management command 0x0023 verifying and installing a firmware image (R179): a refused image leaves the running firmware in place
and is answered with status 3, an unreadable one with status 4, a range that leaves the memory with status 1 (log 23). -/
def execUpdateFirmware (m : Msg) (s : State) : Host.Outcome State Fault Refusal :=
  manage m s fun s => s.waferCommand m (fun n => n == 16) fun s a =>
    let pa := fieldAt a 0 8
    let n := fieldAt a 8 8
    if Config.hbmBytes < pa + n then reply s 1 []
    else if s.bankBad pa n then reply s 4 []
    else if s.firmwareOk (memReadBytes s.mem pa n) then reply { s with firmware := some (memReadBytes s.mem pa n) } 0 []
    else reply s 3 []

/-! ## Records (R176, R180, R184, R400) -/

/-- The record of a port. -/
def portRecord (p : Port) : List Byte :=
  leBytes (if p.up then 1 else 0) 1 ++ leBytes (if p.pfc then 1 else 0) 1 ++ leBytes 0 6 ++ leBytes p.ip.toNat 16 ++
    leBytes p.sent.toNat 8 ++ leBytes p.received.toNat 8 ++ leBytes p.dropped.toNat 8

/-- Code of a context's state. -/
def CtxSt.code : CtxSt → Nat
  | .running => 1
  | .faulted => 2
  | .halted => 3
  | .resetting => 4

/-- The record of a context; 24 zero bytes for an absent one. -/
def contextRecord : Option Context → List Byte
  | none => leBytes 0 24
  | some c => leBytes c.st.code 1 ++ leBytes c.share 1 ++ leBytes 0 2 ++ leBytes c.counter 4 ++ leBytes c.watchdog 8 ++ leBytes c.park 8

/-- Watts of the 30 kW at which power is capped (R181). -/
def powerCap : Nat := 30000

/-- Use of a reserved area: 1 to 4 (R400). -/
def reservedUse (n : Nat) : Nat := 1 + n % 4

/-- The record that 0x0030 returns; none for a selector or an index outside its range (R400). -/
def State.stateRecord (s : State) (selector index : Nat) : Option (List Byte) :=
  match selector with
  | 0 => (tblGet? s.ports index).map portRecord
  | 1 => if index < 64 then some (contextRecord (s.context? index)) else none
  | 2 => if index = 0 then some (leBytes s.mhz 4 ++ leBytes (min powerCap (Config.power s.tick).toNat) 4) else none
  | 3 =>
    if index < Config.reservedCount then
      let r := Config.reservedArea index
      some (leBytes r.1.toNat 8 ++ leBytes r.2.1.toNat 8 ++ leBytes (reservedUse r.2.2) 4 ++ leBytes Config.reservedCount 4 ++
        leBytes Config.bytesLeft.toNat 8)
    else none
  | _ => none

/-- Management command 0x0030 returning a port, context, clock or reserved-area record (R400). -/
def execReadState (m : Msg) (s : State) : Host.Outcome State Fault Refusal :=
  manage m s fun s => s.command m (fun n => n == 4) false .anyone false (fun s _ _ => reply s 1 []) fun s a =>
    match s.stateRecord (fieldAt a 0 2) (fieldAt a 2 2) with
    | some b => reply s 0 b
    | none => reply s 1 []

/-- Management command 0x0031 returning the violation ring and counter (R176), the entries in their places in the ring; a place that
no violation has been written to reads 0: DESIGN CHOICE (log 21), the spec gives neither an order nor a value. -/
def execReadViolations (m : Msg) (s : State) : Host.Outcome State Fault Refusal :=
  manage m s fun s => s.contextCommand m 0 fun s c _ =>
    reply s 0 (bytesAt ((c.violations.map fun v => leBytes v.toNat 8).flatten) 0 512 ++ leBytes c.violationCount.toNat 8)

/-- Management command 0x0032 returning a signed attestation quote (R180): the device identity, the grade, the SHA-512 hash of the
firmware image, the nonce and the objects loaded under the debug override. The layout is DESIGN CHOICE (log 21), since R180 names
the items alone: this order, the grade in 4 bytes, an override mark as in the event log, and the 132 bytes of the signature last. -/
def execAttest (m : Msg) (s : State) : Host.Outcome State Fault Refusal :=
  manage m s fun s => s.command m (fun n => n == 32) false .anyone false (fun s _ _ => reply s 1 []) fun s a =>
    let body := Config.deviceIdentity ++ leBytes s.part.grade 4 ++ sha512 s.runningImage ++ a ++ s.overrides.flatten
    reply s 0 (body ++ identitySign s.tick body)

/-- Management command 0x0033 returning part of a context's event log (R184). -/
def execReadEventLog (m : Msg) (s : State) : Host.Outcome State Fault Refusal :=
  manage m s fun s => s.command m (fun n => n == 8) true .anyone false
    (fun s c a => reply s 0 ((c.log.drop (fieldAt a 0 8)).take 4000)) fun s _ => reply s 5 []

/-! ## Reset of a context, as it arrives (R226, R391) -/

/-- Whether an outstanding request is of a killed group. -/
def Txn.ofGroups (t : Txn) (gs : List Nat) : Bool :=
  match t.purpose with
  | .load g _ _ _ _ _ => gs.contains g
  | .store g => gs.contains g
  | .poll g => gs.contains g
  | .template g _ => gs.contains g
  | .engineRead _ g _ _ => gs.contains g
  | .engineWrite _ g _ _ => gs.contains g
  | _ => false

/-- Drops a context's delta lines without a run; the anchors remove its holders and restore their shares (R363, R391). -/
def State.dropWeir (s : State) (ctx : Nat) (gone : Nat → Bool) : State :=
  let core (c : CoreSt) : CoreSt :=
    { c with deltas := c.deltas.filter fun d => d.ctx != ctx, roomless := c.roomless.filter fun d => d.ctx != ctx }
  let rec_ (w : WeirRec) : WeirRec :=
    let back := ((w.holders.filter fun h => h.2.1 == ctx).map fun h => shareUnits h.2.2.1).sum
    { w with free := w.free + back, holders := w.holders.filter fun h => h.2.1 != ctx,
             sluicing := w.sluicing.filter fun h => h.2 != ctx, service := w.service.filter fun p => !gone p.1 }
  let stays : Instr → Bool
    | .shareRequest _ x _ _ => x != ctx
    | .shareGrant _ x _ _ => x != ctx
    | .weirRun _ x _ _ _ _ => x != ctx
    | .spillAcknowledgement _ x _ => x != ctx
    | .sluice _ x _ => x != ctx
    | .returnNotice _ x _ => x != ctx
    | .resumeNotice _ x _ => x != ctx
    | .drainRequest _ x _ _ => x != ctx
    | _ => true
  let s1 : State :=
    { s with cores := tblMap (fun _ c => core c) s.cores,
             dir := tblMap (fun _ e => { e with weir := e.weir.filterMap fun x => (rec_ x.2).kept.map fun w => (x.1, w) }) s.dir,
             agenda := s.agenda.filter stays }
  s1.cores.foldl (fun t c => t.retryAdds c.1) s1

/-- Steps 1 to 4 of R391: dispatch stops, what is queued is discarded, groups and crews are killed, engine queues and delta lines
are emptied. A launch whose completion word is written completes. -/
def State.tearDown (s : State) (ctx : Nat) (c : Context) (m : Msg) : State :=
  let mine (g : Group) : Bool := s.ctxOf g == ctx
  let gone := (s.groups.filter fun x => mine x.2).map fun x => x.1
  let batchKeys := c.batches.map fun b => launchKey ctx b.id
  let waiting (x : Launch) : Bool := x.st == .gathering || x.st == .taken || x.st == .held || x.st == .ready
  let children := (s.launches.filter fun x => x.2.ctx == ctx && x.2.isBatch && waiting x.2 && !batchKeys.contains x.1).map fun x =>
    x.2.table.length
  let discarded := children.sum + (c.batches.map fun b => b.table.length).sum
  let end_ (x : Launch) : Launch :=
    if x.ctx = ctx ∧ x.st = .written then { x with tree := none }
    else if x.ctx = ctx ∧ x.st ≠ .complete ∧ x.st ≠ .rejected then
      { x with st := .failed, wordHeld := false, tree := none, unconfirmed := [] }
    else x
  let trees := (s.launches.filter fun x => x.2.ctx == ctx).filterMap fun x => x.2.tree
  let core (k : CoreSt) : CoreSt :=
    { k with copyQ := k.copyQ.filter fun o => o.ctx != ctx, matQ := k.matQ.filter fun o => o.ctx != ctx,
             done := k.done.filter fun g => !gone.contains g }
  let ofOps (g : Nat) : Bool := gone.any fun x => decide (18446744073709551616 * (x + 1) ≤ g) &&
    decide (g < 18446744073709551616 * (x + 2))
  let s1 : State :=
    { s with groups := s.groups.filter fun x => !mine x.2, crews := s.crews.filter fun x => ctxOfKey x.2.launch != ctx,
             launches := tblMap (fun _ x => end_ x) s.launches, cores := tblMap (fun _ k => core k) s.cores,
             trees := tblFilter (fun t _ => !trees.contains t) s.trees,
             outstanding := s.outstanding.filter fun t => !t.ofGroups gone,
             unsent := s.unsent.filter fun m =>
               !s.outstanding.any fun t => t.ofGroups gone && t.msg.peer == m.peer && t.msg.seq == m.seq }
  let s2 := (s1.dropWeir ctx fun g => gone.contains g || ofOps g).wakeGroups (fun _ _ => true) fun w => w.isAck || w == .engine
  s2.setContext ctx { c with st := .resetting, batches := [], discarded := discarded, resetMsg := some m, requested := [],
                             fault := none, parkedSince := none }

/-- Management command 0x0011 tearing a context down (R391): it is answered after the kind-9 report. -/
def execResetContext (m : Msg) (s : State) : Host.Outcome State Fault Refusal :=
  manage m s fun s => s.contextCommand m 0 fun s c _ =>
    let ctx := m.context.toNat
    .silent ((s.tearDown ctx c m).due (.quiesceTokenReturn ctx)).dispatch

end Sys2Proof.Machine
end

