-- ==== Sys2Proof/Machine/Faults.lean ====
section
/-! DEFINITION. Fetch faults and illegal encodings, restarts and debug halts, context faults, watchdog and park limit, the end of a
reset, ownership in time, bring-up, the clock, and dressing (R16, R46, R145, R173, R178, R181, R182, R385, R389 to R394). -/

namespace Sys2Proof.Machine

/-! ## Fetch (R16, R17, R46) -/

/-- A stop of the executing split before any instruction runs; the record holds the halfwords that were fetched. -/
def stopSplit (enc : Word) (why : Stop) (s : State) : Host.Outcome State Fault Refusal :=
  match viewOf 4 s with
  | none => .fault .noSplit
  | some v => .next (settleStop { v with enc := enc } v.s v.g why)

/-- A fetched pattern that is not an instruction traps ILLEGAL before its guard is read (R46): no lane is acting. -/
def execIllegalEncoding (word : Word) (s : State) : Host.Outcome State Fault Refusal :=
  stopSplit word .illegal s

/-- A halfword at the pc cannot be fetched (R16): cause 0 is a held translation fault, every other cause traps with the halfword's
address. -/
def execInstructionFetchFault (cause : Nat) (halfword : DWord) (fetched : Word) (s : State) : Host.Outcome State Fault Refusal :=
  stopSplit fetched (if cause = 0 then .hold [(halfword.toNat, smallPage halfword.toNat)] else .trap cause noLane 0 halfword 0) s

/-! ## Restart in an idempotent region (R385) -/

/-- Whether a group has engine operations that `p` admits, on its core or saved with its crew. -/
def State.opsOf (s : State) (gid : Nat) (g : Group) (p : EngOp → Bool) : Bool :=
  let c := s.coreSt (s.coreOf g)
  let saved := ((s.crew? g.crew).map fun c => c.savedCopy ++ c.savedMat).getD []
  (c.copyQ ++ c.matQ ++ saved).any fun o => o.group == gid && p o

/-- Takes a group's splits out of the lists of sleepers of its crew's queues. -/
def State.leaveQueues (s : State) (crew gid : Nat) : State :=
  let out (l : List (Nat × Bool)) : List (Nat × Bool) := l.filter fun x => x.1 != gid
  s.modCrew crew fun c => { c with queues := tblMap (fun _ q => { q with pushers := out q.pushers, poppers := out q.poppers }) c.queues }

/-- Where a restarted group stands. -/
def Group.restarted (g : Group) (r : Region) : Group :=
  { g with slotA := some (Split.start g.ire (r.mask &&& ~~~g.exited) r.fm), slotB := none, spilled := [], records := [],
           failures := g.failures.filter fun f => decide (f.num < r.firstOp), handler := none, restart := false,
           region := some { r with restarts := r.restarts + 1 } }

/-- A consumed UCE or SOFT inside a region restarts the group at %ire after settling its operations (R385): its splits are
discarded, those that sleep at a queue (R249) included. The event log names the launch, the core, the group and the count (log 19).
-/
def execIdempotentRestart (group : Nat) (s : State) : Host.Outcome State Fault Refusal :=
  match s.group? group with
  | none => .next s
  | some g =>
    match g.region with
    | some r =>
      if !g.restart then .next s
      else if s.opsOf group g fun o => decide (r.firstOp ≤ o.num) then .next (s.due (.idempotentRestart group))
      else
        .next (((s.leaveQueues g.crew group).setGroup group (g.restarted r)).modContext (s.ctxOf g) fun c =>
          { c with log := c.log ++ leBytes (s.launchOf g % 4294967296) 4 ++ leBytes (s.coreOf g) 2 ++ leBytes g.index 1 ++
                            leBytes (r.restarts + 1) 1 })
    | none => .next (s.setGroup group { g with restart := false })

/-! ## Debug halt (R389) -/

/-- A debug-halted group's engine operations end and its state is exposed (R389): failures among them never trap. The list of the
batches that have completed since the `brk`, each with its status, goes to the debugger through the context's event log: DESIGN
CHOICE (log 19). -/
def execDebugHaltSettled (group : Nat) (s : State) : Host.Outcome State Fault Refusal :=
  match s.group? group with
  | none => .next s
  | some g =>
    match g.halt with
    | .debug false b kept batches =>
      if s.opsOf group g fun _ => true then .next (s.due (.debugHaltSettled group))
      else
        let place := leBytes (s.launchOf g % 4294967296) 4 ++ leBytes (s.coreOf g) 2 ++ leBytes g.index 1
        let record (x : Bool × Nat × Nat) : List Byte :=
          place ++ leBytes (if x.1 then 0x11 else 0x10) 1 ++ leBytes x.2.1 8 ++ leBytes x.2.2 1
        .next ((s.setGroup group { g with halt := .debug true b kept [], failures := g.failures.take kept }).modContext (s.ctxOf g)
          fun c => { c with log := c.log ++ (batches.map record).flatten })
    | _ => .next s

/-! ## Context faults (R145, R386) -/

/-- Whether the stores of a context's groups have still to be performed at system scope (R145). -/
def State.storesOut (s : State) (ctx : Nat) : Bool :=
  (s.usedCores.any fun k => s.weirPending ctx k) || (s.groups.any fun x => s.ctxOf x.2 == ctx && x.2.remoteOut != 0) ||
    s.invals.any fun x => s.usedCores.contains x.2.2

/-- Once every group of the context has reached its halt (R386; log 14) and the halted groups' stores are performed, the kind-5
fault event posts (R145): noncoherent lines are written back, and weir additions are spilled (log 14). -/
def execFaultEventPost (ctx : Nat) (s : State) : Host.Outcome State Fault Refusal :=
  match (s.context? ctx).bind fun c => c.fault with
  | none => .next s
  | some (core, index, cause) =>
    let halted := s.modContext ctx fun c => { c with unhalted := [] }
    let s1 := halted.usedCores.foldl (fun s k => s.drain k ctx true 0 lineEnd) halted
    let spills := s1.spillsDue ctx s1.usedCores
    if !spills.isEmpty || s1.storesOut ctx then .next ((s1.dueAll spills).due (.faultEventPost ctx))
    else
      .next ((s1.postEvent ctx 5 (leBytes core 2 ++ leBytes index 2 ++ leBytes cause 2)).modContext ctx fun c =>
        { c with fault := none })

/-- An unacknowledged event past the recovery window halts the context (R178); the clock has reached the end. -/
def execEventAckTimeout (ctx : Nat) (s : State) : Host.Outcome State Fault Refusal :=
  match s.context? ctx with
  | none => .next s
  | some c =>
    match c.unacked with
    | [] => .next s
    | r :: _ =>
      if c.channelHalted || c.st == .resetting then .next s
      else
        let end_ := r.sentAt + BitVec.ofNat 64 s.recoveryWindow
        let s1 : State := { s with clock := if s.clock.ult end_ then end_ else s.clock }
        let c1 := { c with channelHalted := true, st := if c.st = .running then .halted else c.st }
        .next ((s1.setContext ctx c1).notice ctx 3 (leBytes ctx 1 ++ leBytes r.seq 8))

/-! ## Watchdog and park limit (R390) -/

/-- Whether a split waits for something outside the wafer. -/
def State.splitParked (s : State) (gid : Nat) (g : Group) (x : Split) : Bool :=
  match x.wait with
  | .hold w => !w
  | .remote => true
  | .event => true
  | .arming => true
  | .acquired _ => s.waitsRemote gid g
  | .monitor _ _ => (g.watch.map fun w => w.parks).getD false
  | .ack => decide (g.remoteOut ≠ 0)
  | .source => s.waitsRemote gid g
  | .batch => s.opsOf gid g fun o => o.held.isSome || o.asleep
  | .final => s.opsOf gid g fun o => o.held.isSome || o.asleep
  | _ => false

/-- Whether a resident group is externally parked: halted for the debugger, or with a live slot in one of the states of R390. -/
def State.groupParked (s : State) (gid : Nat) (g : Group) : Bool :=
  match g.halt with
  | .debug _ _ _ _ => true
  | _ => (([false, true].filter fun b => !g.frozen b).filterMap g.slot).any fun x => s.splitParked gid g x

/-- The resident groups of a context. -/
def State.residentGroups (s : State) (ctx : Nat) : List (Nat × Group) :=
  s.groups.filter fun x => s.ctxOf x.2 == ctx && ((s.crew? x.2.crew).map fun c => c.res == .resident).getD false

/-- Fields of a kind-5 event that name no core and no group (R398). -/
def noPlace : Nat := 0xFFFF

/-- A hung context faults when a watchdog window passes without progress (R390); a window with progress is followed by the next.
The clock has reached its end. -/
def execWatchdogExpiry (ctx : Nat) (s : State) : Host.Outcome State Fault Refusal :=
  match s.context? ctx with
  | none => .next s
  | some c =>
    if c.st ≠ .running ∨ c.watchdog = 0 then .next s
    else
      let end_ := c.windowStart + BitVec.ofNat 64 c.watchdog
      let s1 : State := { s with clock := if s.clock.ult end_ then end_ else s.clock }
      let mine := s1.groups.filter fun x => s1.ctxOf x.2 == ctx
      let hung := !c.progress && !(mine.any fun x => x.2.active) && (s1.residentGroups ctx).any fun x => !s1.groupParked x.1 x.2
      let s2 := s1.restartWindow ctx
      .next (if hung then s2.contextFault ctx noPlace noPlace 0 else s2)

/-- Whether every resident group of a context is externally parked, and there is one. -/
def State.allParked (s : State) (ctx : Nat) : Bool :=
  let l := s.residentGroups ctx
  !l.isEmpty && l.all fun x => s.groupParked x.1 x.2

/-- A context whose groups stay externally parked past the limit faults (R390); the clock has reached the end. -/
def execParkLimitExpiry (ctx : Nat) (s : State) : Host.Outcome State Fault Refusal :=
  match s.context? ctx with
  | none => .next s
  | some c =>
    match c.parkedSince with
    | none => .next s
    | some t =>
      if c.st ≠ .running ∨ c.park = 0 ∨ s.allParked ctx = false then .next s
      else
        let end_ := t + BitVec.ofNat 64 c.park
        .next (State.contextFault { s with clock := if s.clock.ult end_ then end_ else s.clock } ctx noPlace noPlace 0xFFFF)

/-- Notes since when the groups of each context with a park limit have been parked. -/
def State.trackParks (s : State) : State :=
  if s.contexts.any fun c => c.2.park != 0 then
    { s with contexts := tblMap (fun i c =>
        if c.park = 0 then c
        else if c.st = .running ∧ s.allParked i = true then { c with parkedSince := c.parkedSince.or (some s.clock) }
        else { c with parkedSince := none }) s.contexts }
  else s

/-! ## The end of a reset (R391, R392) -/

/-- A dirty line of a killed context: each aligned 8 bytes of it is performed or discarded (R392). -/
def settleLine (tick : Nat) (x : L1Line) : L1Line :=
  { x with bytes := x.bytes.filter fun b => b.2.dirty && Config.survives tick (x.pline * 16 + b.1 / 8) }

/-- Retires or discards a context's writes in a core's L1, and drops its lines. -/
def State.settleWrites (s : State) (ctx core : Nat) : State :=
  let mine := (s.coreSt core).l1.filter fun x => x.ctx == ctx
  mine.foldl (fun s x =>
    let y := settleLine s.tick x
    (((s.modCore core fun c => { c with l1 := c.l1.map fun z => if z.ctx == x.ctx && z.vline == x.vline then y else z }).writeBack
      core y).modCore core fun c => c.drop x.ctx x.vline).endGrant x.pline core) s

/-- A context after its reset: no window, no kept area, every posted waybill behind it (R391, R399). -/
def Context.cleared (c : Context) : Context :=
  { c with windows := [], kept := [], queues := tblMap (fun _ q => { q with take := q.post, held := false, fatal := [] }) c.queues }

/-- Writes the take counts of a context whose queues have been emptied; none while one of them must wait (R401). -/
def State.putTakes (s : State) (ctx : Nat) (queues : Tbl LaunchQueue) : State × Bool :=
  queues.foldl (fun o q => let r := o.1.putTake ctx q.1 { q.2 with take := q.2.post, held := false, fatal := [] }; (r.1, o.2 && r.2)) (s, true)

/-- Whether a drain demand that names a context, or its answer, is on its way (R340, R392). -/
def State.demandsOut (s : State) (ctx : Nat) : Bool :=
  s.agenda.any fun i =>
    match i with
    | .drainDemand _ c _ _ => c == ctx
    | .drainAcknowledgement _ c _ _ => c == ctx
    | _ => false

/-- The reset quiesce token returns, areas are freed and the report is due (R391): the context runs again, with no launch, no window
and every posted waybill behind it. Drain demands on its releases are answered by then (R392). A halted event channel goes on before
the report (R178, R398). -/
def execQuiesceTokenReturn (ctx : Nat) (s : State) : Host.Outcome State Fault Refusal :=
  match s.context? ctx with
  | none => .next s
  | some c =>
    if c.st ≠ .resetting then .next s
    else
      let s1 := s.usedCores.foldl (fun s k => s.settleWrites ctx k) s
      let written := s1.launches.any fun x => x.2.ctx == ctx && x.2.st == .written
      let takes := s1.putTakes ctx c.queues
      let flying := (s1.invals.any fun x => s1.usedCores.contains x.2.2) || takes.1.sysPending
      if written || s1.demandsOut ctx || flying || !takes.2 then .next (takes.1.due (.quiesceTokenReturn ctx))
      else
        let s2 := takes.1.modContext ctx Context.cleared
        let s3 := if c.channelHalted then s2.resendEvents ctx c else s2
        let s4 := s3.postEvent ctx 9 (leBytes c.discarded 8)
        let s5 := (s4.restartWindow ctx).modContext ctx fun c =>
          { c with st := .running, discarded := 0, resetMsg := none, parkedSince := none }
        .next (match c.resetMsg with
          | some m => s5.answer m 0 []
          | none => s5)

/-! ## Ownership in time, bring-up and the clock (R173, R181, R182) -/

/-- The owner's lease expires and the wafer has no owner (R173): the notice goes to the host that held it. -/
def execLeaseLapse (s : State) : Host.Outcome State Fault Refusal :=
  match s.owner with
  | none => .next s
  | some o =>
    let s1 : State := { s with clock := if s.clock.ult o.lease then o.lease else s.clock }
    .next { s1.notice noContext 6 [] with owner := none }

/-- The 5 s grace for a named successor ends (R173). -/
def execSuccessorGraceExpiry (s : State) : Host.Outcome State Fault Refusal :=
  match s.successor with
  | none => .next s
  | some (_, t) => .next { s with clock := if s.clock.ult t then t else s.clock, successor := none }

/-- Device reset bring-up sequence through to accepting claims (R181): the boot ROM verifies the firmware, and runs no image that
does not verify (R179); the ports whose partners come up are up (R165; log 24). -/
def execBringUp (s : State) : Host.Outcome State Fault Refusal :=
  if s.broughtUp || !firmwareSigned s.runningImage then .next s
  else .next (State.flush { s with broughtUp := true, ports := tblMap (fun i p => { p with up := p.up || Config.partnerUp i }) s.ports })

/-- The innkeeper lowers or restores the common clock near the power cap (R182), to at most 2.5 GHz, and reports the change. -/
def execClockChange (mhz : Nat) (s : State) : Host.Outcome State Fault Refusal :=
  if mhz = 0 ∨ 2500 < mhz ∨ mhz = s.mhz then .next s
  else .next (State.notice { s with mhz := mhz } noContext 2 (leBytes mhz 4))

/-! ## Dressing (R393, R394) -/

/-- Whether a core holds a crew of a gated launch. -/
def State.holdsGated (s : State) (core : Nat) : Bool :=
  s.crews.any fun c => c.2.core == core && wbGated (s.wbOf c.2.launch)

/-- Cores under dressing. -/
def State.testing (s : State) : Nat := (s.cores.filter fun c => c.2.testing).length

/-- The core that dressing takes next: one passed over whose gated launch has ended, else the next in ascending order. -/
def State.dressTurn (s : State) : Nat := (s.skipped.find? fun c => !s.holdsGated c).getD s.dressNext

/-- Dressing pre-empts a core's crews and starts its scan patterns (R393): at most 4 cores at once, in their order; a core with a
gated crew is passed over, and an absent number is not dressed. -/
def execDressingPass (core : Nat) (s : State) : Host.Outcome State Fault Refusal :=
  if s.dressTurn ≠ core ∨ 4 ≤ s.testing ∨ (s.coreSt core).testing = true then .next s
  else
    let s1 : State :=
      { s with skipped := s.skipped.filter fun c => c != core,
               dressNext := if s.dressNext = core then (core + 1) % s.part.coreCount else s.dressNext }
    if (s.physOf core).isNone then .next s1
    else if s.holdsGated core then .next { s1 with skipped := s1.skipped ++ [core] }
    else
      let crews := (s1.crews.filter fun c => c.2.core == core && c.2.res == .resident).map fun c => c.1
      .next ((s1.modCore core fun c => { c with testing := true, scanFrom := s1.tick }).dueAll
        (crews.map Instr.preemptionHalt ++ [.dressingResult core true]))

/-- Launches whose confirmation awaits a dressing of a core. -/
def State.awaiting (s : State) (core : Nat) : List Nat :=
  (s.launches.filter fun l => l.2.unconfirmed.contains core).map fun l => l.1

/-- A pass confirms the launches whose last crew on the core had retired before the dressing began (R394). -/
def State.confirm (s : State) (core from_ key : Nat) : State :=
  match s.launch? key with
  | none => s
  | some l =>
    let live := s.crews.any fun c => c.2.launch == key && c.2.core == core
    let ended := ((tblGet? l.cores core).map fun t => decide (t < from_)).getD false
    if live || !ended then s
    else
      let l1 := { l with unconfirmed := l.unconfirmed.filter fun c => c != core }
      let s1 := s.setLaunch key l1
      if l1.unconfirmed.isEmpty && !l1.suspect && l1.st == .complete then s1.postEvent l1.ctx 2 (leBytes l1.id 4) else s1

/-- Mesh hops between two reticles. -/
def hops (a b : Nat) : Nat :=
  (max (a % 8) (b % 8) - min (a % 8) (b % 8)) + (max (a / 8) (b / 8) - min (a / 8) (b / 8))

/-- The spare that takes the number of a fenced physical core (R5): in its reticle the lowest, else the nearest, ties to the lower
reticle and physical index. -/
def State.spareFor (s : State) (p : Nat) : Option Nat :=
  let r := p / Config.coresPerReticle
  let free := (List.range 960).filter fun q => s.part.isSpare q && !s.usedSpares.contains q
  (free.foldl (fun (b : Option Nat) q =>
    match b with
    | none => some q
    | some x => if hops r (q / Config.coresPerReticle) < hops r (x / Config.coresPerReticle) then some q else b) none)

/-- Fences a core: its number passes to a spare, which has been dressed, or becomes absent (R5, R6). -/
def State.fence (s : State) (core : Nat) : State :=
  match s.physOf core with
  | none => s
  | some p =>
    match s.spareFor p with
    | some q =>
      State.modCore { s with renumbered := tblSet s.renumbered core (some q), usedSpares := q :: s.usedSpares } core
        fun c => { c with dress := 1 }
    | none => State.notice { s with renumbered := tblSet s.renumbered core none } noContext 5 (leBytes core 2)

/-- What a failed core's L1 holds goes out: dirty lines are written back, delta lines are spilled, and the spare starts empty (R394;
log 27). A line that waits for its grant, or for the answer to a spill, is spilled later. -/
def State.emptyCore (s : State) (core : Nat) : State :=
  let lines := (s.coreSt core).l1
  let s1 := lines.foldl (fun s x => s.evictL1 core x) s
  let ready := (s1.coreSt core).deltas.filter fun d => d.st == .direct || (d.st == .holding && !d.spilling)
  let spills := ready.map fun d => Instr.sluice core d.ctx d.pline
  (s1.modCore core fun c => { c with tlb := [], pointer := [], slot := none }).dueAll (spills.filter fun i => !s1.agenda.contains i)

/-- Whether every addition of a core stands at the lodging banks. -/
def State.emptied (s : State) (core : Nat) : Bool :=
  let c := s.coreSt core
  c.deltas.isEmpty && c.roomless.isEmpty && s.agenda.all fun i =>
    match i with
    | .weirRun k _ _ _ _ _ => k != core
    | _ => true

/-- Every launch that ran a crew on a failed core since its last passed dressing is suspect (R394). -/
def State.suspect (s : State) (core key : Nat) : State :=
  match s.launch? key with
  | none => s
  | some l =>
    (s.setLaunch key { l with suspect := true, unconfirmed := l.unconfirmed.filter fun c => c != core }).postEvent l.ctx 3
      (leBytes l.id 4 ++ leBytes core 2)

/-- The crews that still stand on a core under dressing and are not halting: their pre-emption has ended with a fault (R395), and
begins again. -/
def State.unhaltedOn (s : State) (core : Nat) : List Instr :=
  ((s.crews.filter fun c => c.2.core == core && c.2.res == .resident).map fun c => Instr.preemptionHalt c.1).filter
    fun i => !s.agenda.contains i

/-- After 1.5 ms the scan passes or fails and the crews resume, or become eligible elsewhere (R393, R394; `State.seatsOf`), once
every crew has left the core; those of a core that fails once its delta lines have been spilled, so that what they read there
includes their own additions (R348). -/
def execDressingResult (core : Nat) (pass : Bool) (s : State) : Host.Outcome State Fault Refusal :=
  let c := s.coreSt core
  if !c.testing then .next s
  else if !(s.residents core).isEmpty then .next (s.dueAll (s.unhaltedOn core ++ [.dressingResult core pass]))
  else if pass then
    let s1 := s.modCore core fun c => { c with testing := false, dress := c.dress + 1 }
    .next ((s1.awaiting core).foldl (fun s k => s.confirm core c.scanFrom k) s1).dispatch
  else
    let s0 := s.emptyCore core
    if s0.emptied core then
      let s1 := (s0.modCore core fun c => { c with testing := false }).fence core
      .next ((s1.awaiting core).foldl (fun s k => s.suspect core k) s1).dispatch
    else .next (s0.due (.dressingResult core pass))

end Sys2Proof.Machine
end

