-- ==== Sys2Proof/Machine/Dispatch.lean ====
section
/-! DEFINITION. What each instruction does: one arm for each constructor of `Instr`, each a direct call of its meaning. -/

namespace Sys2Proof.Machine

/-- The effect of an instruction, or of a step of another agent. -/
def exec (i : Instr) (s : State) : Host.Outcome State Fault Refusal :=
  match i with
  | .dzwRead m => Sys2Proof.Machine.execDzwRead m s
  | .dzwWrite m => Sys2Proof.Machine.execDzwWrite m s
  | .dzwAtomicAdd m => Sys2Proof.Machine.execDzwAtomicAdd m s
  | .dzwCas m => Sys2Proof.Machine.execDzwCas m s
  | .dzwCompletion m => Sys2Proof.Machine.execDzwCompletion m s
  | .malformedMessage m => Sys2Proof.Machine.execMalformedMessage m s
  | .postWord m => Sys2Proof.Machine.execPostWord m s
  | .dzwAcknowledgement peer seqs => Sys2Proof.Machine.execDzwAcknowledgement peer seqs s
  | .retransmission peer seq => Sys2Proof.Machine.execRetransmission peer seq s
  | .recoveryWindowExpiry peer seq => Sys2Proof.Machine.execRecoveryWindowExpiry peer seq s
  | .pauseFrame port classes => Sys2Proof.Machine.execPauseFrame port classes s
  | .linkStateChange port up => Sys2Proof.Machine.execLinkStateChange port up s
  | .claim m => Sys2Proof.Machine.execClaim m s
  | .renew m => Sys2Proof.Machine.execRenew m s
  | .releaseOwnership m => Sys2Proof.Machine.execReleaseOwnership m s
  | .nameSuccessor m => Sys2Proof.Machine.execNameSuccessor m s
  | .createContext m => Sys2Proof.Machine.execCreateContext m s
  | .resetContext m => Sys2Proof.Machine.execResetContext m s
  | .resumeContext m => Sys2Proof.Machine.execResumeContext m s
  | .haltContext m => Sys2Proof.Machine.execHaltContext m s
  | .resumeGroup m => Sys2Proof.Machine.execResumeGroup m s
  | .setShare m => Sys2Proof.Machine.execSetShare m s
  | .setWindow m => Sys2Proof.Machine.execSetWindow m s
  | .admitHost m => Sys2Proof.Machine.execAdmitHost m s
  | .setQueue m => Sys2Proof.Machine.execSetQueue m s
  | .setRegion m => Sys2Proof.Machine.execSetRegion m s
  | .setPeer m => Sys2Proof.Machine.execSetPeer m s
  | .shootdown m => Sys2Proof.Machine.execShootdown m s
  | .writePhysical m => Sys2Proof.Machine.execWritePhysical m s
  | .readPhysical m => Sys2Proof.Machine.execReadPhysical m s
  | .loadObject m => Sys2Proof.Machine.execLoadObject m s
  | .pageReply m => Sys2Proof.Machine.execPageReply m s
  | .setWatchdog m => Sys2Proof.Machine.execSetWatchdog m s
  | .setRecoveryWindow m => Sys2Proof.Machine.execSetRecoveryWindow m s
  | .setPort m => Sys2Proof.Machine.execSetPort m s
  | .updateFirmware m => Sys2Proof.Machine.execUpdateFirmware m s
  | .readState m => Sys2Proof.Machine.execReadState m s
  | .readViolations m => Sys2Proof.Machine.execReadViolations m s
  | .attest m => Sys2Proof.Machine.execAttest m s
  | .readEventLog m => Sys2Proof.Machine.execReadEventLog m s
  | .leaseLapse => Sys2Proof.Machine.execLeaseLapse s
  | .successorGraceExpiry => Sys2Proof.Machine.execSuccessorGraceExpiry s
  | .bringUp => Sys2Proof.Machine.execBringUp s
  | .clockChange mhz => Sys2Proof.Machine.execClockChange mhz s
  | .waybillTake ctx queue => Sys2Proof.Machine.execWaybillTake ctx queue s
  | .waybillReady launch => Sys2Proof.Machine.execWaybillReady launch s
  | .openLaunch launch => Sys2Proof.Machine.execOpenLaunch launch s
  | .crewPlacement launch core => Sys2Proof.Machine.execCrewPlacement launch core s
  | .preemptionHalt crew => Sys2Proof.Machine.execPreemptionHalt crew s
  | .shadowSwap crew => Sys2Proof.Machine.execShadowSwap crew s
  | .crewResume crew => Sys2Proof.Machine.execCrewResume crew s
  | .aggregatorBatchClose ctx => Sys2Proof.Machine.execAggregatorBatchClose ctx s
  | .tollgatePhaseCompletion tree => Sys2Proof.Machine.execTollgatePhaseCompletion tree s
  | .groupCompletion group => Sys2Proof.Machine.execGroupCompletion group s
  | .launchCompletion launch => Sys2Proof.Machine.execLaunchCompletion launch s
  | .splitRotation group slotB => Sys2Proof.Machine.execSplitRotation group slotB s
  | .swapOut group => Sys2Proof.Machine.execSwapOut group s
  | .swapIn group => Sys2Proof.Machine.execSwapIn group s
  | .loadDataArrival group tag => Sys2Proof.Machine.execLoadDataArrival group tag s
  | .countHalving => Sys2Proof.Machine.execCountHalving s
  | .droverMove line => Sys2Proof.Machine.execDroverMove line s
  | .replicaInvalidation line reticle core => Sys2Proof.Machine.execReplicaInvalidation line reticle core s
  | .waferCacheEviction lines => Sys2Proof.Machine.execWaferCacheEviction lines s
  | .drainDemand core ctx line group => Sys2Proof.Machine.execDrainDemand core ctx line group s
  | .drainAcknowledgement core ctx line group => Sys2Proof.Machine.execDrainAcknowledgement core ctx line group s
  | .recall line group => Sys2Proof.Machine.execRecall line group s
  | .bankRetirement bank => Sys2Proof.Machine.execBankRetirement bank s
  | .shareRequest core ctx line crest => Sys2Proof.Machine.execShareRequest core ctx line crest s
  | .shareGrant core ctx line share => Sys2Proof.Machine.execShareGrant core ctx line share s
  | .weirRun core ctx line isFloat adds ack => Sys2Proof.Machine.execWeirRun core ctx line isFloat adds ack s
  | .spillAcknowledgement core ctx line => Sys2Proof.Machine.execSpillAcknowledgement core ctx line s
  | .sluice core ctx line => Sys2Proof.Machine.execSluice core ctx line s
  | .returnNotice core ctx line => Sys2Proof.Machine.execReturnNotice core ctx line s
  | .resumeNotice core ctx line => Sys2Proof.Machine.execResumeNotice core ctx line s
  | .drainRequest core ctx line group => Sys2Proof.Machine.execDrainRequest core ctx line group s
  | .copyCommandExecute core => Sys2Proof.Machine.execCopyCommandExecute core s
  | .matrixOperationExecute core => Sys2Proof.Machine.execMatrixOperationExecute core s
  | .monitorWake group reason => Sys2Proof.Machine.execMonitorWake group reason s
  | .mwaitTimeout group => Sys2Proof.Machine.execMwaitTimeout group s
  | .remoteWatchPoll group => Sys2Proof.Machine.execRemoteWatchPoll group s
  | .eventAckTimeout ctx => Sys2Proof.Machine.execEventAckTimeout ctx s
  | .watchdogExpiry ctx => Sys2Proof.Machine.execWatchdogExpiry ctx s
  | .parkLimitExpiry ctx => Sys2Proof.Machine.execParkLimitExpiry ctx s
  | .faultEventPost ctx => Sys2Proof.Machine.execFaultEventPost ctx s
  | .idempotentRestart group => Sys2Proof.Machine.execIdempotentRestart group s
  | .debugHaltSettled group => Sys2Proof.Machine.execDebugHaltSettled group s
  | .quiesceTokenReturn ctx => Sys2Proof.Machine.execQuiesceTokenReturn ctx s
  | .dressingPass core => Sys2Proof.Machine.execDressingPass core s
  | .dressingResult core pass => Sys2Proof.Machine.execDressingResult core pass s
  | .illegalEncoding word => Sys2Proof.Machine.execIllegalEncoding word s
  | .instructionFetchFault cause halfword fetched => Sys2Proof.Machine.execInstructionFetchFault cause halfword fetched s
  | .shortMov d b => Sys2Proof.Machine.execShortMov d b s
  | .shortAddI32 d b => Sys2Proof.Machine.execShortAddI32 d b s
  | .shortSubI32 d b => Sys2Proof.Machine.execShortSubI32 d b s
  | .shortAnd d b => Sys2Proof.Machine.execShortAnd d b s
  | .shortOr d b => Sys2Proof.Machine.execShortOr d b s
  | .shortXor d b => Sys2Proof.Machine.execShortXor d b s
  | .shortShl d b => Sys2Proof.Machine.execShortShl d b s
  | .shortShrN32 d b => Sys2Proof.Machine.execShortShrN32 d b s
  | .shortShrS32 d b => Sys2Proof.Machine.execShortShrS32 d b s
  | .movi d imm => Sys2Proof.Machine.execMovi d imm s
  | .shortAddi d imm => Sys2Proof.Machine.execShortAddi d imm s
  | .shortShli d imm => Sys2Proof.Machine.execShortShli d imm s
  | .shortFaddF32 d b => Sys2Proof.Machine.execShortFaddF32 d b s
  | .shortFmulF32 d b => Sys2Proof.Machine.execShortFmulF32 d b s
  | .shortFmaxF32 d b => Sys2Proof.Machine.execShortFmaxF32 d b s
  | .shortFminF32 d b => Sys2Proof.Machine.execShortFminF32 d b s
  | .addI32 g d a b x y => Sys2Proof.Machine.execAddI32 g d a b x y s
  | .subI32 g d a b x y => Sys2Proof.Machine.execSubI32 g d a b x y s
  | .mulI32 g d a b x y => Sys2Proof.Machine.execMulI32 g d a b x y s
  | .mulhS32 g d a b x y => Sys2Proof.Machine.execMulhS32 g d a b x y s
  | .mulhN32 g d a b x y => Sys2Proof.Machine.execMulhN32 g d a b x y s
  | .minS32 g d a b x y => Sys2Proof.Machine.execMinS32 g d a b x y s
  | .maxS32 g d a b x y => Sys2Proof.Machine.execMaxS32 g d a b x y s
  | .madI32 g d a b x y => Sys2Proof.Machine.execMadI32 g d a b x y s
  | .and g d a b x y => Sys2Proof.Machine.execAnd g d a b x y s
  | .or g d a b x y => Sys2Proof.Machine.execOr g d a b x y s
  | .xor g d a b x y => Sys2Proof.Machine.execXor g d a b x y s
  | .shl g d a b x y => Sys2Proof.Machine.execShl g d a b x y s
  | .shrN32 g d a b x y => Sys2Proof.Machine.execShrN32 g d a b x y s
  | .shrS32 g d a b x y => Sys2Proof.Machine.execShrS32 g d a b x y s
  | .minN32 g d a b x y => Sys2Proof.Machine.execMinN32 g d a b x y s
  | .maxN32 g d a b x y => Sys2Proof.Machine.execMaxN32 g d a b x y s
  | .addI32Ic g d a b x => Sys2Proof.Machine.execAddI32Ic g d a b x s
  | .subI32Ic g d a b x => Sys2Proof.Machine.execSubI32Ic g d a b x s
  | .mulI32Ic g d a b x => Sys2Proof.Machine.execMulI32Ic g d a b x s
  | .andIc g d a b x => Sys2Proof.Machine.execAndIc g d a b x s
  | .orIc g d a b x => Sys2Proof.Machine.execOrIc g d a b x s
  | .shlIc g d a b x => Sys2Proof.Machine.execShlIc g d a b x s
  | .madI32Ic g d a b x => Sys2Proof.Machine.execMadI32Ic g d a b x s
  | .addw g d a b x => Sys2Proof.Machine.execAddw g d a b x s
  | .faddF32 g d a b x y => Sys2Proof.Machine.execFaddF32 g d a b x y s
  | .fsubF32 g d a b x y => Sys2Proof.Machine.execFsubF32 g d a b x y s
  | .fmulF32 g d a b x y => Sys2Proof.Machine.execFmulF32 g d a b x y s
  | .ffmaF32 g d a b x y => Sys2Proof.Machine.execFfmaF32 g d a b x y s
  | .ffmsF32 g d a b x y => Sys2Proof.Machine.execFfmsF32 g d a b x y s
  | .fminF32 g d a b x y => Sys2Proof.Machine.execFminF32 g d a b x y s
  | .fmaxF32 g d a b x y => Sys2Proof.Machine.execFmaxF32 g d a b x y s
  | .packBf16x2 g d a b x y => Sys2Proof.Machine.execPackBf16x2 g d a b x y s
  | .faddF32Fb g d a b x => Sys2Proof.Machine.execFaddF32Fb g d a b x s
  | .fsubF32Fb g d a b x => Sys2Proof.Machine.execFsubF32Fb g d a b x s
  | .fmulF32Fb g d a b x => Sys2Proof.Machine.execFmulF32Fb g d a b x s
  | .ffmaF32Fb g d a b x => Sys2Proof.Machine.execFfmaF32Fb g d a b x s
  | .ffmsF32Fb g d a b x => Sys2Proof.Machine.execFfmsF32Fb g d a b x s
  | .fminF32Fb g d a b x => Sys2Proof.Machine.execFminF32Fb g d a b x s
  | .fmaxF32Fb g d a b x => Sys2Proof.Machine.execFmaxF32Fb g d a b x s
  | .fscaleF32 g d a b x => Sys2Proof.Machine.execFscaleF32 g d a b x s
  | .mov g d a x => Sys2Proof.Machine.execMov g d a x s
  | .not g d a x => Sys2Proof.Machine.execNot g d a x s
  | .negI32 g d a x => Sys2Proof.Machine.execNegI32 g d a x s
  | .absI32 g d a x => Sys2Proof.Machine.execAbsI32 g d a x s
  | .popc g d a x => Sys2Proof.Machine.execPopc g d a x s
  | .clz g d a x => Sys2Proof.Machine.execClz g d a x s
  | .brev g d a x => Sys2Proof.Machine.execBrev g d a x s
  | .sext8 g d a x => Sys2Proof.Machine.execSext8 g d a x s
  | .sext16 g d a x => Sys2Proof.Machine.execSext16 g d a x s
  | .fabs g d a x => Sys2Proof.Machine.execFabs g d a x s
  | .fneg g d a x => Sys2Proof.Machine.execFneg g d a x s
  | .frcp g d a x => Sys2Proof.Machine.execFrcp g d a x s
  | .frsq g d a x => Sys2Proof.Machine.execFrsq g d a x s
  | .fsqrt g d a x => Sys2Proof.Machine.execFsqrt g d a x s
  | .fexp2 g d a x => Sys2Proof.Machine.execFexp2 g d a x s
  | .flog2 g d a x => Sys2Proof.Machine.execFlog2 g d a x s
  | .fsin g d a x => Sys2Proof.Machine.execFsin g d a x s
  | .fcos g d a x => Sys2Proof.Machine.execFcos g d a x s
  | .ftanh g d a x => Sys2Proof.Machine.execFtanh g d a x s
  | .ffloor g d a x => Sys2Proof.Machine.execFfloor g d a x s
  | .fceil g d a x => Sys2Proof.Machine.execFceil g d a x s
  | .ftrunc g d a x => Sys2Proof.Machine.execFtrunc g d a x s
  | .frint g d a x => Sys2Proof.Machine.execFrint g d a x s
  | .ffract g d a x => Sys2Proof.Machine.execFfract g d a x s
  | .cvtF32S32 g d a x => Sys2Proof.Machine.execCvtF32S32 g d a x s
  | .cvtF32N32 g d a x => Sys2Proof.Machine.execCvtF32N32 g d a x s
  | .cvtS32F32Rz g d a x => Sys2Proof.Machine.execCvtS32F32Rz g d a x s
  | .cvtS32F32Rn g d a x => Sys2Proof.Machine.execCvtS32F32Rn g d a x s
  | .cvtN32F32Rz g d a x => Sys2Proof.Machine.execCvtN32F32Rz g d a x s
  | .cvtBf16F32 g d a x => Sys2Proof.Machine.execCvtBf16F32 g d a x s
  | .cvtF32Bf16Lo g d a x => Sys2Proof.Machine.execCvtF32Bf16Lo g d a x s
  | .cvtF32Bf16Hi g d a x => Sys2Proof.Machine.execCvtF32Bf16Hi g d a x s
  | .cvtF16F32 g d a x => Sys2Proof.Machine.execCvtF16F32 g d a x s
  | .cvtF32F16Lo g d a x => Sys2Proof.Machine.execCvtF32F16Lo g d a x s
  | .cvtF32F16Hi g d a x => Sys2Proof.Machine.execCvtF32F16Hi g d a x s
  | .cvtE4m3F32 g d a x => Sys2Proof.Machine.execCvtE4m3F32 g d a x s
  | .cvtF32E4m3 g d a x => Sys2Proof.Machine.execCvtF32E4m3 g d a x s
  | .cvtE5m2F32 g d a x => Sys2Proof.Machine.execCvtE5m2F32 g d a x s
  | .cvtF32E5m2 g d a x => Sys2Proof.Machine.execCvtF32E5m2 g d a x s
  | .fsat g d a x => Sys2Proof.Machine.execFsat g d a x s
  | .cmps g p q a b t c => Sys2Proof.Machine.execCmps g p q a b t c s
  | .cmpn g p q a b t c => Sys2Proof.Machine.execCmpn g p q a b t c s
  | .cmpf g p q a b t c => Sys2Proof.Machine.execCmpf g p q a b t c s
  | .cmpq g p q a b t c => Sys2Proof.Machine.execCmpq g p q a b t c s
  | .addi g d a imm => Sys2Proof.Machine.execAddi g d a imm s
  | .andi g d a imm => Sys2Proof.Machine.execAndi g d a imm s
  | .ori g d a imm => Sys2Proof.Machine.execOri g d a imm s
  | .xori g d a imm => Sys2Proof.Machine.execXori g d a imm s
  | .shli g d a imm => Sys2Proof.Machine.execShli g d a imm s
  | .shriN32 g d a imm => Sys2Proof.Machine.execShriN32 g d a imm s
  | .shriS32 g d a imm => Sys2Proof.Machine.execShriS32 g d a imm s
  | .muli g d a imm => Sys2Proof.Machine.execMuli g d a imm s
  | .addSr g d a b => Sys2Proof.Machine.execAddSr g d a b s
  | .subSr g d a b => Sys2Proof.Machine.execSubSr g d a b s
  | .mulSr g d a b => Sys2Proof.Machine.execMulSr g d a b s
  | .mulhSSr g d a b => Sys2Proof.Machine.execMulhSSr g d a b s
  | .mulhNSr g d a b => Sys2Proof.Machine.execMulhNSr g d a b s
  | .andSr g d a b => Sys2Proof.Machine.execAndSr g d a b s
  | .orSr g d a b => Sys2Proof.Machine.execOrSr g d a b s
  | .xorSr g d a b => Sys2Proof.Machine.execXorSr g d a b s
  | .andnSr g d a b => Sys2Proof.Machine.execAndnSr g d a b s
  | .shlSr g d a b => Sys2Proof.Machine.execShlSr g d a b s
  | .shrNSr g d a b => Sys2Proof.Machine.execShrNSr g d a b s
  | .shrSSr g d a b => Sys2Proof.Machine.execShrSSr g d a b s
  | .minSSr g d a b => Sys2Proof.Machine.execMinSSr g d a b s
  | .maxSSr g d a b => Sys2Proof.Machine.execMaxSSr g d a b s
  | .minNSr g d a b => Sys2Proof.Machine.execMinNSr g d a b s
  | .maxNSr g d a b => Sys2Proof.Machine.execMaxNSr g d a b s
  | .divSSr g d a b => Sys2Proof.Machine.execDivSSr g d a b s
  | .divNSr g d a b => Sys2Proof.Machine.execDivNSr g d a b s
  | .remSSr g d a b => Sys2Proof.Machine.execRemSSr g d a b s
  | .remNSr g d a b => Sys2Proof.Machine.execRemNSr g d a b s
  | .clzSr g d a => Sys2Proof.Machine.execClzSr g d a s
  | .popcSr g d a => Sys2Proof.Machine.execPopcSr g d a s
  | .movSr g d a => Sys2Proof.Machine.execMovSr g d a s
  | .bfx g d a b => Sys2Proof.Machine.execBfx g d a b s
  | .addiSi g d a imm => Sys2Proof.Machine.execAddiSi g d a imm s
  | .andiSi g d a imm => Sys2Proof.Machine.execAndiSi g d a imm s
  | .oriSi g d a imm => Sys2Proof.Machine.execOriSi g d a imm s
  | .xoriSi g d a imm => Sys2Proof.Machine.execXoriSi g d a imm s
  | .shliSi g d a imm => Sys2Proof.Machine.execShliSi g d a imm s
  | .shriNSi g d a imm => Sys2Proof.Machine.execShriNSi g d a imm s
  | .shriSSi g d a imm => Sys2Proof.Machine.execShriSSi g d a imm s
  | .muliSi g d a imm => Sys2Proof.Machine.execMuliSi g d a imm s
  | .li g d imm => Sys2Proof.Machine.execLi g d imm s
  | .lis g d imm => Sys2Proof.Machine.execLis g d imm s
  | .addis g d imm => Sys2Proof.Machine.execAddis g d imm s
  | .bcast g d a => Sys2Proof.Machine.execBcast g d a s
  | .rdlane g d a b x => Sys2Proof.Machine.execRdlane g d a b x s
  | .wrlane g d a b => Sys2Proof.Machine.execWrlane g d a b s
  | .shfl g d a b x y => Sys2Proof.Machine.execShfl g d a b x y s
  | .shflX g d a b x y => Sys2Proof.Machine.execShflX g d a b x y s
  | .ballot g d a => Sys2Proof.Machine.execBallot g d a s
  | .redi g d a x => Sys2Proof.Machine.execRedi g d a x s
  | .redf g d a x => Sys2Proof.Machine.execRedf g d a x s
  | .sel g d a b x y sc => Sys2Proof.Machine.execSel g d a b x y sc s
  | .braP g o => Sys2Proof.Machine.execBraP g o s
  | .braC g o => Sys2Proof.Machine.execBraC g o s
  | .brx g o j => Sys2Proof.Machine.execBrx g o j s
  | .join => Sys2Proof.Machine.execJoin s
  | .jmpr g a => Sys2Proof.Machine.execJmpr g a s
  | .callr g a => Sys2Proof.Machine.execCallr g a s
  | .ret g => Sys2Proof.Machine.execRet g s
  | .brxr g a b => Sys2Proof.Machine.execBrxr g a b s
  | .exit g sc => Sys2Proof.Machine.execExit g sc s
  | .trap g imm => Sys2Proof.Machine.execTrap g imm s
  | .yield g imm => Sys2Proof.Machine.execYield g imm s
  | .call g o => Sys2Proof.Machine.execCall g o s
  | .ldgN8 g p d o sc r => Sys2Proof.Machine.execLdgN8 g p d o sc r s
  | .ldgS8 g p d o sc r => Sys2Proof.Machine.execLdgS8 g p d o sc r s
  | .ldgN16 g p d o sc r => Sys2Proof.Machine.execLdgN16 g p d o sc r s
  | .ldgS16 g p d o sc r => Sys2Proof.Machine.execLdgS16 g p d o sc r s
  | .ldgB32 g p d o sc r => Sys2Proof.Machine.execLdgB32 g p d o sc r s
  | .ldgB64 g p d o sc r => Sys2Proof.Machine.execLdgB64 g p d o sc r s
  | .ldgB128 g p d o sc r => Sys2Proof.Machine.execLdgB128 g p d o sc r s
  | .stgB8 g p d o sc r => Sys2Proof.Machine.execStgB8 g p d o sc r s
  | .stgB16 g p d o sc r => Sys2Proof.Machine.execStgB16 g p d o sc r s
  | .stgB32 g p d o sc r => Sys2Proof.Machine.execStgB32 g p d o sc r s
  | .stgB64 g p d o sc r => Sys2Proof.Machine.execStgB64 g p d o sc r s
  | .stgB128 g p d o sc r => Sys2Proof.Machine.execStgB128 g p d o sc r s
  | .ldsN8 g d a imm => Sys2Proof.Machine.execLdsN8 g d a imm s
  | .ldsS8 g d a imm => Sys2Proof.Machine.execLdsS8 g d a imm s
  | .ldsN16 g d a imm => Sys2Proof.Machine.execLdsN16 g d a imm s
  | .ldsS16 g d a imm => Sys2Proof.Machine.execLdsS16 g d a imm s
  | .ldsB32 g d a imm => Sys2Proof.Machine.execLdsB32 g d a imm s
  | .ldsB64 g d a imm => Sys2Proof.Machine.execLdsB64 g d a imm s
  | .ldsB128 g d a imm => Sys2Proof.Machine.execLdsB128 g d a imm s
  | .stsB8 g d a imm => Sys2Proof.Machine.execStsB8 g d a imm s
  | .stsB16 g d a imm => Sys2Proof.Machine.execStsB16 g d a imm s
  | .stsB32 g d a imm => Sys2Proof.Machine.execStsB32 g d a imm s
  | .stsB64 g d a imm => Sys2Proof.Machine.execStsB64 g d a imm s
  | .stsB128 g d a imm => Sys2Proof.Machine.execStsB128 g d a imm s
  | .ldpB32 g d a imm => Sys2Proof.Machine.execLdpB32 g d a imm s
  | .ldpB64 g d a imm => Sys2Proof.Machine.execLdpB64 g d a imm s
  | .ldpB128 g d a imm => Sys2Proof.Machine.execLdpB128 g d a imm s
  | .stpB32 g d a imm => Sys2Proof.Machine.execStpB32 g d a imm s
  | .stpB64 g d a imm => Sys2Proof.Machine.execStpB64 g d a imm s
  | .stpB128 g d a imm => Sys2Proof.Machine.execStpB128 g d a imm s
  | .atomAdd g d a o sc n w => Sys2Proof.Machine.execAtomAdd g d a o sc n w s
  | .atomMinS g d a o sc n w => Sys2Proof.Machine.execAtomMinS g d a o sc n w s
  | .atomMaxS g d a o sc n w => Sys2Proof.Machine.execAtomMaxS g d a o sc n w s
  | .atomMinN g d a o sc n w => Sys2Proof.Machine.execAtomMinN g d a o sc n w s
  | .atomMaxN g d a o sc n w => Sys2Proof.Machine.execAtomMaxN g d a o sc n w s
  | .atomAnd g d a o sc n w => Sys2Proof.Machine.execAtomAnd g d a o sc n w s
  | .atomOr g d a o sc n w => Sys2Proof.Machine.execAtomOr g d a o sc n w s
  | .atomXor g d a o sc n w => Sys2Proof.Machine.execAtomXor g d a o sc n w s
  | .atomXchg g d a o sc n w => Sys2Proof.Machine.execAtomXchg g d a o sc n w s
  | .atomCas g d a o sc n w => Sys2Proof.Machine.execAtomCas g d a o sc n w s
  | .atomFaddF32 g d a o sc n => Sys2Proof.Machine.execAtomFaddF32 g d a o sc n s
  | .atomFminF32 g d a o sc n => Sys2Proof.Machine.execAtomFminF32 g d a o sc n s
  | .atomFmaxF32 g d a o sc n => Sys2Proof.Machine.execAtomFmaxF32 g d a o sc n s
  | .atomLd g d a o sc w => Sys2Proof.Machine.execAtomLd g d a o sc w s
  | .atomSt g d a o sc n w => Sys2Proof.Machine.execAtomSt g d a o sc n w s
  | .atomsAdd g d a o sc n w => Sys2Proof.Machine.execAtomsAdd g d a o sc n w s
  | .atomsMinS g d a o sc n w => Sys2Proof.Machine.execAtomsMinS g d a o sc n w s
  | .atomsMaxS g d a o sc n w => Sys2Proof.Machine.execAtomsMaxS g d a o sc n w s
  | .atomsMinN g d a o sc n w => Sys2Proof.Machine.execAtomsMinN g d a o sc n w s
  | .atomsMaxN g d a o sc n w => Sys2Proof.Machine.execAtomsMaxN g d a o sc n w s
  | .atomsAnd g d a o sc n w => Sys2Proof.Machine.execAtomsAnd g d a o sc n w s
  | .atomsOr g d a o sc n w => Sys2Proof.Machine.execAtomsOr g d a o sc n w s
  | .atomsXor g d a o sc n w => Sys2Proof.Machine.execAtomsXor g d a o sc n w s
  | .atomsXchg g d a o sc n w => Sys2Proof.Machine.execAtomsXchg g d a o sc n w s
  | .atomsCas g d a o sc n w => Sys2Proof.Machine.execAtomsCas g d a o sc n w s
  | .atomsFaddF32 g d a o sc n => Sys2Proof.Machine.execAtomsFaddF32 g d a o sc n s
  | .atomsFminF32 g d a o sc n => Sys2Proof.Machine.execAtomsFminF32 g d a o sc n s
  | .atomsFmaxF32 g d a o sc n => Sys2Proof.Machine.execAtomsFmaxF32 g d a o sc n s
  | .atomsLd g d a o sc w => Sys2Proof.Machine.execAtomsLd g d a o sc w s
  | .atomsSt g d a o sc n w => Sys2Proof.Machine.execAtomsSt g d a o sc n w s
  | .fence g a b o sc k => Sys2Proof.Machine.execFence g a b o sc k s
  | .marm g a => Sys2Proof.Machine.execMarm g a s
  | .mwait g a b => Sys2Proof.Machine.execMwait g a b s
  | .bsealCopy g a => Sys2Proof.Machine.execBsealCopy g a s
  | .bsealMat g a => Sys2Proof.Machine.execBsealMat g a s
  | .bwaitCopy g a => Sys2Proof.Machine.execBwaitCopy g a s
  | .bwaitMat g a => Sys2Proof.Machine.execBwaitMat g a s
  | .bar g b k => Sys2Proof.Machine.execBar g b k s
  | .barLanes g a => Sys2Proof.Machine.execBarLanes g a s
  | .tgateArriveWait g => Sys2Proof.Machine.execTgateArriveWait g s
  | .tgateArrive g => Sys2Proof.Machine.execTgateArrive g s
  | .tgateWait g => Sys2Proof.Machine.execTgateWait g s
  | .wdrain g a b sc => Sys2Proof.Machine.execWdrain g a b sc s
  | .qpush g q d => Sys2Proof.Machine.execQpush g q d s
  | .qpop g q d => Sys2Proof.Machine.execQpop g q d s
  | .qtpush g q d c => Sys2Proof.Machine.execQtpush g q d c s
  | .qtpop g q d c => Sys2Proof.Machine.execQtpop g q d c s
  | .qinit g q d imm => Sys2Proof.Machine.execQinit g q d imm s
  | .qstat g q d => Sys2Proof.Machine.execQstat g q d s
  | .xcpCopy g a b e r => Sys2Proof.Machine.execXcpCopy g a b e r s
  | .xcpStrided g a b e r => Sys2Proof.Machine.execXcpStrided g a b e r s
  | .xcpSwizzle g a b e r => Sys2Proof.Machine.execXcpSwizzle g a b e r s
  | .xcpCbexp g a b e r => Sys2Proof.Machine.execXcpCbexp g a b e r s
  | .xcpTxb4c g a b e r => Sys2Proof.Machine.execXcpTxb4c g a b e r s
  | .xcpTxb4x g a b e r => Sys2Proof.Machine.execXcpTxb4x g a b e r s
  | .xcpSgnpk g a b e r => Sys2Proof.Machine.execXcpSgnpk g a b e r s
  | .xcpSgnun g a b e r => Sys2Proof.Machine.execXcpSgnun g a b e r s
  | .xcpShenc g a b e r => Sys2Proof.Machine.execXcpShenc g a b e r s
  | .xcpShdec g a b e r => Sys2Proof.Machine.execXcpShdec g a b e r s
  | .xcpGather g a b e r => Sys2Proof.Machine.execXcpGather g a b e r s
  | .xcpFill g a b e r => Sys2Proof.Machine.execXcpFill g a b e r s
  | .mma g z a b r => Sys2Proof.Machine.execMma g z a b r s
  | .mmaBt g z a b r => Sys2Proof.Machine.execMmaBt g z a b r s
  | .mmaRs g z a b r => Sys2Proof.Machine.execMmaRs g z a b r s
  | .mdf g z a b r => Sys2Proof.Machine.execMdf g z a b r s
  | .mdfSp g z a b r => Sys2Proof.Machine.execMdfSp g z a b r s
  | .msmx g z a b => Sys2Proof.Machine.execMsmx g z a b s
  | .mzero g z => Sys2Proof.Machine.execMzero g z s
  | .mld g z a => Sys2Proof.Machine.execMld g z a s
  | .mst g z a r => Sys2Proof.Machine.execMst g z a r s
  | .mside g z a => Sys2Proof.Machine.execMside g z a s
  | .gsr g d imm => Sys2Proof.Machine.execGsr g d imm s
  | .ssrGstat g b => Sys2Proof.Machine.execSsrGstat g b s
  | .ssrGc g b => Sys2Proof.Machine.execSsrGc g b s
  | .ssrFm g b => Sys2Proof.Machine.execSsrFm g b s
  | .ssrMst g b => Sys2Proof.Machine.execSsrMst g b s
  | .wid g d k => Sys2Proof.Machine.execWid g d k s
  | .topo g d k => Sys2Proof.Machine.execTopo g d k s
  | .chk g p a => Sys2Proof.Machine.execChk g p a s
  | .idem g => Sys2Proof.Machine.execIdem g s
  | .idemx g => Sys2Proof.Machine.execIdemx g s
  | .brk g h l => Sys2Proof.Machine.execBrk g h l s
  | .launch g d a b => Sys2Proof.Machine.execLaunch g d a b s
  | .evpost g a => Sys2Proof.Machine.execEvpost g a s
  | .ldw g d a b => Sys2Proof.Machine.execLdw g d a b s
  | .lodge g d a => Sys2Proof.Machine.execLodge g d a s
  | .pfg g a => Sys2Proof.Machine.execPfg g a s
  | .lq g d a b => Sys2Proof.Machine.execLq g d a b s

end Sys2Proof.Machine
end

