-- ==== Sys2Proof/Machine/Turns.lean ====
section
/-! DEFINITION. What moves next and what it does: timers that are due, the turns of the agents, and the fetch of the split that a core
issues (R15, R16, R133, R195, R197; log 1, log 2). -/

namespace Sys2Proof.Machine

/-! ## Time (R133, R182, R292; log 2) -/

/-- A step takes some time: nanoseconds and mesh cycles that the manual does not fix. -/
def State.advance (s : State) : State :=
  State.trackParks { s with clock := s.clock + BitVec.ofNat 64 (Config.stepNs s.tick), mesh := s.mesh + Config.meshCycles s.tick,
                            tick := s.tick + 1 }

/-- Events that come at a time, with their times. -/
def State.timers (s : State) : List (DWord × Instr) :=
  let sleepers := (s.groups.map fun x => (x.2.allSplits.filterMap Split.deadline).map fun d => (d, Instr.mwaitTimeout x.1)).flatten
  let contexts := (s.contexts.map fun x =>
    let c := x.2
    (if c.st = .running then
      (c.batches.head?.map fun b => (b.openedAt + BitVec.ofNat 64 batchWindow, Instr.aggregatorBatchClose x.1)).toList ++
      (if c.watchdog = 0 then [] else [(c.windowStart + BitVec.ofNat 64 c.watchdog, Instr.watchdogExpiry x.1)]) ++
      (if c.park = 0 then [] else (c.parkedSince.map fun t => (t + BitVec.ofNat 64 c.park, Instr.parkLimitExpiry x.1)).toList)
    else []) ++
    (if c.channelHalted || c.st == .resetting then []
     else (c.unacked.head?.map fun r => (r.sentAt + BitVec.ofNat 64 s.recoveryWindow, Instr.eventAckTimeout x.1)).toList)).flatten
  let ownership := (s.owner.map fun o => (o.lease, Instr.leaseLapse)).toList ++
    (s.successor.map fun x => (x.2, Instr.successorGraceExpiry)).toList
  let lost := s.outstanding.filterMap fun t =>
    (s.link t.msg.peer).recovering.map fun r =>
      (r + BitVec.ofNat 64 s.recoveryWindow, Instr.recoveryWindowExpiry t.msg.peer t.msg.seq.toNat)
  sleepers ++ contexts ++ ownership ++ lost

/-- The earliest timer. -/
def earliestTimer (l : List (DWord × Instr)) : Option (DWord × Instr) :=
  l.foldl (fun b x =>
    match b with
    | none => some x
    | some y => if x.1.ult y.1 then some x else b) none

/-- The event whose time has come: bring-up after device reset, a halving instant, or the earliest timer. -/
def State.expired (s : State) : Option Instr :=
  if !s.broughtUp then some .bringUp
  else if s.halvings < s.mesh / halvingCycles then some .countHalving
  else
    match earliestTimer s.timers with
    | some (t, i) => if s.clock.ult t then none else some i
    | none => none

/-! ## Turns (log 1) -/

/-- What moves next. -/
inductive Move where
  /-- a step of another agent -/
  | run (s : State) (i : Instr)
  /-- a core issues a split -/
  | issue (core : Nat) (e : RingEntry)
  /-- a core packs a split into the issue slot that it has filled -/
  | pack (core : Nat) (e : RingEntry)
  /-- a core's cycle ends -/
  | cycle (core : Nat)
  /-- time passes -/
  | pass

/-- The cores with a resident crew in rising order, those after the one that moved last first. -/
def State.coreOrder (s : State) : List Nat :=
  let l := ((s.crews.filter fun c => c.2.res == .resident).foldl (fun (t : Tbl Unit) c => tblSet t c.2.core ()) []).map fun x => x.1
  (l.filter fun c => decide (s.lastCore < c)) ++ l.filter fun c => decide (c ≤ s.lastCore)

/-- What a core does: it issues its next split, or its cycle ends where it has issued in it, a group of it stalls, or a group that
it has swapped out can come back. -/
def State.coreMove (s : State) (core : Nat) : Option Move :=
  match s.nextSplit core with
  | some e => some (.issue core e)
  | none =>
    if (s.coreSt core).issued ≠ 0 ∨ (s.stalled core).isEmpty = false ∨ (s.wakeable core).isEmpty = false then some (.cycle core) else none

/-- Whether an instruction is executed by a split; the others are steps of the other agents. -/
def bySplit (i : Instr) : Bool :=
  match i with
  | .illegalEncoding _ => true
  | .instructionFetchFault _ _ _ => true
  | i => (encodeFields i).isSome

/-- The first due step of another agent. -/
def State.dueMove (s : State) : Option Move :=
  match s.agenda.dropWhile bySplit with
  | i :: r => some (.run { s with agenda := r } i)
  | [] => none

/-- The first message that has arrived. -/
def State.messageMove (s : State) : Option Move :=
  match s.inbox with
  | m :: r => some (.run { s with inbox := r } (classify m))
  | [] => none

/-- The first core that has something to do. -/
def State.coresMove (s : State) : Option Move := s.coreOrder.findSome? fun c => s.coreMove c

/-- The model's own order where no turn is laid down: due steps, messages and cores take turns; where none of them can move, the
earliest timer comes, or time passes. -/
def State.defaultMove (s : State) : Move :=
  match s.expired with
  | some i => .run s i
  | none =>
    let pick : Option Move :=
      match s.tick % 3 with
      | 0 => s.dueMove <|> s.messageMove <|> s.coresMove
      | 1 => s.messageMove <|> s.coresMove <|> s.dueMove
      | _ => s.coresMove <|> s.dueMove <|> s.messageMove
    match pick with
    | some m => m
    | none =>
      match earliestTimer s.timers with
      | some (_, i) => .run s i
      | none => .pass

/-- Events that arise outside the agenda: of the links and the clock, and choices of the dispatcher, the Drover, the innkeeper and
dressing. -/
def mayArise : Instr → Bool
  | .dzwAcknowledgement _ _ => true
  | .retransmission _ _ => true
  | .pauseFrame _ _ => true
  | .linkStateChange _ _ => true
  | .clockChange _ => true
  | .crewPlacement _ _ => true
  | .waferCacheEviction _ => true
  | .bankRetirement _ => true
  | .dressingPass _ => true
  | .dressingResult _ _ => true
  | _ => false

/-- The way of a message between a core and the anchor of a weir line: core, context, line, and whether it goes to the anchor. -/
def weirWay : Instr → Option (Nat × Nat × Nat × Bool)
  | .shareRequest k c l _ => some (k, c, l, true)
  | .weirRun k c l _ _ _ => some (k, c, l, true)
  | .returnNotice k c l => some (k, c, l, true)
  | .resumeNotice k c l => some (k, c, l, true)
  | .shareGrant k c l _ => some (k, c, l, false)
  | .spillAcknowledgement k c l => some (k, c, l, false)
  | .sluice k c l => some (k, c, l, false)
  | .drainRequest k c l _ => some (k, c, l, false)
  | _ => none

/-- Whether the i-th due step may come before those that stand before it: messages about one weir line between one core and its
anchor arrive in the order in which they were sent (R346). -/
def State.inTurn (s : State) (i : Nat) : Bool :=
  match (s.agenda[i]?).bind weirWay with
  | some w => !(s.agenda.take i).any fun x => weirWay x == some w
  | none => true

/-- Whether the i-th arrived message may be performed now: claims are processed in the order of their arrival (R173). -/
def State.claimInTurn (s : State) (i : Nat) : Bool :=
  match s.inbox[i]? with
  | some m => !isClaim m || !(s.inbox.take i).any isClaim
  | none => true

/-- The turn that is laid down, where it can be taken. -/
def State.turnMove (s : State) : Turn → Option Move
  | .due i =>
    if s.inTurn i then ((s.agenda[i]?).filter fun x => !bySplit x).map fun x => .run { s with agenda := eraseAt s.agenda i } x
    else none
  | .message i =>
    if s.claimInTurn i then (s.inbox[i]?).map fun m => .run { s with inbox := eraseAt s.inbox i } (classify m) else none
  | .pack n => (s.packSplit n).map fun e => .pack n e
  | .core n => if s.coreOrder.contains n then some ((s.coreMove n).getD (.cycle n)) else none
  | .arise i => if mayArise i then some (.run s i) else none

/-- What moves next, and the state with its turn taken from the tape. A halving instant that the mesh has reached comes before
anything else, so that an increment of the same cycle is applied after it (R292). -/
def State.nextMove (s : State) : State × Move :=
  if s.halvings < s.mesh / halvingCycles then (s, .run s .countHalving)
  else
    match s.turns with
    | [] => (s, s.defaultMove)
    | t :: r =>
      let s1 : State := { s with turns := r }
      (s1, (s1.turnMove t).getD s1.defaultMove)

/-- The end of a core's cycle: a stalled allocation may make a swap-out due, and swapped groups whose allocation is served come back
(R209, R210). -/
def State.cycleMove (s : State) (core : Nat) (ready : Nat → Bool → Bool) : State :=
  let s0 := State.endCycle { s with lastCore := core } core ready
  let s1 := s0.dueAll ((s0.wakeable core).map Instr.swapIn)
  match s1.swapChoice core with
  | some g => if s1.agenda.contains (.swapOut g) then s1 else s1.due (.swapOut g)
  | none => s1

/-! ## Fetch (R15, R16) -/

/-- A fetched halfword, or why there is none. -/
inductive Fetched where
  | half (s : State) (h : Half)
  /-- 0 for a held translation fault, else the cause -/
  | fault (s : State) (cause : Nat)
  /-- a remote page: the read is on its way -/
  | remote (s : State) (p : Peer) (addr : Nat)
  /-- a weir line whose holders are being sluiced, or whose additions by this core are still on their way -/
  | ask (s : State)

/-- Reads a halfword of the instruction at `pc` through the core's TLB and L1, of a weir line as a load reads it (R16, R347). -/
def State.fetchHalf (s : State) (core ctx gid : Nat) (slotB : Bool) (pc : DWord) (va : Nat) (verdicts : List (PageRef × Bool)) : Fetched :=
  if addressEnd ≤ va then .fault s causeADDR
  else
    match s.route core ctx va 2 .exec verdicts with
    | (s1, .cause c) => .fault s1 c
    | (s1, .held _) => .fault s1 0
    | (s1, .area _) => .fault s1 causePERM
    | (s1, .remote p a) =>
      match (s.group? gid).bind fun g => (g.template.find? fun x => x.1 == va).map fun x => x.2 with
      | some [b0, b1] => .half s1 (BitVec.ofNat 16 (leNat [b0, b1]))
      | some [st] => .fault s1 (if st = 4 then causeUCE else causeADDR)
      | _ => .remote s1 p a
    | (s1, .mem l pa) =>
      let kind := (s1.regionOf ctx va l).1
      if kind = regionWeir then
        let line := pa / lineBytes
        let party := splitParty gid slotB pc
        match s1.askLines core ctx party (fun s x => s.weirRead core x party none) [line] with
        | some s2 => .ask s2
        | none =>
          let s2 := ((s1.noteSheaf l line).unalias core ctx lineEnd line).lodge line (some core) (some hintNorm)
          if s2.bankBad pa 2 then .fault (s2.endService line party) causeUCE
          else .half (s2.endService line party) (BitVec.ofNat 16 (leNat (bytesAt (s2.weirLine core ctx line) (pa % lineBytes) 2)))
      else
        match s1.l1Load core ctx va 2 pa hintNorm kind l .exec with
        | (s2, b, bad) => if bad then .fault s2 causeUCE else .half s2 (BitVec.ofNat 16 (leNat b))

/-- What a split executes: the state behind the fetch, the encoding for its trap record, and the instruction; none while a halfword
is on its way. -/
inductive Fetch where
  | run (s : State) (enc : Word) (i : Instr)
  | wait (s : State)

/-- A split sleeps until a halfword can be read. -/
def State.fetchSleep (s : State) (gid : Nat) (slotB : Bool) (w : Wait) : State :=
  s.modGroup gid fun g => g.setSlot slotB ((g.slot slotB).map fun x => sleepSplit (s.coreSt (s.coreOf g)).cycle x w)

/-- A split waits for a remote halfword. -/
def State.fetchRemote (s : State) (gid : Nat) (slotB : Bool) (va : Nat) (p : Peer) (addr : Nat) : State :=
  (s.request (peerMsg p 1 2 addr 0 []) (.template gid va)).fetchSleep gid slotB .remote

/-- A group without the remote halfwords that it has fetched. -/
def Group.fetchedAll (g : Group) : Group :=
  if g.template.isEmpty then g else { g with template := g.template.filter fun x => decide (2 < x.2.length) }

/-- Fetches and decodes the instruction at a split's pc: a first halfword with bit 0 clear is an instruction of 16 bits (R15). -/
noncomputable def State.fetch (s : State) (core gid : Nat) (slotB : Bool) (g : Group) (x : Split) : Fetch :=
  let ctx := s.ctxOf g
  match s.fetchHalf core ctx gid slotB x.pc x.pc.toNat x.verdicts with
  | .fault s1 c => .run (s1.modGroup gid Group.fetchedAll) 0 (.instructionFetchFault c x.pc 0)
  | .remote s1 p a => .wait (s1.fetchRemote gid slotB x.pc.toNat p a)
  | .ask s1 => .wait (s1.fetchSleep gid slotB .ack)
  | .half s1 h0 =>
    if h0.getLsbD 0 then
      let at_ := x.pc + 2
      match s1.fetchHalf core ctx gid slotB x.pc at_.toNat x.verdicts with
      | .fault s2 c =>
        .run (s2.modGroup gid Group.fetchedAll) (h0.zeroExtend 32) (.instructionFetchFault c at_ (h0.zeroExtend 32))
      | .remote s2 p a => .wait (s2.fetchRemote gid slotB at_.toNat p a)
      | .ask s2 => .wait (s2.fetchSleep gid slotB .ack)
      | .half s2 h1 =>
        let enc : Word := h1 ++ h0
        .run (s2.modGroup gid Group.fetchedAll) enc ((decodeLong enc.toNat).getD (.illegalEncoding enc))
    else .run (s1.modGroup gid Group.fetchedAll) (h0.zeroExtend 32) (decodeShort h0.toNat)

/-- A wait that keeps an instruction from issuing: its split was not ready (R195). -/
def Wait.beforeIssue : Wait → Bool
  | .source => true
  | .alloc _ => true
  | .engine => true
  | .hold _ => true
  | _ => false

/-- Whether the split that a core chose has issued, in the state after its turn. -/
def State.hasIssued (s : State) (e : RingEntry) : Bool :=
  match (s.group? e.group).bind fun g => g.slot e.slotB with
  | some x => !x.wait.beforeIssue
  | none => true

/-- The issue slot that a split fills, in the state in which it executes (R198). -/
def State.slotFor (s : State) (e : RingEntry) (word : Word) : IssueSlot :=
  match s.group? e.group with
  | none => { ctx := 0, pc := 0, word := word, lanes := 0, place := e.place }
  | some g =>
    let x := g.slot e.slotB
    { ctx := s.ctxOf g, pc := (x.map fun x => x.pc).getD 0, word := word, lanes := (x.map fun x => popCount x.mask.toNat 64).getD 0,
      place := e.place }

/-- The bookkeeping of a core after a turn: only a split that has issued counts (R195, R197). -/
def State.settleIssue (s : State) (core : Nat) (e : RingEntry) (slot : IssueSlot) : State :=
  if s.hasIssued e then s.noteIssue core e slot else { s with lastCore := core }

/-- The bookkeeping after a split has been packed into the issue slot under way (R198). -/
def State.settlePack (s : State) (core : Nat) (e : RingEntry) (lanes : Nat) : State :=
  if s.hasIssued e then s.notePack core e lanes else { s with lastCore := core }

/-! ## A step of each kind (log 1) -/

/-- The state behind an outcome, where there is one. -/
def onNext (f : State → State) : Host.Outcome State Fault Refusal → Host.Outcome State Fault Refusal
  | .next s => .next (f s)
  | .fault r => .fault r
  | .refused r => .refused r

/-- The state in which a split executes its instruction. -/
def State.at (s : State) (e : RingEntry) (enc : Word) : State :=
  { s with cur := some { group := e.group, slotB := e.slotB, enc := enc } }

/-- A turn that began in a state ends: what it has changed of the private areas is written to them (R287), services of weir lines
end whose parties do not come back (R362), splits that wait no more leave the queues (R249), the wait counts of splits that are not
ready start again (R195), no split executes, and time has passed. -/
def State.endTurn (before s : State) : State := State.advance { (before.cacheAreas s).endServices.pruneQueues.restartIdle with cur := none }

/-- What a core fetches for the split that it issues; a split that is not there leaves only the turn. -/
noncomputable def State.fetchFor (s : State) (core : Nat) (e : RingEntry) : Fetch :=
  match s.group? e.group with
  | none => .wait s
  | some g =>
    match g.slot e.slotB with
    | none => .wait s
    | some x => s.fetch core e.group e.slotB g x

/-- Whether a split that waits for nothing would issue, had the core chosen it: its instruction can be fetched, and does not stop on
a source or a destination (R195). `run` executes it; nothing of it stays. -/
noncomputable def State.wouldIssue (s : State) (run : Instr → State → Host.Outcome State Fault Refusal) (core gid : Nat) (slotB : Bool) :
    Bool :=
  let e : RingEntry := { index := 0, slotB := slotB, group := gid, prio := 0 }
  match s.fetchFor core e with
  | .wait _ => false
  | .run u enc i =>
    match run i (u.at e enc) with
    | .next t => t.hasIssued e
    | _ => true

/-! ## A program of one instruction (log 28) -/

/-- Where the one instruction of `State.placeWord` stands: its virtual page, and the physical addresses of the page and of the four
tables that map it. -/
def placedVa : Nat := 0x10000
def placedPage : Nat := 0x28000
def placedRoot : Nat := 0x8000

/-- A page-table entry that names the next table. -/
def tableEntry (at_ : Nat) : List Byte := leBytes (at_ + 1) 8

/-- The memory of `State.placeWord`: four tables, each with one entry; a leaf that permits reading, writing and executing; and the
bytes of the instruction (R282, R283). -/
def placedMemory (m : Memory) (bytes : List Byte) : Memory :=
  let m1 := memWriteBytes m (placedRoot + 8 * tableIndex placedVa 1) (tableEntry 0x10000)
  let m2 := memWriteBytes m1 (0x10000 + 8 * tableIndex placedVa 2) (tableEntry 0x18000)
  let m3 := memWriteBytes m2 (0x18000 + 8 * tableIndex placedVa 3) (tableEntry 0x20000)
  let m4 := memWriteBytes m3 (0x20000 + 8 * tableIndex placedVa 4) (leBytes (placedPage + 0x2F) 8)
  memWriteBytes m4 placedPage bytes

/-- The waybill of `State.placeWord`: one crew of one group of 8 lanes that names 64 vector registers, 64 scalars and 16 tiles, with
scratch and private memory and no handler (R155). -/
def placedWaybill : List Byte :=
  leBytes placedVa 8 ++ leBytes 0 8 ++ leBytes 3 8 ++ (leBytes 1 4 ++ leBytes 1 4 ++ leBytes 1 4 ++ leBytes 1 4 ++ leBytes 1 4) ++
    [64, 64, 16, 0] ++ leBytes 4096 4 ++ leBytes 256 4 ++ leBytes 1024 4 ++ leBytes 0 4 ++ leBytes 0 64

/-- The crew of `State.placeWord`. -/
def placedCrew : Crew where
  launch := launchKey 0 1
  f2 := 0
  f3 := 0
  f4 := 0
  f5 := 0
  core := 0
  index := 0
  groups := [0]
  ended := []
  scratch := []
  scratchBad := []
  queues := []
  bars := []
  order := 0
  res := .resident
  savedCopy := []
  savedMat := []

/-- The context of `State.placeWord`, with no limit of time. -/
def placedContext (clock : DWord) : Context :=
  { Context.fresh (BitVec.ofNat 64 placedRoot) 0 0 16 clock with counter := 1, watchdog := 0 }

/-- One group that is about to fetch the given bytes, on core 0 in context 0, and nothing else that could move before it. -/
def State.placeWord (s : State) (bytes : List Byte) : State :=
  { s with groups := [(0, Group.start placedWaybill 0 0 0 privateLow (0, []))]
           crews := [(0, placedCrew)]
           launches := [(launchKey 0 1, { Launch.new 0 1 0 0 placedWaybill .opened false 0 with placed := 1, cores := [(0, s.tick)] })]
           contexts := [(0, placedContext s.clock)]
           cores := []
           renumbered := []
           mem := placedMemory s.mem bytes
           bad := []
           dir := []
           blocks := []
           replicas := []
           invals := []
           retired := []
           halvings := s.mesh / halvingCycles
           trees := []
           outstanding := []
           owner := none
           successor := none
           broughtUp := true
           inbox := []
           cur := none
           agenda := []
           turns := []
           nextGroup := 1
           nextCrew := 1
           nextOrder := 1 }

end Sys2Proof.Machine
end

