-- ==== Sys2Proof/Machine/Step.lean ====
section
/-! DEFINITION. One step of the machine, and the state in which the next step runs a given instruction. -/

namespace Sys2Proof.Machine

/-- One step (log 1): the next turn is taken from the tape, or by the model's own order; the agent that it names moves; time
passes. A core that issues a split fetches the instruction at its pc, which executes (R15, R197); a split that it packs
executes as if it had issued alone (R198). -/
noncomputable def step (s : State) : Host.Outcome State Fault Refusal :=
  onNext s.endTurn
    (match s.nextMove with
     | (_, .run t i) => exec i t
     | (t, .issue core e) =>
       match t.fetchFor core e with
       | .run u enc i => onNext (fun x => x.settleIssue core e (u.slotFor e enc)) (exec i (u.at e enc))
       | .wait u => .next { u with lastCore := core }
     | (t, .pack core e) =>
       match t.fetchFor core e with
       | .run u enc i =>
         if ((t.coreSt core).slot.map fun x => x.word) = some enc then
           onNext (fun x => x.settlePack core e (u.slotFor e enc).lanes) (exec i (u.at e enc))
         else .next { t with lastCore := core }
       | .wait _ => .next { t with lastCore := core }
     | (t, .cycle core) => .next (t.cycleMove core (t.wouldIssue exec core))
     | (t, .pass) => .next t)

/-- A state whose next step fetches and runs the instruction of an opcode-table row whose bits are `w` (log 28). -/
def State.withFetchWord (s : State) (nbits w : Nat) : State := s.placeWord (bytesOfWord (w % 2 ^ nbits) 4)

end Sys2Proof.Machine
end

