-- ==== Sys2Proof/Safety.lean ====
section
/-! DEFINITION. What counts as a safe run, and the terms in which claims speak of one instruction: when a split executes it, which
operands it can read, and what it leaves. -/

namespace Sys2Proof.Machine

/-! ## Runs -/

/-- Between steps: no split executes, and the time since which a context with a park limit is parked is noted exactly while the
context runs and every resident group of it is externally parked (R390). -/
def State.AtRest (s : State) : Prop :=
  s.cur = none ∧ ∀ i c, tblGet? s.contexts i = some c → c.park ≠ 0 →
    (c.parkedSince.isSome = true ↔ c.st = .running ∧ s.allParked i = true)

/-- A step answers a next state: it stops at no fault and no refusal. -/
def Goes (o : Host.Outcome State Fault Refusal) : Prop := ∃ t, o = .next t

/-- Every byte memory of the machine has its canonical form: HBM, each crew's scratch, each group's private windows, and the areas
that contexts keep. -/
def State.Canonical (s : State) : Prop :=
  memWf s.mem = true ∧ (∀ c ∈ s.crews, memWf c.2.scratch = true) ∧ (∀ g ∈ s.groups, memWf g.2.priv = true) ∧
    ∀ c ∈ s.contexts, ∀ k ∈ c.2.kept, memWf k.mem = true

/-! ## One instruction in a split -/

/-- The cursor names a live split, seen as `v`, that executes an instruction of `len` bytes and reads no structure with a soft
error (R384). -/
def Executes (len : Nat) (s : State) (v : View) : Prop := viewOf len s = some v ∧ softRead len v = none

/-- The kernel may name these vector registers and scalars (R206). -/
def Named (v : View) (vs ss : List Nat) : Prop :=
  (∀ r ∈ vs, r < wbVregs v.wb) ∧ ∀ r ∈ ss, r < wbSregs v.wb ∨ 60 ≤ r

/-- No acting lane of these registers is empty, poisoned or damaged; a vacant register may be read (R79). -/
def LanesFull (v : View) (lanes : DWord) (vs : List Nat) : Prop :=
  ∀ l, l < 64 → lanes.getLsbD l = true → ∀ r ∈ vs, ∀ c, v.g.lane? r l = some c → c.st = .full

/-- None of these scalars is empty, poisoned or damaged (R111). -/
def ScalarsFull (v : View) (ss : List Nat) : Prop := ∀ r ∈ ss, (v.g.scalar r).st = .full

/-- The registers that the write allocates are served (R208, R210). -/
def Served (v : View) (lanes : DWord) (ds : List Nat) : Prop :=
  v.s.allocServed v.core v.g.crew (v.g.needs (lanesOf lanes) ds) = true

/-- When a lane instruction with destinations `ds`, vector sources `vs` and scalar sources `ss` executes normally. -/
def LaneReady (len : Nat) (s : State) (v : View) (guard : Nat) (ds vs ss : List Nat) : Prop :=
  Executes len s v ∧ Named v (ds ++ vs) ss ∧ LanesFull v (v.acting guard) vs ∧
    (v.acting guard ≠ 0 → ScalarsFull v ss) ∧ Served v (v.acting guard) ds

/-- Nothing but the group and the steps that are due differs: no byte of memory, no other group, no core, no context; the steps that
were due still are. -/
def Elsewhere (s t : State) (gid : Nat) : Prop :=
  t = { s with groups := t.groups, agenda := t.agenda } ∧ (∃ r, t.agenda = s.agenda ++ r) ∧ ∀ k, k ≠ gid → t.group? k = s.group? k

/-- A split of the group stands at `pc`, with the mask, the `%fm` and the record of `sl`, and waits for `w`: in the slot, unless
this was its 1,024th instruction there and it changed places with a spilled split (R202). -/
def StandsIn (w : Wait) (slotB : Bool) (sl : Split) (pc : DWord) (g : Group) : Prop :=
  ∃ x, x ∈ g.allSplits ∧ (sl.run + 1 < 1024 → g.slot slotB = some x) ∧ x.pc = pc ∧ x.mask = sl.mask ∧ x.fm = sl.fm ∧
    x.link = sl.link ∧ x.wait = w

/-- An instruction has completed: `t` is `s1`, the machine as the instruction left it, with the executing group as `g`, whose split
goes on at `pc` as `sl`, once what `w` says has come. The slots of `g` may have taken up spilled splits (R202); its watch and its
private area are those that `s1` holds for the group: an access may have written the watched line (R241), or sent a dirty private
line out of the L1 (R287). -/
def EndsIn (w : Wait) (v : View) (sl : Split) (s1 : State) (pc : DWord) (t : State) (g : Group) : Prop :=
  Elsewhere s1 t v.gid ∧ ∃ g', t.group? v.gid = some g' ∧ StandsIn w v.slotB sl pc g' ∧
    g' = s1.keepWatch v.gid { g with slotA := g'.slotA, slotB := g'.slotB, spilled := g'.spilled, active := true }

/-- The same where the split goes on at once. -/
def EndsAs (v : View) (sl : Split) (s1 : State) (pc : DWord) (t : State) (g : Group) : Prop := EndsIn .none v sl s1 pc t g

/-- The same where the split's mask, `%fm` and record are as before. -/
def Ends (v : View) (s1 : State) (pc : DWord) (t : State) (g : Group) : Prop := EndsAs v v.sl s1 pc t g

/-- An instruction completes: exec answers a state in which it has ended so. -/
def CompletesIn (w : Wait) (i : Instr) (s : State) (v : View) (s1 : State) (pc : DWord) (g : Group) : Prop :=
  ∃ t, exec i s = .next t ∧ EndsIn w v v.sl s1 pc t g

/-- An instruction completes, and its split goes on at once. -/
def Completes (i : Instr) (s : State) (v : View) (s1 : State) (pc : DWord) (g : Group) : Prop :=
  ∃ t, exec i s = .next t ∧ Ends v s1 pc t g

/-- An instruction completes and changes its group alone; its split goes on behind it. -/
def Writes (i : Instr) (s : State) (v : View) (g : Group) : Prop := Completes i s v v.s v.next g

/-- A c-guarded instruction: where its guard is true it completes so; where it is false it changes no register (R22, R110). -/
def CRuns (i : Instr) (s : State) (v : View) (guard : Nat) (s1 : State) (pc : DWord) (g : Group) : Prop :=
  (v.g.cpred guard = true → Completes i s v s1 pc g) ∧ (v.g.cpred guard = false → Writes i s v v.g)

/-- When a c-guarded instruction with scalar destinations `ds` and sources `ss` executes normally. -/
def ScalarReady (s : State) (v : View) (guard : Nat) (ds ss : List Nat) : Prop :=
  Executes 4 s v ∧ Named v [] (ds ++ ss) ∧ (v.g.cpred guard = true → ScalarsFull v ss)

/-- The vector registers `ds` hold their values, full, in the lanes of `lanes` and are unchanged in the others; the registers
`freed` that are no destination are vacant; every other register is unchanged (R77, R79, R207). -/
def RegsAfter (g g' : Group) (lanes : DWord) (ds : List (Nat × (Nat → Word))) (freed : List Nat) : Prop :=
  (∀ p ∈ ds, ∀ l, l < 64 → lanes.getLsbD l = true → g'.lane? p.1 l = some { val := p.2 l, st := .full }) ∧
  (∀ p ∈ ds, ∀ l, l < 64 → lanes.getLsbD l = false → (g'.lane? p.1 l).getD laneZero = (g.lane? p.1 l).getD laneZero) ∧
  (∀ r, (∀ p ∈ ds, r ≠ p.1) → r ∈ freed → ∀ l, g'.lane? r l = none) ∧
  ∀ r, (∀ p ∈ ds, r ≠ p.1) → r ∉ freed → ∀ l, g'.lane? r l = g.lane? r l

/-- The state after a lane instruction: its vector destinations are written, `flags` are set in `%gstat`, and every other
register of the group and everything else in the machine is unchanged. -/
def LaneResult (v : View) (t : State) (lanes : DWord) (ds : List (Nat × (Nat → Word))) (freed : List Nat) (flags : DWord) : Prop :=
  ∃ g, Ends v v.s v.next t g ∧ g = { v.g with vregs := g.vregs, gstat := v.g.gstat ||| flags } ∧ RegsAfter v.g g lanes ds freed

/-- A lane instruction completes with this value and these flags in each acting lane. -/
def LaneRuns (s : State) (v : View) (i : Instr) (guard d : Nat) (vs freed : List Nat) (f : Nat → Word) (flags : Nat → Flags) :
    Prop :=
  ∃ t, exec i s = .next t ∧
    LaneResult v t (v.acting guard) [(d, f)] freed
      (vacBits v.g (lanesOf (v.acting guard)) vs ||| flagBits (anyFlags (lanesOf (v.acting guard)) flags))

/-- An instruction takes a trap: its split enters the handler or its context faults, as R383 and R386 say (`takeTrap`). -/
def Traps (i : Instr) (s : State) (v : View) (cause lane : Nat) (acting addr detail : DWord) : Prop :=
  exec i s = .next (takeTrap v.s v.gid v.g v.sl v.slotB v.enc cause lane acting addr detail)

/-- An instruction does not complete: its split waits, everything else is unchanged, and it executes the instruction again. -/
def Sleeps (i : Instr) (s : State) (v : View) (w : Wait) : Prop :=
  exec i s = .next (v.s.setGroup v.gid
    (v.g.setSlot v.slotB (some (sleepSplit (v.s.coreSt v.core).cycle v.sl w))).balance)

/-- The crew of the executing group is `c` in one state and `c'` in another; nothing else differs. -/
def CrewChange (s1 s2 : State) (k : Nat) (c c' : Crew) : Prop :=
  s1.crew? k = some c ∧ s2.crew? k = some c' ∧ (∀ j, j ≠ k → s2.crew? j = s1.crew? j) ∧ s2 = { s1 with crews := s2.crews }

/-- A load, or an atomic that returns a value, has been issued (R99, R208): the machine is `s1` with one more access; the
destinations `ds` are empty in the acting lanes, `arr` is on its way to them, and its arrival is due. -/
def IssuesIn (w : Wait) (i : Instr) (s : State) (v : View) (s1 : State) (lanes : DWord) (ds : List Nat) (arr : List Arriving)
    (g0 : Group) : Prop :=
  ∃ h, CompletesIn w i s v (State.due { s1 with nextTag := s1.nextTag + 1 } (.loadDataArrival v.gid s1.nextTag)) v.next h ∧
    h = { g0 with vregs := h.vregs, arriving := tblSet v.g.arriving s1.nextTag arr } ∧
    (∀ r ∈ ds, ∀ l, l < 64 → lanes.getLsbD l = true → (h.lane? r l).map LaneCell.st = some (.empty s1.nextTag)) ∧
    (∀ r ∈ ds, ∀ l, l < 64 → lanes.getLsbD l = false → (h.lane? r l).getD laneZero = (v.g.lane? r l).getD laneZero) ∧
    ∀ r, r ∉ ds → ∀ l, h.lane? r l = v.g.lane? r l

/-- The same where the split goes on at once. -/
def Issues (i : Instr) (s : State) (v : View) (s1 : State) (lanes : DWord) (ds : List Nat) (arr : List Arriving) (g0 : Group) :
    Prop :=
  IssuesIn .none i s v s1 lanes ds arr g0

/-- The accesses of the lanes of a load or store into global memory, checked in ascending order (R98, R101). -/
def Fates (v : View) (n : Nat) (need : Need) (acting : DWord) (addr : Nat → Nat) : State × List (Nat × Nat × Route) :=
  checkLanes v.core v.ctx n need v.sl.verdicts v.s ((lanesOf acting).map fun l => (l, addr l))

/-- Every access is permitted, present and aligned, and none is to a weir line. -/
def Permitted (v : View) (acting : DWord) (c : State × List (Nat × Nat × Route)) : Prop :=
  accessStop acting c.2 = none ∧ weirLines c.1 v.ctx c.2 = []

/-- A c-guarded instruction: what it does where its guard is true; where it is false it changes nothing but the pc (R22, R248). -/
def ByGuard (i : Instr) (s : State) (v : View) (guard : Nat) (P : Prop) : Prop :=
  (v.g.cpred guard = true → P) ∧ (v.g.cpred guard = false → Writes i s v v.g)

/-! ## FP32 values, read off their bits (R62, R63) -/

/-- A finite FP32 word. -/
def Fin32 (w : Word) : Prop := natBits w.toNat 30 23 ≠ 255

/-- A NaN. -/
def Nan32 (w : Word) : Prop := natBits w.toNat 30 23 = 255 ∧ natBits w.toNat 22 0 ≠ 0

/-- A signalling NaN. -/
def Sig32 (w : Word) : Prop := Nan32 w ∧ w.getLsbD 22 = false

/-- The magnitude of a finite word in units of 2^-149. -/
def mag32 (w : Word) : Nat :=
  if natBits w.toNat 30 23 = 0 then natBits w.toNat 22 0
  else (2 ^ 23 + natBits w.toNat 22 0) * 2 ^ (natBits w.toNat 30 23 - 1)

/-- The value of a finite word in units of 2^-149. -/
def units32 (w : Word) : Int := if w.getLsbD 31 then -(mag32 w : Int) else mag32 w

/-- A denormal or a zero as the zero of its sign, another word unchanged (R84). -/
def flush32 (w : Word) : Word := if natBits w.toNat 30 23 = 0 then w &&& 0x80000000#32 else w

/-- A word with its sign inverted. -/
def neg32 (w : Word) : Word := w ^^^ 0x80000000#32

/-- The order of words that are no NaN, with -0 below +0 (R86). -/
def order32 (w : Word) : Int := if w.getLsbD 31 then -(natBits w.toNat 30 0 : Int) - 1 else natBits w.toNat 30 0

/-- R84: `r` is the nonzero value `exact` × 2^-(149 + scale) rounded to FP32 in a mode (0 to nearest even, 1 toward zero, 2 toward
−∞, 3 toward +∞), with its flags, where no result is flushed. Where the value rounded with an unbounded exponent is too large, the
result is an infinity or the largest finite number of its sign, as the mode says, and FPOF and FPIX are set. Else the result is
finite, has the sign of the value, and is the neighbour that the mode names; where it differs from the value FPIX is set, and FPUF
too where the value rounded with an unbounded exponent is below the smallest normal number. -/
def RoundsTo (rnd scale : Nat) (exact : Int) (r : Word × Flags) : Prop :=
  let big := exact.natAbs
  let away : Bool := rnd == 2 && decide (exact < 0) || rnd == 3 && decide (0 < exact)
  let overflows : Prop :=
    (rnd = 0 ∧ (2 ^ 25 - 1) * 2 ^ (252 + scale) ≤ big) ∨ (rnd ≠ 0 ∧ away = true ∧ (2 ^ 24 - 1) * 2 ^ (253 + scale) < big) ∨
      (rnd ≠ 0 ∧ away = false ∧ 2 ^ (277 + scale) ≤ big)
  let tiny : Prop :=
    (rnd = 0 ∧ 4 * big < (2 ^ 25 - 1) * 2 ^ scale) ∨ (rnd ≠ 0 ∧ away = true ∧ 2 * big ≤ (2 ^ 24 - 1) * 2 ^ scale) ∨
      (rnd ≠ 0 ∧ away = false ∧ big < 2 ^ (23 + scale))
  let at_ (w : Word) : Nat := mag32 w * 2 ^ scale
  let off (w : Word) : Nat := (at_ w - big) + (big - at_ w)
  r.1.getLsbD 31 = decide (exact < 0) ∧
  (overflows → (r.1 &&& 0x7FFFFFFF#32) = (if rnd = 0 ∨ away = true then 0x7F800000#32 else 0x7F7FFFFF#32) ∧ r.2 = 10) ∧
  (¬ overflows → Fin32 r.1 ∧
    (rnd = 0 → ∀ w, Fin32 w → off r.1 ≤ off w ∧ (off w = off r.1 → at_ w ≠ at_ r.1 → r.1.getLsbD 0 = false)) ∧
    (rnd ≠ 0 → away = true → big ≤ at_ r.1 ∧ ∀ w, Fin32 w → big ≤ at_ w → at_ r.1 ≤ at_ w) ∧
    (rnd ≠ 0 → away = false → at_ r.1 ≤ big ∧ ∀ w, Fin32 w → at_ w ≤ big → at_ w ≤ at_ r.1) ∧
    (at_ r.1 = big → r.2 = 0) ∧ (at_ r.1 ≠ big → tiny → r.2 = 12) ∧ (at_ r.1 ≠ big → ¬ tiny → r.2 = 8))

/-! ## Bytes of memory behind the L1s -/

/-- A core's L1 holds this byte dirty: in a line of this virtual and physical address, at this offset. -/
def State.Dirty (s : State) (core vline pline off : Nat) (v : Byte) : Prop :=
  ∃ x ∈ (s.coreSt core).l1, x.vline = vline ∧ x.pline = pline ∧ ∃ b : L1Byte, (off, b) ∈ x.bytes ∧ b.dirty = true ∧ b.val = v

/-- An L1 of the machine holds a byte of a physical address dirty. -/
def State.DirtyAt (s : State) (core a : Nat) (v : Byte) : Prop :=
  ∃ vline pline off, 128 * pline + off = a ∧ s.Dirty core vline pline off v

/-- Global memory is written at no address but these: at every other one the lodging bank holds what it held, or a byte that an L1
held dirty and has written back; and no byte of an L1 has become dirty (R287). -/
def OnlyBytes (stored : Nat → Prop) (s t : State) : Prop :=
  (∀ a, ¬ stored a → memRead t.mem a = memRead s.mem a ∨ ∃ core, s.DirtyAt core a (memRead t.mem a)) ∧
  ∀ core vline pline off v, ¬ stored (128 * pline + off) → t.Dirty core vline pline off v → s.Dirty core vline pline off v

/-- The private areas of the groups are as they were, but for bytes that an L1 held dirty and has written back; and nothing of a
group has changed but its area and its watch (R241, R287). -/
def AreasKept (s t : State) : Prop :=
  ∀ gid, match s.group? gid with
    | none => t.group? gid = none
    | some g => ∃ h, t.group? gid = some h ∧ h = { g with watch := h.watch, priv := h.priv, privBad := h.privBad } ∧
      ∀ o, memRead h.priv o = memRead g.priv o ∨
        ∃ core vline pline off, s.Dirty core vline pline off (memRead h.priv o) ∧ 128 * vline + off = g.privBase.toNat + o

/-! ## Engines -/

/-- The bytes that a read gives where its space holds `src`. -/
def readOf (src : Nat → Byte) (r : Rd) : List Byte := (List.range r.n).map fun i => src (r.addr + i)

/-- What the writes of a list leave at a logical address of their space: the byte of the last of them that covers it. -/
def lastAt (l : List Wr) (a : Nat) : Option Byte :=
  l.foldl (fun b w => if w.addr ≤ a ∧ a < w.addr + w.bytes.length then w.bytes[a - w.addr]? else b) none

/-- The writes of a unit put byte `p` of the counted bytes lo to hi - 1 at its place in the command's destination, a later byte over
an earlier one, and write nothing else. -/
def PutsBytes (op : EngOp) (l : List Wr) (lo hi : Nat) (place : Nat → Nat) (byte : Nat → Byte) : Prop :=
  (∀ w ∈ l, w.global = op.dstGlobal ∧ w.mode = op.dmode) ∧
  (∀ p, lo ≤ p → p < hi → (∀ q, p < q → q < hi → place q ≠ place p) → lastAt l (place p) = some (byte p)) ∧
  ∀ a, (∀ p, lo ≤ p → p < hi → place p ≠ a) → lastAt l a = none

/-- A copy engine's turn at a core takes up this command: it is the first of the queue that does not wait. -/
def CopyTurn (s : State) (core : Nat) (op : EngOp) : Prop := (s.coreSt core).copyQ.find? (fun x => !x.asleep) = some op

/-- The command has begun and has a unit to run: no remote access of it has failed, and none of its bytes awaits an answer (R307,
R308). -/
def EngOp.Running (op : EngOp) : Prop := op.lost = none ∧ op.bytes ≠ 0 ∧ op.owed = 0 ∧ op.begun = true ∧ op.over = false

/-- A matrix engine's turn at a core executes a unit of this operation (R259, R276, R375). -/
def MatrixTurn (s : State) (core : Nat) (op : EngOp) : Prop :=
  nextMatrix (Config.differenceTurn s.tick) (runnable s.unitsStopped [] (s.coreSt core).matQ) = some op

/-! ## Messages -/

/-- A message that has arrived is performed now: its frame is not too long, the wafer is up or the message is management, it has not
been performed before, and it stands in its order (R165, R169, R170, R181). -/
def Performed (s : State) (m : Msg) : Prop :=
  m.payload.length + packetHeaders ≤ packetLimit ∧ (s.broughtUp = true ∨ m.kind = 7) ∧ s.duplicate m = false ∧ s.inOrder m = true

/-- A message is performed, leaving the machine as `s1`; its frame is counted and it is answered (R168). -/
def Answers (i : Instr) (s : State) (m : Msg) (s1 : State) (status : Nat) (data : List Byte) : Prop :=
  exec i s = .next ((s1.countFrame m false).answer m status data)

/-- A signed command of the owner in the form of R183, with `n` argument bytes, to a context where `per`, else to the wafer. -/
def Commanded (s : State) (m : Msg) (n : Nat) (per : Bool) : Prop :=
  Performed s m ∧ s.fromOwner m.peer = true ∧ s.ownerSigned m = true ∧ formOk m (fun k => k == n) per true = true

/-- The machine once a message has come: the paths of a correspondent in recovery are live again, and the message is noted (R170).
-/
def State.heard (s : State) (m : Msg) : State := (s.heardFrom m.peer).noteSeen m

/-- The machine once it has taken up a command of the owner: the lease is renewed (R173). -/
def State.taken (s : State) (m : Msg) : State := (s.heard m).renewed

/-- The clock has reached a time. -/
def State.clockAt (s : State) (t : DWord) : State := { s with clock := if s.clock.ult t then t else s.clock }

end Sys2Proof.Machine
end

