-- ==== Sys2Proof/Certificates/Slice0/Obligations.lean ====
section
/-! DEFINITION. The statements for the provers. -/

open Sys2Proof Sys2Proof.Machine

/-! ## Encodings -/

/-- R15, R18, R25 to R46: the decoder reads back the bytes of every well-formed instruction, every operand at every value, and takes
no byte behind them. -/
def Obligations.DecodeEncode : Prop :=
  ∀ (i : Instr) (n w : Nat) (rest : List Byte), wellFormed i = true → encode i = some (n, w) →
    decodeBytes (bytesOfWord w n ++ rest) = some (i, rest)

/-- R46: a 32-bit pattern that decodes is the encoding of the instruction that it decodes to, and of no other; so is every 16-bit
pattern. -/
def Obligations.EncodeDecode : Prop :=
  (∀ (w : Nat) (i : Instr), w < 2 ^ 32 → w % 2 = 1 → decodeLong w = some i → encode i = some (4, w) ∧ wellFormed i = true) ∧
  ∀ w : Nat, w < 2 ^ 16 → w % 2 = 0 → encode (decodeShort w) = some (2, w) ∧ wellFormed (decodeShort w) = true

/-- Words that the manual writes out (R83, R95, R100, R109, R117): each decodes to the instruction that it stands for. -/
def Obligations.DecodeWords : Prop :=
  decodeLong 0xE1258DC5 = some (.addw 7 6 11 9 0) ∧
  decodeLong 0x806103DF = some (.sel 7 1 2 3 0 0 4) ∧
  decodeLong 0x30818E69 = some (.ldgB32 1 1 7 3 4 0) ∧
  decodeLong 0x02A315EF = some (.stsB64 7 10 6 2) ∧
  decodeLong 0x03010BF1 = some (.ldpB32 7 5 2 3) ∧
  decodeLong 0x000209DB = some (.li 7 4 1) ∧
  decodeLong 0x88E30BD7 = some (.divNSr 7 5 6 7)

/-! ## Lane instructions -/

/-- R82, R77, R79 to R81: the integer operations of IA, IB and VI complete in every acting lane with the value of the table, set no
flag but VAC, free the sources that their last-read bits name, and change nothing else. R82 of the VI shifts, R90: the immediate
shifts and the integer unary functions. What the bit functions of R90 give: bit k of `brev` is bit 31 - k, and `clz` counts the
zeros above the highest 1. -/
def Obligations.IntegerLanes : Prop :=
  (∀ (s : State) (v : View) (g : BitVec 3) (d a b : BitVec 6) (x y : BitVec 1) (i : BitVec 8),
    (LaneReady 4 s v g.toNat [d.toNat] [a.toNat, b.toNat] [] →
      let runs (i : Instr) (f : Word → Word → Word) : Prop :=
        LaneRuns s v i g.toNat d.toNat [a.toNat, b.toNat] (lastIf x a.toNat ++ lastIf y b.toNat)
          (fun l => f (v.lane a.toNat l) (v.lane b.toNat l)) fun _ => 0
      runs (.addI32 g d a b x y) (fun p q => p + q) ∧
      runs (.subI32 g d a b x y) (fun p q => p - q) ∧
      runs (.mulI32 g d a b x y) (fun p q => p * q) ∧
      runs (.mulhS32 g d a b x y) (fun p q => BitVec.ofInt 32 (p.toInt * q.toInt / 2 ^ 32)) ∧
      runs (.mulhN32 g d a b x y) (fun p q => BitVec.ofNat 32 (p.toNat * q.toNat / 2 ^ 32)) ∧
      runs (.minS32 g d a b x y) (fun p q => if p.toInt < q.toInt then p else q) ∧
      runs (.maxS32 g d a b x y) (fun p q => if p.toInt < q.toInt then q else p) ∧
      runs (.minN32 g d a b x y) (fun p q => if p.toNat < q.toNat then p else q) ∧
      runs (.maxN32 g d a b x y) (fun p q => if p.toNat < q.toNat then q else p) ∧
      runs (.and g d a b x y) (fun p q => p &&& q) ∧
      runs (.or g d a b x y) (fun p q => p ||| q) ∧
      runs (.xor g d a b x y) (fun p q => p ^^^ q) ∧
      runs (.shl g d a b x y) (fun p q => p <<< (q.toNat % 32)) ∧
      runs (.shrN32 g d a b x y) (fun p q => p >>> (q.toNat % 32)) ∧
      runs (.shrS32 g d a b x y) (fun p q => p.sshiftRight (q.toNat % 32))) ∧
    (LaneReady 4 s v g.toNat [d.toNat] [a.toNat, b.toNat, d.toNat] [] →
      LaneRuns s v (.madI32 g d a b x y) g.toNat d.toNat [a.toNat, b.toNat, d.toNat] (lastIf x a.toNat ++ lastIf y b.toNat)
        (fun l => v.lane d.toNat l + v.lane a.toNat l * v.lane b.toNat l) fun _ => 0) ∧
    (LaneReady 4 s v g.toNat [d.toNat] [a.toNat] [] →
      let runs (i : Instr) (f : Word → Word) : Prop :=
        LaneRuns s v i g.toNat d.toNat [a.toNat] [] (fun l => f (v.lane a.toNat l)) fun _ => 0
      runs (.addi g d a i) (fun p => p + i.signExtend 32) ∧
      runs (.muli g d a i) (fun p => p * i.signExtend 32) ∧
      runs (.andi g d a i) (fun p => p &&& i.zeroExtend 32) ∧
      runs (.ori g d a i) (fun p => p ||| i.zeroExtend 32) ∧
      runs (.xori g d a i) (fun p => p ^^^ i.zeroExtend 32))) ∧
  (∀ (s : State) (v : View) (g : BitVec 3) (d a : BitVec 6) (x : BitVec 1) (i : BitVec 5),
    LaneReady 4 s v g.toNat [d.toNat] [a.toNat] [] →
      (let runs (i : Instr) (f : Word → Word) : Prop :=
        LaneRuns s v i g.toNat d.toNat [a.toNat] [] (fun l => f (v.lane a.toNat l)) fun _ => 0
      runs (.shli g d a i) (fun p => p <<< i.toNat) ∧
      runs (.shriN32 g d a i) (fun p => p >>> i.toNat) ∧
      runs (.shriS32 g d a i) (fun p => p.sshiftRight i.toNat)) ∧
      let runs (i : Instr) (f : Word → Word) : Prop :=
        LaneRuns s v i g.toNat d.toNat [a.toNat] (lastIf x a.toNat) (fun l => f (v.lane a.toNat l)) fun _ => 0
      runs (.mov g d a x) (fun p => p) ∧
      runs (.not g d a x) (fun p => ~~~p) ∧
      runs (.negI32 g d a x) (fun p => 0 - p) ∧
      runs (.absI32 g d a x) (fun p => if p.getLsbD 31 then 0 - p else p) ∧
      runs (.popc g d a x) (fun p => BitVec.ofNat 32 ((List.range 32).filter fun k => p.getLsbD k).length) ∧
      runs (.clz g d a x) (fun p => BitVec.ofNat 32 (leadingZeros p.toNat 32)) ∧
      runs (.brev g d a x) bitReverse ∧
      runs (.sext8 g d a x) (fun p => (p.truncate 8).signExtend 32) ∧
      runs (.sext16 g d a x) (fun p => (p.truncate 16).signExtend 32)) ∧
  ((∀ (p : Word) (k : Nat), k < 32 → (bitReverse p).getLsbD k = p.getLsbD (31 - k)) ∧
  leadingZeros 0 32 = 32 ∧
  ∀ p : Word, p ≠ 0 → leadingZeros p.toNat 32 < 32 ∧ p.getLsbD (31 - leadingZeros p.toNat 32) = true ∧
    ∀ k, 31 - leadingZeros p.toNat 32 < k → p.getLsbD k = false)

/-- R82, R31, R83: the forms with a scalar source take its bits 31:0; the sum of `addw` goes into a pair. R96, R19: the sixteen
16-bit forms act in every active lane, move the pc on by 2 and free nothing. -/
def Obligations.ScalarAndShortLanes : Prop :=
  (∀ (s : State) (v : View) (g : BitVec 3) (d a b : BitVec 6) (x : BitVec 1),
    (LaneReady 4 s v g.toNat [d.toNat] [a.toNat] [b.toNat] →
      let runs (i : Instr) (f : Word → Word → Word) : Prop :=
        LaneRuns s v i g.toNat d.toNat [a.toNat] (lastIf x a.toNat)
          (fun l => f (v.lane a.toNat l) ((v.g.sval b.toNat).truncate 32)) fun _ => 0
      runs (.addI32Ic g d a b x) (fun p q => p + q) ∧
      runs (.subI32Ic g d a b x) (fun p q => p - q) ∧
      runs (.mulI32Ic g d a b x) (fun p q => p * q) ∧
      runs (.andIc g d a b x) (fun p q => p &&& q) ∧
      runs (.orIc g d a b x) (fun p q => p ||| q) ∧
      runs (.shlIc g d a b x) (fun p q => p <<< (q.toNat % 32))) ∧
    (LaneReady 4 s v g.toNat [d.toNat] [a.toNat, d.toNat] [b.toNat] →
      LaneRuns s v (.madI32Ic g d a b x) g.toNat d.toNat [a.toNat, d.toNat] (lastIf x a.toNat)
        (fun l => v.lane d.toNat l + v.lane a.toNat l * (v.g.sval b.toNat).truncate 32) fun _ => 0) ∧
    (LaneReady 4 s v g.toNat [d.toNat, d.toNat + 1] [a.toNat] [b.toNat] →
      let sum (l : Nat) : DWord := v.g.sval b.toNat + (v.lane a.toNat l).zeroExtend 64
      ∃ t, exec (.addw g d a b x) s = .next t ∧
        LaneResult v t (v.acting g.toNat)
          [(d.toNat, fun l => (sum l).truncate 32), (d.toNat + 1, fun l => (sum l >>> 32).truncate 32)] (lastIf x a.toNat)
          (vacBits v.g (lanesOf (v.acting g.toNat)) [a.toNat]))) ∧
  ∀ (s : State) (v : View) (d : BitVec 6) (b i : BitVec 5),
    (LaneReady 2 s v 7 [d.toNat] [d.toNat, b.toNat] [] →
      let runs (i : Instr) (f : Word → Word → FRes) : Prop :=
        LaneRuns s v i 7 d.toNat [d.toNat, b.toNat] [] (fun l => (f (v.lane d.toNat l) (v.lane b.toNat l)).1)
          fun l => (f (v.lane d.toNat l) (v.lane b.toNat l)).2
      runs (.shortAddI32 d b) (fun p q => (p + q, 0)) ∧
      runs (.shortSubI32 d b) (fun p q => (p - q, 0)) ∧
      runs (.shortAnd d b) (fun p q => (p &&& q, 0)) ∧
      runs (.shortOr d b) (fun p q => (p ||| q, 0)) ∧
      runs (.shortXor d b) (fun p q => (p ^^^ q, 0)) ∧
      runs (.shortShl d b) (fun p q => (p <<< (q.toNat % 32), 0)) ∧
      runs (.shortShrN32 d b) (fun p q => (p >>> (q.toNat % 32), 0)) ∧
      runs (.shortShrS32 d b) (fun p q => (p.sshiftRight (q.toNat % 32), 0)) ∧
      runs (.shortFaddF32 d b) (f32Add v.rnd v.ftz) ∧
      runs (.shortFmulF32 d b) (f32Mul v.rnd v.ftz) ∧
      runs (.shortFmaxF32 d b) (f32MinMax true v.ftz) ∧
      runs (.shortFminF32 d b) (f32MinMax false v.ftz)) ∧
    (LaneReady 2 s v 7 [d.toNat] [b.toNat] [] →
      LaneRuns s v (.shortMov d b) 7 d.toNat [b.toNat] [] (fun l => v.lane b.toNat l) fun _ => 0) ∧
    (LaneReady 2 s v 7 [d.toNat] [] [] →
      LaneRuns s v (.movi d i) 7 d.toNat [] [] (fun _ => i.signExtend 32) fun _ => 0) ∧
    (LaneReady 2 s v 7 [d.toNat] [d.toNat] [] →
      LaneRuns s v (.shortAddi d i) 7 d.toNat [d.toNat] [] (fun l => v.lane d.toNat l + i.signExtend 32) (fun _ => 0) ∧
      LaneRuns s v (.shortShli d i) 7 d.toNat [d.toNat] [] (fun l => v.lane d.toNat l <<< i.toNat) fun _ => 0)

/-- R84 to R88: the FP32 operations of FA and FB complete with the value and the flags of the operation under the executing slot's
rounding and flush. R91 to R94, R65 to R67: the FP32 functions and conversions of VU complete with the value and the flags of the
function. That `fscale` sets no FPIV for a signalling-NaN operand beside a quiet-NaN scale is the model's choice (log 33). -/
def Obligations.FloatLanes : Prop :=
  (∀ (s : State) (v : View) (g : BitVec 3) (d a b : BitVec 6) (x y : BitVec 1),
    (LaneReady 4 s v g.toNat [d.toNat] [a.toNat, b.toNat] [] →
      let runs (i : Instr) (f : Word → Word → FRes) : Prop :=
        LaneRuns s v i g.toNat d.toNat [a.toNat, b.toNat] (lastIf x a.toNat ++ lastIf y b.toNat)
          (fun l => (f (v.lane a.toNat l) (v.lane b.toNat l)).1) fun l => (f (v.lane a.toNat l) (v.lane b.toNat l)).2
      runs (.faddF32 g d a b x y) (f32Add v.rnd v.ftz) ∧
      runs (.fsubF32 g d a b x y) (f32Sub v.rnd v.ftz) ∧
      runs (.fmulF32 g d a b x y) (f32Mul v.rnd v.ftz) ∧
      runs (.fminF32 g d a b x y) (f32MinMax false v.ftz) ∧
      runs (.fmaxF32 g d a b x y) (f32MinMax true v.ftz) ∧
      runs (.packBf16x2 g d a b x y) (f32Pack v.ftz)) ∧
    (LaneReady 4 s v g.toNat [d.toNat] [a.toNat, b.toNat, d.toNat] [] →
      let runs (i : Instr) (f : Word → Word → Word → FRes) : Prop :=
        LaneRuns s v i g.toNat d.toNat [a.toNat, b.toNat, d.toNat] (lastIf x a.toNat ++ lastIf y b.toNat)
          (fun l => (f (v.lane a.toNat l) (v.lane b.toNat l) (v.lane d.toNat l)).1)
          fun l => (f (v.lane a.toNat l) (v.lane b.toNat l) (v.lane d.toNat l)).2
      runs (.ffmaF32 g d a b x y) (f32Fma v.rnd v.ftz) ∧
      runs (.ffmsF32 g d a b x y) (f32Fms v.rnd v.ftz)) ∧
    (LaneReady 4 s v g.toNat [d.toNat] [a.toNat] [b.toNat] →
      let runs (i : Instr) (f : Word → Word → FRes) : Prop :=
        LaneRuns s v i g.toNat d.toNat [a.toNat] (lastIf x a.toNat)
          (fun l => (f (v.lane a.toNat l) ((v.g.sval b.toNat).truncate 32)).1)
          fun l => (f (v.lane a.toNat l) ((v.g.sval b.toNat).truncate 32)).2
      runs (.faddF32Fb g d a b x) (f32Add v.rnd v.ftz) ∧
      runs (.fsubF32Fb g d a b x) (f32Sub v.rnd v.ftz) ∧
      runs (.fmulF32Fb g d a b x) (f32Mul v.rnd v.ftz) ∧
      runs (.fminF32Fb g d a b x) (f32MinMax false v.ftz) ∧
      runs (.fmaxF32Fb g d a b x) (f32MinMax true v.ftz) ∧
      runs (.fscaleF32 g d a b x) (f32Scale v.rnd v.ftz)) ∧
    (LaneReady 4 s v g.toNat [d.toNat] [a.toNat, d.toNat] [b.toNat] →
      let runs (i : Instr) (f : Word → Word → Word → FRes) : Prop :=
        LaneRuns s v i g.toNat d.toNat [a.toNat, d.toNat] (lastIf x a.toNat)
          (fun l => (f (v.lane a.toNat l) ((v.g.sval b.toNat).truncate 32) (v.lane d.toNat l)).1)
          fun l => (f (v.lane a.toNat l) ((v.g.sval b.toNat).truncate 32) (v.lane d.toNat l)).2
      runs (.ffmaF32Fb g d a b x) (f32Fma v.rnd v.ftz) ∧
      runs (.ffmsF32Fb g d a b x) (f32Fms v.rnd v.ftz))) ∧
  (∀ (s : State) (v : View) (g : BitVec 3) (d a : BitVec 6) (x : BitVec 1),
    LaneReady 4 s v g.toNat [d.toNat] [a.toNat] [] →
      let runs (i : Instr) (f : Word → FRes) : Prop :=
        LaneRuns s v i g.toNat d.toNat [a.toNat] (lastIf x a.toNat) (fun l => (f (v.lane a.toNat l)).1)
          fun l => (f (v.lane a.toNat l)).2
      runs (.fabs g d a x) (f32Abs v.ftz) ∧ runs (.fneg g d a x) (f32Neg v.ftz) ∧
      runs (.frcp g d a x) (f32Rcp v.rnd v.ftz) ∧ runs (.frsq g d a x) (f32Rsq v.ftz) ∧
      runs (.fsqrt g d a x) (f32Sqrt v.rnd v.ftz) ∧ runs (.fexp2 g d a x) (f32Exp2 v.ftz) ∧
      runs (.flog2 g d a x) (f32Log2 v.ftz) ∧ runs (.fsin g d a x) (f32SinCos false v.ftz) ∧
      runs (.fcos g d a x) (f32SinCos true v.ftz) ∧ runs (.ftanh g d a x) (f32Tanh v.ftz) ∧
      runs (.ffloor g d a x) (f32RoundInt 2 v.ftz) ∧ runs (.fceil g d a x) (f32RoundInt 3 v.ftz) ∧
      runs (.ftrunc g d a x) (f32RoundInt 1 v.ftz) ∧ runs (.frint g d a x) (f32RoundInt 0 v.ftz) ∧
      runs (.ffract g d a x) (f32Fract v.rnd v.ftz) ∧ runs (.fsat g d a x) (f32Sat v.ftz) ∧
      runs (.cvtF32S32 g d a x) (fun p => intToF32 p.toInt) ∧ runs (.cvtF32N32 g d a x) (fun p => intToF32 p.toNat) ∧
      runs (.cvtS32F32Rz g d a x) (f32ToInt 1 v.ftz (-2147483648) 2147483647) ∧
      runs (.cvtS32F32Rn g d a x) (f32ToInt 0 v.ftz (-2147483648) 2147483647) ∧
      runs (.cvtN32F32Rz g d a x) (f32ToInt 1 v.ftz 0 4294967295) ∧
      runs (.cvtBf16F32 g d a x) (f32Narrow bf16 v.ftz) ∧
      runs (.cvtF32Bf16Lo g d a x) (fun p => f32Widen bf16 v.ftz p.toNat) ∧
      runs (.cvtF32Bf16Hi g d a x) (fun p => f32Widen bf16 v.ftz (p.toNat / 65536)) ∧
      runs (.cvtF16F32 g d a x) (f32Narrow fp16 v.ftz) ∧
      runs (.cvtF32F16Lo g d a x) (fun p => f32Widen fp16 v.ftz p.toNat) ∧
      runs (.cvtF32F16Hi g d a x) (fun p => f32Widen fp16 v.ftz (p.toNat / 65536)) ∧
      runs (.cvtE4m3F32 g d a x) (f32Narrow e4m3 v.ftz) ∧
      runs (.cvtF32E4m3 g d a x) (fun p => f32Widen e4m3 v.ftz p.toNat) ∧
      runs (.cvtE5m2F32 g d a x) (f32Narrow e5m2 v.ftz) ∧
      runs (.cvtF32E5m2 g d a x) (fun p => f32Widen e5m2 v.ftz p.toNat))

/-- R84, R85: the FP32 sum, difference, product and fused forms are the exact value rounded once in the mode of the slot: nearest
even, toward zero, toward −∞ or toward +∞, with FPOF, FPUF and FPIX, tininess being judged after rounding with an unbounded
exponent; an exact zero sum is +0, or −0 toward −∞, and keeps the sign that its addends share; a zero product has the sign of its
factors. Under `%fm.ftz` a denormal operand counts as a zero of its sign, and a denormal result is replaced by one, with FPUF and
FPIX. -/
def Obligations.FloatRounding : Prop :=
  (∀ (rnd : Nat) (a b d : Word), rnd < 4 → Fin32 a → Fin32 b → Fin32 d →
    let zero (n1 n2 : Bool) : Word := if n1 = n2 then (if n1 then 0x80000000 else 0) else (if rnd = 2 then 0x80000000 else 0)
    let sum := units32 a + units32 b
    let product := units32 a * units32 b
    let sign : Bool := a.getLsbD 31 != b.getLsbD 31
    let fused := product + units32 d * 2 ^ 149
    (sum ≠ 0 → RoundsTo rnd 0 sum (f32Add rnd false a b)) ∧
    (sum = 0 → f32Add rnd false a b = (zero (a.getLsbD 31) (b.getLsbD 31), 0)) ∧
    (product ≠ 0 → RoundsTo rnd 149 product (f32Mul rnd false a b)) ∧
    (product = 0 → f32Mul rnd false a b = (if sign then 0x80000000 else 0, 0)) ∧
    (fused ≠ 0 → RoundsTo rnd 149 fused (f32Fma rnd false a b d)) ∧
    (fused = 0 → f32Fma rnd false a b d = (zero sign (d.getLsbD 31), 0))) ∧
  (∀ (rnd : Nat) (ftz : Bool) (a b d : Word),
    f32Sub rnd ftz a b = f32Add rnd ftz a (neg32 b) ∧ f32Fms rnd ftz a b d = f32Fma rnd ftz (neg32 a) b d) ∧
  ∀ (rnd : Nat) (a b d : Word),
    let flushed (kept out : Word × Flags) : Prop :=
      (flush32 kept.1 = kept.1 → out = kept) ∧ (flush32 kept.1 ≠ kept.1 → out = (flush32 kept.1, 12))
    flushed (f32Add rnd false (flush32 a) (flush32 b)) (f32Add rnd true a b) ∧
    flushed (f32Mul rnd false (flush32 a) (flush32 b)) (f32Mul rnd true a b) ∧
    flushed (f32Fma rnd false (flush32 a) (flush32 b) (flush32 d)) (f32Fma rnd true a b d)

/-- R63, R84, R85: what the FP32 sum, product and fused forms give for NaNs and infinities: the canonical NaN, with FPIV for a
signalling operand, for ∞ − ∞ and for 0 × ∞; else an infinity of its sign. R86: `fmin` and `fmax`. R91: the sign functions and the
roundings to an integer are exact. R65, R66, R67: a widening is exact; a narrowing gives the nearest value of its format, ties to
even, the largest where the value is beyond it; the conversions between FP32 and integers. R122: the relation of CMPF. -/
def Obligations.FloatValues : Prop :=
  (∀ (rnd : Nat) (a b d : Word),
    let inf (x : Word) : Prop := ¬ Fin32 x ∧ ¬ Nan32 x
    let sgn (x : Word) : Bool := x.getLsbD 31
    let infinite (neg : Bool) : Word × Flags := (if neg then 0xFF800000 else 0x7F800000, 0)
    let bad : Word × Flags := (0x7FC00000, 1)
    let nan (l : List Word) (r : Word × Flags) : Prop :=
      (∃ x ∈ l, Nan32 x) → r.1 = 0x7FC00000 ∧ ((∃ x ∈ l, Sig32 x) → r.2 = 1) ∧ ((∀ x ∈ l, ¬ Sig32 x) → r.2 = 0)
    let invalid : Prop := (inf a ∧ Fin32 b ∧ mag32 b = 0) ∨ (inf b ∧ Fin32 a ∧ mag32 a = 0)
    nan [a, b] (f32Add rnd false a b) ∧ nan [a, b] (f32Mul rnd false a b) ∧ (¬ invalid → nan [a, b, d] (f32Fma rnd false a b d)) ∧
    (inf a → inf b → f32Add rnd false a b = (if sgn a = sgn b then infinite (sgn a) else bad)) ∧
    (inf a → Fin32 b → f32Add rnd false a b = infinite (sgn a) ∧ f32Add rnd false b a = infinite (sgn a)) ∧
    (invalid → f32Mul rnd false a b = bad ∧ f32Fma rnd false a b d = bad) ∧
    (inf a ∨ inf b → ¬ Nan32 a → ¬ Nan32 b → ¬ invalid →
      f32Mul rnd false a b = infinite (sgn a != sgn b) ∧
      (Fin32 d → f32Fma rnd false a b d = infinite (sgn a != sgn b)) ∧
      (inf d → f32Fma rnd false a b d = (if sgn d = (sgn a != sgn b) then infinite (sgn d) else bad))) ∧
    (Fin32 a → Fin32 b → inf d → f32Fma rnd false a b d = infinite (sgn d))) ∧
  (∀ a b : Word,
    (¬ Nan32 a → ¬ Nan32 b → f32MinMax false false a b = (if order32 a ≤ order32 b then a else b, 0) ∧
      f32MinMax true false a b = (if order32 b ≤ order32 a then a else b, 0)) ∧
    (∀ isMax, (Nan32 a → ¬ Nan32 b → (f32MinMax isMax false a b).1 = b ∧ (f32MinMax isMax false b a).1 = b) ∧
      (Nan32 a → Nan32 b → (f32MinMax isMax false a b).1 = 0x7FC00000) ∧
      (Sig32 a ∨ Sig32 b → (f32MinMax isMax false a b).2 = 1) ∧ (¬ Sig32 a → ¬ Sig32 b → (f32MinMax isMax false a b).2 = 0) ∧
      f32MinMax isMax true a b = f32MinMax isMax false (flush32 a) (flush32 b)) ∧
    (∀ cond, cond < 4 → (¬ Nan32 a → ¬ Nan32 b →
        let lower (x y : Word) : Prop := order32 x < order32 y ∧ ¬ (natBits x.toNat 30 0 = 0 ∧ natBits y.toNat 30 0 = 0)
        (f32Cmp cond false a b).2 = 0 ∧ ((f32Cmp cond false a b).1 = true ↔
          (cond = 0 ∧ ¬ lower a b ∧ ¬ lower b a) ∨ (cond = 1 ∧ lower a b) ∨ (cond = 2 ∧ ¬ lower b a))) ∧
      (Nan32 a ∨ Nan32 b → (f32Cmp cond false a b).1 = decide (cond = 3)) ∧
      (Sig32 a ∨ Sig32 b → (f32Cmp cond false a b).2 = 1) ∧ (¬ Sig32 a → ¬ Sig32 b → (f32Cmp cond false a b).2 = 0) ∧
      f32Cmp cond true a b = f32Cmp cond false (flush32 a) (flush32 b))) ∧
  (∀ a : Word, (¬ Nan32 a → f32Abs false a = (a &&& 0x7FFFFFFF, 0) ∧ f32Neg false a = (neg32 a, 0)) ∧
    (Fin32 a →
      let one : Int := 2 ^ 149
      let whole (rnd : Nat) (n : Int) : Prop :=
        let r := f32RoundInt rnd false a
        Fin32 r.1 ∧ units32 r.1 = n * one ∧ r.1.getLsbD 31 = a.getLsbD 31 ∧ r.2 = 0
      let clamp (lo hi n : Int) : Word × Flags :=
        if n < lo then (BitVec.ofInt 32 lo, 1) else if hi < n then (BitVec.ofInt 32 hi, 1)
        else (BitVec.ofInt 32 n, if n * one = units32 a then 0 else 8)
      whole 2 (units32 a / one) ∧ whole 3 (-(-units32 a / one)) ∧ whole 1 ((units32 a).tdiv one) ∧
      (∀ n : Int, (2 * (units32 a - n * one).natAbs < 2 ^ 149 ∨ (2 * (units32 a - n * one).natAbs = 2 ^ 149 ∧ n % 2 = 0)) →
        whole 0 n ∧ ∀ lo hi, f32ToInt 0 false lo hi a = clamp lo hi n) ∧
      ∀ lo hi, f32ToInt 1 false lo hi a = clamp lo hi ((units32 a).tdiv one)) ∧
    ∀ rnd lo hi, (Nan32 a → f32ToInt rnd false lo hi a = (0, 1)) ∧
      (¬ Fin32 a → ¬ Nan32 a → f32ToInt rnd false lo hi a = (BitVec.ofInt 32 (if a.getLsbD 31 then lo else hi), 1))) ∧
  (∀ n : Int, n.natAbs < 2 ^ 32 → (n ≠ 0 → RoundsTo 0 0 (n * 2 ^ 149) (intToF32 n)) ∧ (n = 0 → intToF32 n = (0, 0))) ∧
  (bf16 = { eb := 8, mb := 7, bias := 127, hasInf := true, hasSig := true } ∧
   fp16 = { eb := 5, mb := 10, bias := 15, hasInf := true, hasSig := true } ∧
   e4m3 = { eb := 4, mb := 3, bias := 7, hasInf := false, hasSig := false } ∧
   e5m2 = { eb := 5, mb := 2, bias := 15, hasInf := true, hasSig := false }) ∧
  ∀ p ∈ [(bf16, 0x7FC0), (fp16, 0x7E00), (e4m3, 0x7F), (e5m2, 0x7E)],
    let f := p.1
    let wide (q : Nat) : Word := (f32Widen f false q).1
    (∀ q, q < 2 ^ (1 + f.eb + f.mb) →
      let e := natBits q (f.eb + f.mb - 1) f.mb
      let m := q % 2 ^ f.mb
      let top : Prop := e = 2 ^ f.eb - 1 ∧ (f.hasInf = true ∨ m = 2 ^ f.mb - 1)
      (¬ top → f32Widen f false q = (wide q, 0) ∧ Fin32 (wide q) ∧ (wide q).getLsbD 31 = natBit q (f.eb + f.mb) ∧
        mag32 (wide q) = (if e = 0 then m * 2 ^ (150 - f.bias - f.mb) else (2 ^ f.mb + m) * 2 ^ (149 + e - f.bias - f.mb))) ∧
      (top → m = 0 → f32Widen f false q = (if natBit q (f.eb + f.mb) then 0xFF800000 else 0x7F800000, 0)) ∧
      (top → m ≠ 0 → f32Widen f false q = (0x7FC00000, if f.hasSig = true ∧ natBit m (f.mb - 1) = false then 1 else 0))) ∧
    (∀ w : Word, Fin32 w →
      let r := f32Narrow f false w
      let off (q : Nat) : Nat := (mag32 (wide q) - mag32 w) + (mag32 w - mag32 (wide q))
      r.1.toNat < 2 ^ (1 + f.eb + f.mb) ∧ natBit r.1.toNat (f.eb + f.mb) = w.getLsbD 31 ∧ Fin32 (wide r.1.toNat) ∧
      (∀ q, q < 2 ^ (f.eb + f.mb) → Fin32 (wide q) → off r.1.toNat ≤ off q ∧
        (off q = off r.1.toNat → mag32 (wide q) ≠ mag32 (wide r.1.toNat) → r.1.getLsbD 0 = false)) ∧
      (r.2.getLsbD 3 = true ↔ mag32 (wide r.1.toNat) ≠ mag32 w)) ∧
    (∀ w : Word, (Nan32 w → (f32Narrow f false w).1.toNat = p.2 ∧ (Sig32 w → (f32Narrow f false w).2 = 1) ∧
        (¬ Sig32 w → (f32Narrow f false w).2 = 0)) ∧
      (¬ Fin32 w → ¬ Nan32 w →
        let sign := if w.getLsbD 31 then 2 ^ (f.eb + f.mb) else 0
        (f.hasInf = true → f32Narrow f false w = (BitVec.ofNat 32 (sign + (2 ^ f.eb - 1) * 2 ^ f.mb), 0)) ∧
        (f.hasInf = false → f32Narrow f false w = (BitVec.ofNat 32 (sign + 0x7E), 10))) ∧
      ∀ ftz, f32Narrow f true w = f32Narrow f ftz (flush32 w))

/-- R95, R118: `sel` and `bcast`. R118: `shfl` and `shfl.x` read the source in the lane that the index names where that lane is
active, else in the own lane; `wrlane` writes one lane, where it acts. -/
def Obligations.LaneMoves : Prop :=
  (∀ (s : State) (v : View) (g n : BitVec 3) (d a b : BitVec 6) (x y : BitVec 1),
    (LaneReady 4 s v g.toNat [d.toNat] [a.toNat, b.toNat] [] →
      LaneRuns s v (.sel g d a b x y n) g.toNat d.toNat [a.toNat, b.toNat] (lastIf x a.toNat ++ lastIf y b.toNat)
        (fun l => if n = 7 ∨ (v.g.pred n.toNat).getLsbD l then v.lane a.toNat l else v.lane b.toNat l) fun _ => 0) ∧
    (LaneReady 4 s v g.toNat [d.toNat] [] [a.toNat] →
      LaneRuns s v (.bcast g d a) g.toNat d.toNat [] [] (fun _ => (v.g.sval a.toNat).truncate 32) fun _ => 0)) ∧
  (∀ (s : State) (v : View) (g : BitVec 3) (d a b : BitVec 6) (x y : BitVec 1),
    (let runs (i : Instr) (lane : Nat → Nat → Nat) : Prop :=
      let source (l : Nat) : Nat :=
        if v.sl.mask.getLsbD (lane l (v.lane b.toNat l).toNat) then lane l (v.lane b.toNat l).toNat else l
      LaneReady 4 s v g.toNat [d.toNat] [a.toNat, b.toNat] [] →
      (∀ l, l < 64 → (v.acting g.toNat).getLsbD l = true → ∀ c, v.g.lane? a.toNat (source l) = some c → c.st = .full) →
        LaneRuns s v i g.toNat d.toNat [a.toNat, b.toNat] (lastIf x a.toNat ++ lastIf y b.toNat)
          (fun l => v.lane a.toNat (source l)) fun _ => 0
    runs (.shfl g d a b x y) (fun _ k => k % 64 % v.width) ∧
    runs (.shflX g d a b x y) (fun l k => Nat.xor l (k % 64) % 64 % v.width)) ∧
    let one : DWord := v.acting g.toNat &&& ((1 : DWord) <<< ((v.g.sval b.toNat).toNat % 64 % v.width))
    Executes 4 s v → Named v [d.toNat] [a.toNat, b.toNat] → (v.acting g.toNat ≠ 0 → ScalarsFull v [a.toNat, b.toNat]) →
      Served v one [d.toNat] →
      ∃ t, exec (.wrlane g d a b) s = .next t ∧
        LaneResult v t one [(d.toNat, fun _ => (v.g.sval a.toNat).truncate 32)] [] 0)

/-! ## Across lanes -/

/-- R119, R111: `rdlane` marks s[d] empty and completes; the value of the lane named, 0 where it is not active, arrives later. R118,
R120: `ballot`, the exact sum of `redi` and the tree sum of `redf` go into a scalar; the tree adds the values of the lanes in pairs,
the sums in pairs, and so on, each rounded to nearest even, an inactive lane counting as +0, with the flags of every addition. That
a vacant source sets VAC there, and in `rdlane`, is the model's choice (log 33). -/
def Obligations.Reductions : Prop :=
  (∀ (s : State) (v : View) (g : BitVec 3) (d a b : BitVec 6) (x : BitVec 1),
    let k := (v.g.sval b.toNat).toNat % 64 % v.width
    let val : DWord := if v.sl.mask.getLsbD k then (v.lane a.toNat k).zeroExtend 64 else 0
    Executes 4 s v → Named v [a.toNat] [d.toNat, b.toNat] →
      (v.g.cpred g.toNat = true → ScalarsFull v [b.toNat] ∧
        (v.sl.mask.getLsbD k = true → ∀ c, v.g.lane? a.toNat k = some c → c.st = .full) →
        ∃ h, Completes (.rdlane g d a b x) s v
            (State.due { v.s with nextTag := v.s.nextTag + 1 } (.loadDataArrival v.gid v.s.nextTag)) v.next h ∧
          h = { v.g with scalars := h.scalars, vregs := h.vregs, arriving := h.arriving,
                         gstat := v.g.gstat ||| vacBits v.g (if v.sl.mask.getLsbD k then [k] else []) [a.toNat] } ∧
          (d.toNat ≠ 0 → (h.scalar d.toNat).st = .empty v.s.nextTag) ∧ (∀ r, r ≠ d.toNat → h.scalar r = v.g.scalar r) ∧
          (∀ r l, h.lane? r l = if x = 1 ∧ r = a.toNat then none else v.g.lane? r l) ∧
          tblGet? h.arriving v.s.nextTag = some [{ reg := d.toNat, lane := 64, val := val, poison := 0 }]) ∧
      (v.g.cpred g.toNat = false → Writes (.rdlane g d a b x) s v v.g)) ∧
  (∀ (s : State) (v : View) (g m : BitVec 3) (d a : BitVec 6) (x : BitVec 1),
    (ScalarReady s v g.toNat [d.toNat] [] →
      CRuns (.ballot g d m) s v g.toNat v.s v.next (v.g.setScalar d.toNat (v.sl.mask &&& v.g.pred m.toNat))) ∧
    (Executes 4 s v → Named v [a.toNat] [d.toNat] → (v.g.cpred g.toNat = true → LanesFull v v.sl.mask [a.toNat]) →
      CRuns (.redi g d a x) s v g.toNat v.s v.next
        (((v.g.setScalar d.toNat (BitVec.ofInt 64 ((lanesOf v.sl.mask).map fun l => (v.lane a.toNat l).toInt).sum)).freeLast
          (lastIf x a.toNat) []).raise (vacBits v.g (lanesOf v.sl.mask) [a.toNat])) ∧
      CRuns (.redf g d a x) s v g.toNat v.s v.next
        (((v.g.setScalar d.toNat ((treeSum v a.toNat).1.zeroExtend 64)).freeLast (lastIf x a.toNat) []).raise
          (vacBits v.g (lanesOf v.sl.mask) [a.toNat] ||| flagBits (treeSum v a.toNat).2)))) ∧
  ∀ (v : View) (a : Nat) (sum : Nat → Nat → Word × Flags),
    (∀ l, sum 0 l = (if v.sl.mask.getLsbD l then v.lane a l else 0, 0)) →
    (∀ k i, sum (k + 1) i =
      let x := sum k (2 * i)
      let y := sum k (2 * i + 1)
      ((f32Add 0 v.ftz x.1 y.1).1, (f32Add 0 v.ftz x.1 y.1).2 ||| x.2 ||| y.2)) →
      treeSum v a = sum v.g.w0 0

/-- R121 to R123: the lane compares write p[p] and p[q] in the lanes that the ctype's row of the table names; where a lane's guard
is false only `unc` writes, both 0. The destination named second is written last. R122, R123: `cmpq` compares two scalars into c[p]
and c[q]; where its guard is false only `unc` writes, both 0. R35, R122: the relations of the conditions, and the rows of R123's
table. That a compare into p7 alone reads its sources all the same is the model's choice (log 33). -/
def Obligations.Compares : Prop :=
  (∀ (s : State) (v : View) (g p q : BitVec 3) (a b : BitVec 6) (t : BitVec 3) (c : BitVec 2),
    let runs (i : Instr) (rel : Word → Word → Bool × Flags) : Prop :=
      let write (l : Nat) : Option Bool × Option Bool :=
        if (v.acting g.toNat).getLsbD l then combine t.toNat (rel (v.lane a.toNat l) (v.lane b.toNat l)).1
        else if v.sl.mask.getLsbD l ∧ t.toNat = 1 then (some false, some false) else (none, none)
      Executes 4 s v → Named v [a.toNat, b.toNat] [] → LanesFull v (v.acting g.toNat) [a.toNat, b.toNat] →
        ∃ h, Writes i s v h ∧
          h = { v.g with preds := h.preds, damage := h.damage,
                         gstat := v.g.gstat |||
                           flagBits (anyFlags (lanesOf (v.acting g.toNat)) fun l => (rel (v.lane a.toNat l) (v.lane b.toNat l)).2) } ∧
          (∀ x ∈ h.damage, x ∈ v.g.damage) ∧
          ∀ k l, k < 7 → l < 64 → (h.pred k).getLsbD l =
            ((if k = q.toNat then (write l).2 else none).or (if k = p.toNat then (write l).1 else none)).getD ((v.g.pred k).getLsbD l)
    (∀ (h : Group) (l : Nat), l < 64 → (h.pred 7).getLsbD l = true) ∧
    runs (.cmps g p q a b t c) (fun m n => (relSigned c.toNat m n, 0)) ∧
    runs (.cmpn g p q a b t c) (fun m n => (relUnsigned c.toNat m n, 0)) ∧
    runs (.cmpf g p q a b t c) (f32Cmp c.toNat v.ftz)) ∧
  (∀ (s : State) (v : View) (g p q : BitVec 3) (a b : BitVec 6) (t : BitVec 3) (c : BitVec 2),
    ScalarReady s v g.toNat [] [a.toNat, b.toNat] →
      let r := combine t.toNat (relScalar c.toNat (v.g.sval a.toNat) (v.g.sval b.toNat))
      let write : Option Bool × Option Bool :=
        if v.g.cpred g.toNat then r else if t.toNat = 1 then (some false, some false) else (none, none)
      ∃ h, Writes (.cmpq g p q a b t c) s v h ∧ h = { v.g with c := h.c, damage := h.damage } ∧ (∀ x ∈ h.damage, x ∈ v.g.damage) ∧
        ∀ k, k < 7 → h.cpred k =
          ((if k = q.toNat then write.2 else none).or (if k = p.toNat then write.1 else none)).getD (v.g.cpred k)) ∧
  ((∀ a b : Word, relSigned 0 a b = decide (a = b) ∧ relSigned 1 a b = decide (a.toInt < b.toInt) ∧
    relSigned 2 a b = decide (a.toInt ≤ b.toInt) ∧ relSigned 3 a b = decide (a &&& b ≠ 0) ∧
    relUnsigned 0 a b = decide (a = b) ∧ relUnsigned 1 a b = decide (a.toNat < b.toNat) ∧
    relUnsigned 2 a b = decide (a.toNat ≤ b.toNat) ∧ relUnsigned 3 a b = decide (a &&& b ≠ 0)) ∧
  (∀ a b : DWord, relScalar 0 a b = decide (a = b) ∧ relScalar 1 a b = decide (a.toInt < b.toInt) ∧
    relScalar 2 a b = decide (a.toInt ≤ b.toInt) ∧ relScalar 3 a b = decide (a.toNat < b.toNat)) ∧
  ∀ r : Bool,
    combine 0 r = (some r, some !r) ∧ combine 1 r = (some r, some !r) ∧
    combine 2 r = (if r then (none, none) else (some false, some false)) ∧
    combine 3 r = (if r then (some true, some true) else (none, none)) ∧
    combine 4 r = (if r then (some true, some false) else (none, none)) ∧
    combine 5 r = (if r then (none, none) else (some false, some true)) ∧
    combine 6 r = (some r, none))

/-! ## Scalars -/

/-- R112 to R115: the scalar operations of SR complete with the value of the table in s[d], where the group guard is true. R116,
R117: the scalar forms with an immediate. R114: division by 0 gives all ones with remainder a, -2^63 by -1 gives -2^63 with
remainder 0, and otherwise quotient and remainder make up the dividend. -/
def Obligations.ScalarOperations : Prop :=
  (∀ (s : State) (v : View) (g : BitVec 3) (d a b : BitVec 6),
    (ScalarReady s v g.toNat [d.toNat] [a.toNat, b.toNat] →
      let p := v.g.sval a.toNat
      let q := v.g.sval b.toNat
      let runs (i : Instr) (r : DWord) : Prop := CRuns i s v g.toNat v.s v.next (v.g.setScalar d.toNat r)
      runs (.addSr g d a b) (p + q) ∧ runs (.subSr g d a b) (p - q) ∧ runs (.mulSr g d a b) (p * q) ∧
      runs (.mulhSSr g d a b) (BitVec.ofInt 64 (p.toInt * q.toInt / 2 ^ 64)) ∧
      runs (.mulhNSr g d a b) (BitVec.ofNat 64 (p.toNat * q.toNat / 2 ^ 64)) ∧
      runs (.andSr g d a b) (p &&& q) ∧ runs (.orSr g d a b) (p ||| q) ∧ runs (.xorSr g d a b) (p ^^^ q) ∧
      runs (.andnSr g d a b) (p &&& ~~~q) ∧
      runs (.shlSr g d a b) (p <<< (q.toNat % 64)) ∧ runs (.shrNSr g d a b) (p >>> (q.toNat % 64)) ∧
      runs (.shrSSr g d a b) (p.sshiftRight (q.toNat % 64)) ∧
      runs (.minSSr g d a b) (if p.toInt < q.toInt then p else q) ∧
      runs (.maxSSr g d a b) (if p.toInt < q.toInt then q else p) ∧
      runs (.minNSr g d a b) (if p.toNat < q.toNat then p else q) ∧
      runs (.maxNSr g d a b) (if p.toNat < q.toNat then q else p) ∧
      runs (.divSSr g d a b) (if q = 0 then ~~~0 else BitVec.ofInt 64 (p.toInt.tdiv q.toInt)) ∧
      runs (.divNSr g d a b) (if q = 0 then ~~~0 else BitVec.ofNat 64 (p.toNat / q.toNat)) ∧
      runs (.remSSr g d a b) (if q = 0 then p else BitVec.ofInt 64 (p.toInt.tmod q.toInt)) ∧
      runs (.remNSr g d a b) (if q = 0 then p else BitVec.ofNat 64 (p.toNat % q.toNat)) ∧
      ∀ r : DWord,
        (∀ k, k < 64 → r.getLsbD k =
          if k ≤ q.toNat / 256 % 64 then p.getLsbD (q.toNat % 64 + k)
          else q.getLsbD 16 && p.getLsbD (q.toNat % 64 + q.toNat / 256 % 64)) →
        runs (.bfx g d a b) r) ∧
    (ScalarReady s v g.toNat [d.toNat] [a.toNat] →
      let p := v.g.sval a.toNat
      let runs (i : Instr) (r : DWord) : Prop := CRuns i s v g.toNat v.s v.next (v.g.setScalar d.toNat r)
      runs (.movSr g d a) p ∧
      runs (.popcSr g d a) (BitVec.ofNat 64 ((List.range 64).filter fun k => p.getLsbD k).length) ∧
      ∀ n, n ≤ 64 → (∀ k, k < 64 → 64 - n ≤ k → p.getLsbD k = false) → (n < 64 → p.getLsbD (63 - n) = true) →
        runs (.clzSr g d a) (BitVec.ofNat 64 n))) ∧
  (∀ (s : State) (v : View) (g : BitVec 3) (d a j : BitVec 6) (i : BitVec 8) (k : BitVec 15),
    (ScalarReady s v g.toNat [d.toNat] [a.toNat] →
      let p := v.g.sval a.toNat
      let runs (i : Instr) (r : DWord) : Prop := CRuns i s v g.toNat v.s v.next (v.g.setScalar d.toNat r)
      runs (.addiSi g d a i) (p + i.signExtend 64) ∧ runs (.muliSi g d a i) (p * i.signExtend 64) ∧
      runs (.andiSi g d a i) (p &&& i.zeroExtend 64) ∧ runs (.oriSi g d a i) (p ||| i.zeroExtend 64) ∧
      runs (.xoriSi g d a i) (p ^^^ i.zeroExtend 64) ∧ runs (.shliSi g d a j) (p <<< j.toNat) ∧
      runs (.shriNSi g d a j) (p >>> j.toNat) ∧ runs (.shriSSi g d a j) (p.sshiftRight j.toNat)) ∧
    (ScalarReady s v g.toNat [d.toNat] [] →
      CRuns (.li g d k) s v g.toNat v.s v.next (v.g.setScalar d.toNat (k.signExtend 64))) ∧
    (ScalarReady s v g.toNat [d.toNat] [d.toNat] →
      CRuns (.lis g d k) s v g.toNat v.s v.next (v.g.setScalar d.toNat ((v.g.sval d.toNat <<< 15) ||| k.zeroExtend 64)) ∧
      CRuns (.addis g d k) s v g.toNat v.s v.next (v.g.setScalar d.toNat (v.g.sval d.toNat + k.signExtend 64 * 32768)))) ∧
  ((∀ a : DWord, divSigned a 0 = ~~~0 ∧ divUnsigned a 0 = ~~~0 ∧ remSigned a 0 = a ∧ remUnsigned a 0 = a) ∧
  divSigned (BitVec.ofInt 64 (-2 ^ 63)) (BitVec.ofInt 64 (-1)) = BitVec.ofInt 64 (-2 ^ 63) ∧
  remSigned (BitVec.ofInt 64 (-2 ^ 63)) (BitVec.ofInt 64 (-1)) = 0 ∧
  (∀ a b : DWord, b ≠ 0 → a = divUnsigned a b * b + remUnsigned a b ∧ (remUnsigned a b).toNat < b.toNat) ∧
  ∀ a b : DWord, b ≠ 0 → a = divSigned a b * b + remSigned a b ∧ (remSigned a b).toInt.natAbs < b.toInt.natAbs ∧
    (remSigned a b ≠ 0 → ((remSigned a b).toInt < 0 ↔ a.toInt < 0)))

/-- R23, R111: s0 reads 0, is never empty and discards writes; p7 and c7 read true and discard writes; a write to another register
reads back and leaves the others as they were. -/
def Obligations.HardwiredRegisters : Prop :=
  ∀ g : Group,
    (∀ x, (g.setScalar 0 x) = g) ∧ g.scalar 0 = { val := 0, st := .full } ∧ (∀ t, g.emptyScalar 0 t = g) ∧
    (∀ r x q, r ≠ 0 → (g.setScalar r x).scalar q = if q = r then { val := x, st := .full } else g.scalar q) ∧
    g.cpred 7 = true ∧ (∀ b, g.setC 7 b = g) ∧
    (∀ k b j, k < 7 → j < 7 → (g.setC k b).cpred j = if j = k then b else g.cpred j) ∧
    (∀ l, l < 64 → (g.pred 7).getLsbD l = true) ∧ (∀ m x, g.setPred 7 m x = g) ∧
    ∀ k m x j l, k < 7 → j < 7 → l < 64 →
      ((g.setPred k m x).pred j).getLsbD l = if j = k ∧ m.getLsbD l = true then x.getLsbD l else (g.pred j).getLsbD l

/-! ## Control flow -/

/-- R28, R29, R124, R125: branches, calls and returns go on at their target where their guard is true: an offset counts halfwords
from the instruction; a call leaves the address behind it in s62; `jmpr` ends handler mode. A branch on a predicate that the active
lanes disagree on traps BRDIV with the lanes that take it; that its record names no lane is the model's choice (log 33). R29, R125,
R126: a target whose bit 0 is set traps ALIGN, else one at 2^56 or above traps ADDR, with the target as the address; of `brxr` the
target is checked first, then the rejoin register; nothing is written. -/
def Obligations.Branches : Prop :=
  (∀ (s : State) (v : View) (g : BitVec 3) (o : BitVec 22) (a : BitVec 6),
    let goal : DWord := BitVec.ofInt 64 ((v.sl.pc.toNat : Int) + 2 * o.toInt)
    let good (t : DWord) : Prop := t.toNat % 2 = 0 ∧ t.toNat < 2 ^ 56
    (Executes 4 s v →
      (v.acting g.toNat = v.sl.mask → Completes (.braP g o) s v v.s goal v.g) ∧
      (v.acting g.toNat = 0 → v.sl.mask ≠ 0 → Writes (.braP g o) s v v.g) ∧
      (v.acting g.toNat ≠ v.sl.mask → v.acting g.toNat ≠ 0 → Traps (.braP g o) s v causeBRDIV noLane (v.acting g.toNat) 0 0) ∧
      CRuns (.braC g o) s v g.toNat v.s goal v.g ∧
      CRuns (.call g o) s v g.toNat v.s goal (v.g.setScalar 62 (v.sl.pc + 4))) ∧
    (ScalarReady s v g.toNat [] [a.toNat] → good (v.g.sval a.toNat) →
      CRuns (.jmpr g a) s v g.toNat v.s (v.g.sval a.toNat) (leaveHandler v.g v.sl.mask) ∧
      CRuns (.callr g a) s v g.toNat v.s (v.g.sval a.toNat) (v.g.setScalar 62 (v.sl.pc + 4))) ∧
    (Executes 4 s v → (v.g.cpred g.toNat = true → ScalarsFull v [62]) → good (v.g.sval 62) →
      CRuns (.ret g) s v g.toNat v.s (v.g.sval 62) v.g)) ∧
  (∀ (s : State) (v : View) (g : BitVec 3) (a : BitVec 6) (r : Nat) (i : Instr),
    (i, r) ∈ [(.jmpr g a, a.toNat), (.callr g a, a.toNat), (.ret g, 62)] → Executes 4 s v → Named v [] [r] →
      v.g.cpred g.toNat = true → ScalarsFull v [r] →
      let t := v.g.sval r
      (t.toNat % 2 = 1 → Traps i s v causeALIGN noLane v.sl.mask t 0) ∧
      (t.toNat % 2 = 0 → 2 ^ 56 ≤ t.toNat → Traps i s v causeADDR noLane v.sl.mask t 0)) ∧
  ∀ (s : State) (v : View) (g : BitVec 3) (a b : BitVec 6),
    Executes 4 s v → Named v [] [a.toNat, b.toNat] → ScalarsFull v [a.toNat, b.toNat] →
      let t := v.g.sval a.toNat
      let j := v.g.sval b.toNat
      let bad (x : DWord) (cause : Nat) : Prop :=
        (x.toNat % 2 = 1 ∧ cause = causeALIGN) ∨ (x.toNat % 2 = 0 ∧ 2 ^ 56 ≤ x.toNat ∧ cause = causeADDR)
      (∀ cause, bad t cause → Traps (.brxr g a b) s v cause noLane (v.acting g.toNat) t 0) ∧
      (t.toNat % 2 = 0 → t.toNat < 2 ^ 56 → ∀ cause, bad j cause →
        Traps (.brxr g a b) s v cause noLane (v.acting g.toNat) j 0)

/-- R126, R127: `brx` and `brxr`. Where every active lane, or none, is taken the split goes on there; where the lanes disagree the
taken half goes on at the target with a new record, the other half stands behind the branch in the other slot, or spilled where that
slot is live, and SPLITOVF traps where the split stack has no room; the record takes the lowest free index, and the record and the
half the lowest free entries of the split stack, which is the model's choice (log 13). R128: `join` passes by where the split's
record does not name it; the split that completes its record goes on behind it with the record's lanes, `%fm` and outer record;
another half ends there. -/
def Obligations.DivergeAndJoin : Prop :=
  (∀ (s : State) (v : View) (g : BitVec 3) (o : BitVec 12) (j : BitVec 11) (a b : BitVec 6),
    let runs (i : Instr) (l join : DWord) : Prop :=
      let t := v.acting g.toNat
      let f := v.sl.mask &&& ~~~t
      let other := v.g.slot (!v.slotB)
      let room := 32 * ((v.g.records.length + 1 - 2) + v.g.spilled.length + if other.isSome then 1 else 0) ≤ wbStack v.wb
      let k := tblNext v.g.records
      let g1 : Group := { v.g with records := tblSet v.g.records k { j := join, union := v.sl.mask, arrived := 0, fm := v.sl.fm,
                                                                      outer := v.sl.link, index := v.g.freeIndex,
                                                                      entry := v.g.freeEntry, soft := false } }
      let half : Split := { Split.start v.next f v.sl.fm with link := some k, entry := g1.freeEntry }
      (f = 0 → Completes i s v v.s l v.g) ∧ (f ≠ 0 → t = 0 → Writes i s v v.g) ∧
      (f ≠ 0 → t ≠ 0 → room →
        ∃ u h, exec i s = .next u ∧ EndsAs v { v.sl with mask := t, link := some k } v.s l u
          (if other.isSome then { g1 with spilled := g1.spilled ++ [half] } else g1.setSlot (!v.slotB) (some half)) ∧
          u.group? v.gid = some h ∧ half ∈ h.allSplits ∧ (other = none → h.slot (!v.slotB) = some half)) ∧
      (f ≠ 0 → t ≠ 0 → ¬ room → Traps i s v causeSPLITOVF noLane t 0 (BitVec.ofNat 64 (wbStack v.wb)))
    (Executes 4 s v →
      runs (.brx g o j) (BitVec.ofInt 64 ((v.sl.pc.toNat : Int) + 2 * o.toInt)) (v.sl.pc + BitVec.ofNat 64 (2 * j.toNat))) ∧
    (Executes 4 s v → Named v [] [a.toNat, b.toNat] → ScalarsFull v [a.toNat, b.toNat] →
      (v.g.sval a.toNat).toNat % 2 = 0 → (v.g.sval a.toNat).toNat < 2 ^ 56 → (v.g.sval b.toNat).toNat % 2 = 0 →
      (v.g.sval b.toNat).toNat < 2 ^ 56 → runs (.brxr g a b) (v.g.sval a.toNat) (v.g.sval b.toNat))) ∧
  (∀ (s : State) (v : View), Executes 4 s v →
    ((v.sl.link = none ∨ ∃ k r, v.sl.link = some k ∧ tblGet? v.g.records k = some r ∧ r.j ≠ v.sl.pc) →
      Writes .join s v v.g) ∧
    ∀ k r, v.sl.link = some k → tblGet? v.g.records k = some r → r.j = v.sl.pc →
      (r.union &&& ~~~(r.arrived ||| v.sl.mask ||| v.g.exited) = 0 →
        ∃ t, exec .join s = .next t ∧
          EndsAs v { v.sl with mask := r.union &&& ~~~v.g.exited, fm := r.fm, link := r.outer, run := 0 } v.s (v.sl.pc + 4) t
            { v.g with records := tblErase v.g.records k }) ∧
      (r.union &&& ~~~(r.arrived ||| v.sl.mask ||| v.g.exited) ≠ 0 →
        exec .join s = .next (v.s.setGroup v.gid
          (Group.setSlot { v.g with records := tblSet v.g.records k { r with arrived := r.arrived ||| v.sl.mask }, active := true }
            v.slotB none).balance)))

/-! ## Traps -/

/-- R147: the fields of the 64-byte trap record. R383, R395: a group whose waybill asks for its handler, and that is not in it,
enters it where no other group of its context is in handler mode: the record is written, the trapping split goes on at the handler
with s60 holding the record's address, the other slot stands still, and nothing else of the machine changes. That the record stands
behind the windows and the split stack in the private area is the model's choice (log 13). R383: the first `jmpr` that the handler
split executes ends handler mode. R386, R145, R395, R399: without a handler, or while a group of the context is in it, a trap faults
its context: the record is written, the split stands at the trapping instruction, the first trap of a running context notes the
core, the group and the cause, with the event due, the areas of the context's groups that have trapped are kept, and a pre-emption
halt of its crews ends. R148: the context's other groups may go on until each has reached its halt: that this is when it traps, or
the step of the fault event, is the model's choice (log 14). R385: a consumed UCE or SOFT in an idempotent region restarts the group
instead of trapping, three times at most. -/
def Obligations.HandlersAndFaults : Prop :=
  (∀ (g : Group) (sl : Split) (slotB : Bool) (enc : Word) (cause lane : Nat) (acting addr detail : DWord),
    cause < 2 ^ 16 → lane < 2 ^ 8 → g.splits < 2 ^ 16 →
      let r := trapRecord g sl slotB enc cause lane acting addr detail
      r.length = 64 ∧ fieldAt r 0 8 = sl.pc.toNat ∧ fieldAt r 8 4 = enc.toNat ∧ fieldAt r 12 2 = cause ∧ fieldAt r 14 1 = lane ∧
      fieldAt r 15 1 = (if slotB then 1 else 0) ∧ fieldAt r 16 8 = sl.mask.toNat ∧ fieldAt r 24 8 = acting.toNat ∧
      fieldAt r 32 8 = addr.toNat ∧ fieldAt r 40 8 = detail.toNat ∧ fieldAt r 48 8 = g.gstat.toNat ∧
      fieldAt r 56 4 = sl.fm.toNat ∧ fieldAt r 60 2 = g.splits ∧ fieldAt r 62 2 = 0) ∧
  (∀ (s : State) (gid : Nat) (g : Group) (sl : Split) (slotB : Bool) (enc : Word) (cause lane : Nat) (acting addr detail : DWord),
    restarts g cause = false → wbHandler (s.groupWb g) = true → g.handler = none → s.handling (s.ctxOf g) gid = false →
    g.slot slotB = some sl →
      let u := takeTrap s gid g sl slotB enc cause lane acting addr detail
      ∃ h, u.group? gid = some h ∧ u = { s with groups := u.groups } ∧ (∀ k, k ≠ gid → u.group? k = s.group? k) ∧
        h = { g with slotA := h.slotA, slotB := h.slotB, scalars := h.scalars, trapRec := h.trapRec, handler := h.handler } ∧
        h.trapRec = trapRecord g sl slotB enc cause lane acting addr detail ∧
        h.handler = some { slotB := slotB, other := (g.slot (!slotB)).isSome, lanes := sl.mask } ∧ (∀ b, h.frozen b = ((g.slot (!slotB)).isSome && slotB != b)) ∧
        h.slot slotB = some { sl with pc := s.handlerOf g, wait := .none, waitCount := 0, since := none, verdicts := [] } ∧
        h.slot (!slotB) = g.slot (!slotB) ∧
        h.scalar 60 = { val := g.privBase + BitVec.ofNat 64 (trapOffset (s.groupWb g) g.width), st := .full } ∧
        ∀ r, r ≠ 60 → h.scalar r = g.scalar r) ∧
  ((∀ (g : Group) (m : DWord), g.handler = none → leaveHandler g m = g) ∧
  ∀ (g : Group) (m : DWord) (h : Handler), g.handler = some h →
    (h.lanes &&& m ≠ 0 → leaveHandler g m = { g with handler := none } ∧ ∀ k, (leaveHandler g m).frozen k = false) ∧
    (h.lanes &&& m = 0 → leaveHandler g m = g)) ∧
  (∀ (s : State) (gid : Nat) (g : Group) (sl : Split) (slotB : Bool) (enc : Word) (cause lane : Nat) (acting addr detail : DWord),
    restarts g cause = false → (wbHandler (s.groupWb g) = false ∨ g.handler ≠ none ∨ s.handling (s.ctxOf g) gid = true) →
      let u := takeTrap s gid g sl slotB enc cause lane acting addr detail
      (∃ h, u.group? gid = some h ∧
        h = { g with slotA := h.slotA, slotB := h.slotB, trapRec := h.trapRec, keep := h.keep } ∧
        h.trapRec = trapRecord g sl slotB enc cause lane acting addr detail ∧
        h.slot slotB = some { sl with wait := .none, waitCount := 0, since := none, verdicts := [] } ∧
        h.slot (!slotB) = g.slot (!slotB) ∧ ((s.context? (s.ctxOf g)).isSome = true → h.keep = true)) ∧
      (∀ k, k ≠ gid → u.group? k = (s.group? k).map fun x =>
        if (s.context? (s.ctxOf g)).isSome = true ∧ s.ctxOf x = s.ctxOf g ∧ x.trapRec ≠ [] then { x with keep := true } else x) ∧
      (∀ k, u.crew? k = (s.crew? k).map fun x =>
        if (s.context? (s.ctxOf g)).isSome = true ∧ ctxOfKey x.launch = s.ctxOf g ∧ x.res = .halting then { x with res := .ending }
        else x) ∧
      u = { s with groups := u.groups, crews := u.crews, contexts := u.contexts, agenda := u.agenda } ∧
      (∀ c, s.context? (s.ctxOf g) = some c → c.st = .running →
        u.context? (s.ctxOf g) = some { c with st := .faulted, fault := some (s.coreOf g, g.index, cause), unhalted :=
          (s.groups.filter fun x => s.ctxOf x.2 == s.ctxOf g && x.1 != gid).map fun x => x.1 } ∧
        u.agenda = s.agenda ++ [.faultEventPost (s.ctxOf g)]) ∧
      (∀ c, s.context? (s.ctxOf g) = some c → c.st ≠ .running →
        u.context? (s.ctxOf g) = some { c with unhalted := c.unhalted.filter fun k => k != gid } ∧ u.agenda = s.agenda) ∧
      ∀ k, k ≠ s.ctxOf g → u.context? k = s.context? k) ∧
  (∀ (s : State) (ctx gid : Nat) (c : Context), s.context? ctx = some c →
    (s.goesOn ctx gid = true ↔ c.st = .running ∨ (c.st = .faulted ∧ gid ∈ c.unhalted))) ∧
  (∀ (s : State) (gid : Nat) (g : Group) (sl : Split) (slotB : Bool) (enc : Word) (cause lane : Nat) (acting addr detail : DWord),
    (restarts g cause = true ↔ (cause = causeUCE ∨ cause = causeSOFT) ∧ ∃ r, g.region = some r ∧ r.restarts < 3) ∧
    (restarts g cause = true → takeTrap s gid g sl slotB enc cause lane acting addr detail =
      (s.setGroup gid { g with restart := true }).due (.idempotentRestart gid)))

/-- R46: a pattern that is not an instruction traps ILLEGAL, with no acting lane. R16: an instruction of which a halfword cannot be
fetched traps with that halfword's address and the cause that a load of it would have; where its translation is held the split waits
and the page is requested. The pc stays at the instruction. R16, R101, R102, R284, R399: the causes: ADDR at 2^56 or above, in the
reserved page, at a malformed entry and at an unlisted peer, PERM in the private range and where the leaf does not permit execution,
UCE at an uncorrectable byte; an entry that is not valid holds the fetch, unless the host has refused the page: ADDR then. That
these traps name no acting lane is the model's reading (log 16). -/
def Obligations.FetchStops : Prop :=
  (∀ (s : State) (core gid : Nat) (slotB : Bool) (g : Group) (x : Split),
    let half (t : State) (va : Nat) : Fetched := t.fetchHalf core (s.ctxOf g) gid slotB x.pc va x.verdicts
    let stops (t : State) (c : Nat) (va : DWord) (w : Word) : Prop :=
      s.fetch core gid slotB g x = .run (t.modGroup gid Group.fetchedAll) w (.instructionFetchFault c va w)
    (∀ t c, half s x.pc.toNat = .fault t c → stops t c x.pc 0) ∧
    (∀ t h u c, half s x.pc.toNat = .half t h → h.getLsbD 0 = true → half t (x.pc + 2).toNat = .fault u c →
      stops u c (x.pc + 2) (h.zeroExtend 32)) ∧
    ∀ va,
      let r := s.route core (s.ctxOf g) va 2 .exec x.verdicts
      let l1 (l : Leaf) (pa : Nat) := r.1.l1Load core (s.ctxOf g) va 2 pa hintNorm (r.1.regionOf (s.ctxOf g) va l).1 l .exec
      (2 ^ 56 ≤ va → half s va = .fault s causeADDR) ∧
      (va < 2 ^ 56 →
        (∀ c, r.2 = .cause c → half s va = .fault r.1 c) ∧ (∀ p, r.2 = .held p → half s va = .fault r.1 0) ∧
        (∀ l pa, r.2 = .mem l pa → (r.1.regionOf (s.ctxOf g) va l).1 ≠ regionWeir →
          ((l1 l pa).2.2 = true → half s va = .fault (l1 l pa).1 causeUCE) ∧
          ((l1 l pa).2.2 = false → half s va = .half (l1 l pa).1 (BitVec.ofNat 16 (leNat (l1 l pa).2.1)))) ∧
        (inReservedPage va = true → r.2 = .cause causeADDR) ∧
        (inReservedPage va = false → inPrivateRange va = true → r.2 = .cause causePERM) ∧
        (inReservedPage va = false → inPrivateRange va = false → s.l1Hit core (s.ctxOf g) va 2 .exec = none →
          (∀ t, s.translate core (s.ctxOf g) va .exec = (t, .broken) → r.2 = .cause causeADDR) ∧
          (∀ t, s.translate core (s.ctxOf g) va .exec = (t, .absent) →
            ((∀ y ∈ x.verdicts, y.1.covers va = false) → r.2 = .held (smallPage va)) ∧
            (x.verdicts.any (fun y => y.1.covers va) = true → (∀ y ∈ x.verdicts, y.2 = false) → r.2 = .cause causeADDR)) ∧
          ∀ t l, s.translate core (s.ctxOf g) va .exec = (t, .leaf l) →
            (pteX l.pte = false → r.2 = .cause causePERM) ∧
            (pteX l.pte = true → pteRm l.pte = true → t.peerOf (s.ctxOf g) l va = none → r.2 = .cause causeADDR) ∧
            (pteX l.pte = true → pteRm l.pte = false → r.2 = .mem l (leafPa l va))))) ∧
  ∀ (s : State) (v : View) (w : Word) (cause : Nat) (at_ : DWord), viewOf 4 s = some v →
    exec (.illegalEncoding w) s = .next (takeTrap v.s v.gid v.g v.sl v.slotB w causeILLEGAL noLane 0 0 0) ∧
    (cause ≠ 0 →
      exec (.instructionFetchFault cause at_ w) s = .next (takeTrap v.s v.gid v.g v.sl v.slotB w cause noLane 0 at_ 0)) ∧
    exec (.instructionFetchFault 0 at_ w) s = .next
      ((v.s.setGroup v.gid (v.g.setSlot v.slotB (some (sleepSplit (v.s.coreSt v.core).cycle v.sl (.hold false))))).requestPages
        v.ctx [(at_.toNat, smallPage at_.toNat)])

/-- R17, R79, R206: what the lane forms with one or two vector sources do instead of executing (the 16-bit forms, and those with a
scalar source, are not said here). A register outside the waybill's counts traps ILLEGAL, whatever the guard. While an acting lane
of a source is empty the split waits, or under FETRAP it traps EMPTY, naming the lowest empty lane; a poisoned or damaged lane
traps, naming the lowest one. -/
def Obligations.SourcesNotReady : Prop :=
  ∀ (s : State) (v : View) (g : BitVec 3) (d a b : BitVec 6) (x y : BitVec 1) (i8 : BitVec 8) (i5 : BitVec 5) (i : Instr)
    (vs : List Nat),
    Executes 4 s v →
    (vs = [a.toNat] ∧ i ∈
      [.mov g d a x, .not g d a x, .negI32 g d a x, .absI32 g d a x, .popc g d a x, .clz g d a x, .brev g d a x, .sext8 g d a x,
      .sext16 g d a x, .fabs g d a x, .fneg g d a x, .frcp g d a x, .frsq g d a x, .fsqrt g d a x, .fexp2 g d a x,
      .flog2 g d a x, .fsin g d a x, .fcos g d a x, .ftanh g d a x, .ffloor g d a x, .fceil g d a x, .ftrunc g d a x,
      .frint g d a x, .ffract g d a x, .fsat g d a x, .cvtF32S32 g d a x, .cvtF32N32 g d a x, .cvtS32F32Rz g d a x,
      .cvtS32F32Rn g d a x, .cvtN32F32Rz g d a x, .cvtBf16F32 g d a x, .cvtF32Bf16Lo g d a x, .cvtF32Bf16Hi g d a x,
      .cvtF16F32 g d a x, .cvtF32F16Lo g d a x, .cvtF32F16Hi g d a x, .cvtE4m3F32 g d a x, .cvtF32E4m3 g d a x,
      .cvtE5m2F32 g d a x, .cvtF32E5m2 g d a x]) ∨
    (vs = [a.toNat] ∧ i ∈
      [.addi g d a i8, .muli g d a i8, .andi g d a i8, .ori g d a i8, .xori g d a i8] ++
      [.shli g d a i5, .shriN32 g d a i5, .shriS32 g d a i5]) ∨
    (vs = [a.toNat, b.toNat] ∧ i ∈
      [.addI32 g d a b x y, .subI32 g d a b x y, .mulI32 g d a b x y, .mulhS32 g d a b x y, .mulhN32 g d a b x y,
      .minS32 g d a b x y, .maxS32 g d a b x y, .minN32 g d a b x y, .maxN32 g d a b x y, .and g d a b x y, .or g d a b x y,
      .xor g d a b x y, .shl g d a b x y, .shrN32 g d a b x y, .shrS32 g d a b x y, .faddF32 g d a b x y, .fsubF32 g d a b x y,
      .fmulF32 g d a b x y, .fminF32 g d a b x y, .fmaxF32 g d a b x y, .packBf16x2 g d a b x y]) ∨
    (vs = [a.toNat, b.toNat, d.toNat] ∧ i ∈
      [.madI32 g d a b x y, .ffmaF32 g d a b x y, .ffmsF32 g d a b x y]) →
      let acting := v.acting g.toNat
      (¬ Named v (d.toNat :: vs) [] → Traps i s v causeILLEGAL noLane 0 0 0) ∧
      (Named v (d.toNat :: vs) [] → ∀ l, l < 64 → acting.getLsbD l = true →
        ((∀ k, k < l → acting.getLsbD k = true → ∀ r ∈ vs, v.g.laneEmpty r k = false) → (∃ r ∈ vs, v.g.laneEmpty r l = true) →
          (v.g.fetrap = false → Sleeps i s v .source) ∧
          (v.g.fetrap = true → ∃ r ∈ vs, v.g.laneEmpty r l = true ∧ Traps i s v causeEMPTY l acting 0 (BitVec.ofNat 64 r))) ∧
        ((∀ k, k < 64 → acting.getLsbD k = true → ∀ r ∈ vs, v.g.laneEmpty r k = false) →
          (∀ k, k < l → acting.getLsbD k = true → ∀ r ∈ vs, v.g.lanePoison r k = none) → (∃ r ∈ vs, v.g.lanePoison r l ≠ none) →
          ∃ r ∈ vs, ∃ c, v.g.lane? r l = some c ∧
            ((∃ dzw addr, c.st = .poisoned dzw addr ∧ Traps i s v (if dzw then causeDZW else causeUCE) l acting addr 0) ∨
             (c.st = .damaged ∧ Traps i s v causeSOFT l acting 0 1))))

/-! ## Trap, yield and exit -/

/-- R131: `trap` traps BRK with bit 16 set and its immediate in the detail; a false guard leaves it without effect. R132, R196,
R197: `yield` moves its core's pointer at the split's effective priority to the split. R130: `exit` ends the acting lanes once their
accesses are performed at the scope. With no acting lane it changes nothing; a split with lanes left goes on with them; the group's
final exit, once its engine operations have ended, leaves its slot and makes the completion of the group due. An exit that leaves
lanes in the group completes the lane phases and the crew barriers that waited for the exiting lanes alone (R244, R245); a split
that has ended with its lanes takes up the record that it completes, the innermost that still stands, and else leaves its slot idle.
R382: a failure of a remote store that is pending traps DZW under ASYNCTRAP, and counts as settled otherwise; so does, at the final
exit, a failure of a batch. That the remote stores come first, the earliest of them before the others, is the model's reading (log
22). -/
def Obligations.TrapYieldExit : Prop :=
  (∀ (s : State) (v : View) (g : BitVec 3) (i : BitVec 8), Executes 4 s v →
    (v.g.cpred g.toNat = true → Traps (.trap g i) s v causeBRK noLane v.sl.mask 0 (BitVec.ofNat 64 (0x10000 + i.toNat))) ∧
    (v.g.cpred g.toNat = false → Writes (.trap g i) s v v.g)) ∧
  (∀ (s : State) (v : View) (g : BitVec 3) (i : BitVec 8), Executes 4 s v →
    CRuns (.yield g i) s v g.toNat
      (v.s.modCore v.core fun c =>
        { c with pointer := tblSet c.pointer (min 127 (wbPriority v.wb + v.sl.waitCount / 4096)) (v.g.index, v.slotB) })
      v.next v.g) ∧
  ∀ (s : State) (v : View) (g sc : BitVec 3), Executes 4 s v →
    let x := v.acting g.toNat
    let p := performAt v sc.toNat
    let final := fullMask v.width &&& ~~~(v.g.exited ||| x) = 0
    let settled := v.g.dzwDue = [] ∨ v.g.asynctrap = false
    let left : Group := { v.g with exited := v.g.exited ||| x, records := exitRecords x v.g.records, dzwDue := [],
                                   handler := v.g.handler.filter fun h => h.lanes &&& ~~~(v.g.exited ||| x) != 0 }
    (x = 0 → Writes (.exit g sc) s v v.g) ∧
    (x ≠ 0 → ∀ a r, v.g.dzwDue = a :: r → v.g.asynctrap = true → exec (.exit g sc) s =
      .next (takeTrap v.s v.gid { v.g with dzwDue := r } v.sl v.slotB v.enc causeDZW noLane x a 0)) ∧
    (x ≠ 0 → settled → p.2 = true → exec (.exit g sc) s = .next (settleStop v p.1 v.g (.wait .ack))) ∧
    (x ≠ 0 → settled → p.2 = false → ¬ final → v.sl.mask &&& ~~~x ≠ 0 → v.g.lanePhase = none →
      (∀ c, p.1.crew? v.g.crew = some c → c.bars = []) →
        let h := p.1.keepWatch v.gid left
        ∃ t, exec (.exit g sc) s = .next t ∧ EndsAs v { v.sl with mask := v.sl.mask &&& ~~~x } (p.1.setGroup v.gid h) v.next t h) ∧
    (x ≠ 0 → settled → p.2 = false → ¬ final →
      let after (h : Group) : State × Group :=
        let s1 := (p.1.setGroup v.gid (p.1.keepWatch v.gid h.recheckLanes)).recheckBars (some v.gid) v.g.crew
        (s1, (s1.group? v.gid).getD (p.1.keepWatch v.gid h.recheckLanes))
      let done (w : DWord × Split) (h : Group) : Prop :=
        ∃ t, exec (.exit g sc) s = .next t ∧ EndsAs v w.2 (after h).1 w.1 t (after h).2
      let k := standing v.g.records left.records (v.g.records.length + 1) v.sl.link
      let complete (r : Rejoin) : Prop := r.union &&& ~~~r.arrived = 0
      (v.sl.mask &&& ~~~x ≠ 0 → done (v.next, { v.sl with mask := v.sl.mask &&& ~~~x }) left) ∧
      (v.sl.mask &&& ~~~x = 0 → ∀ i r, k = some i → tblGet? left.records i = some r → complete r →
        done (r.j + 4, { v.sl with mask := r.union &&& ~~~left.exited, fm := r.fm, link := r.outer })
          { left with records := tblErase left.records i }) ∧
      (v.sl.mask &&& ~~~x = 0 → (∀ i r, k = some i → tblGet? left.records i = some r → ¬ complete r) →
        exec (.exit g sc) s = .next ((after left).1.setGroup v.gid ((after left).1.keepWatch v.gid
          (Group.setSlot { (after left).2 with active := true } v.slotB none).balance)))) ∧
    (x ≠ 0 → settled → p.2 = false → final →
      let out (matrix : Bool) : Bool := p.1.opsOut v.core v.gid matrix fun _ => true
      let h := p.1.keepWatch v.gid { left with failures := [], active := true }
      (out false = true ∨ out true = true → exec (.exit g sc) s = .next (settleStop v p.1 v.g (.wait .final))) ∧
      (out false = false → out true = false → v.g.asynctrap = true → ∀ f, earliest v.g.failures = some f →
        exec (.exit g sc) s = .next (settleStop v p.1
          { v.g with dzwDue := [], failures := v.g.failures.filter fun y => decide (y ≠ f) }
          (.trap f.cause noLane x f.addr f.detail))) ∧
      (out false = false → out true = false → v.g.asynctrap = false ∨ v.g.failures = [] → v.sl.mask = x → v.sl.link = none →
        exec (.exit g sc) s = .next ((p.1.due (.groupCompletion v.gid)).setGroup v.gid (h.setSlot v.slotB none).balance)))

/-! ## Scratch and private memory -/

/-- R11, R98: a byte read after bytes have been written is the byte written there, else the byte from before; every write keeps the
canonical form; a value reads back from its little-endian bytes. R78, R99: the register words of loaded bytes: bytes and halfwords
are extended, wider values fill the registers in ascending order, each word little-endian. -/
def Obligations.MemoryBytes : Prop :=
  ((∀ (m : Memory) (a x : Nat) (b : List Byte), memRead (memWriteBytes m a b) x =
    if a ≤ x ∧ x < a + b.length then b.getD (x - a) 0 else memRead m x) ∧
  (∀ (m : Memory) (a : Nat) (b : List Byte), memWf m = true → memWf (memWriteBytes m a b) = true) ∧
  (∀ (m : Memory) (a n k : Nat), k < n → (memReadBytes m a n).getD k 0 = memRead m (a + k)) ∧
  ∀ v n : Nat, leNat (leBytes v n) = v % 256 ^ n) ∧
  (∀ (m : Memory) (a : Nat),
    let word (k : Nat) : Word := memRead m (a + 4 * k + 3) ++ memRead m (a + 4 * k + 2) ++ memRead m (a + 4 * k + 1) ++
      memRead m (a + 4 * k)
    loadWords false 1 (memReadBytes m a 1) = [(memRead m a).zeroExtend 32] ∧
    loadWords true 1 (memReadBytes m a 1) = [(memRead m a).signExtend 32] ∧
    loadWords false 2 (memReadBytes m a 2) = [(memRead m (a + 1) ++ memRead m a : BitVec 16).zeroExtend 32] ∧
    loadWords true 2 (memReadBytes m a 2) = [(memRead m (a + 1) ++ memRead m a : BitVec 16).signExtend 32] ∧
    loadWords false 4 (memReadBytes m a 4) = [word 0] ∧ loadWords false 8 (memReadBytes m a 8) = [word 0, word 1] ∧
    loadWords false 16 (memReadBytes m a 16) = [word 0, word 1, word 2, word 3])

/-- R98, R99, R108, R109: scratch and private loads inside their window, aligned, mark their destinations empty and have the bytes
at zext(v[a]) + imm8 × size on their way; a byte with an uncorrectable error poisons its lane (R104). A scratch load changes nothing
else. A private load reads the lane's own window through the core's L1 (R287): the bytes of a line that holds them, else, once the
line has its place, those of the group's private area. R99, R104, R111: an arrival fills every register or scalar that still awaits
it, poisons it where the access failed, wakes the splits that wait for sources, and changes nothing else. -/
def Obligations.WindowLoadsAndArrivals : Prop :=
  (∀ (s : State) (v : View) (g : BitVec 3) (d a : BitVec 6) (i : BitVec 8) (c : Crew),
    let acting := v.acting g.toNat
    let runs (e : Instr) (n size : Nat) (out : State × List Arriving) : Prop :=
      let addr (l : Nat) : Nat := (v.lane a.toNat l).toNat + i.toNat * n
      LaneReady 4 s v g.toNat (regsOf d.toNat n) [a.toNat] [] → v.s.crew? v.g.crew = some c →
      (∀ l, l < 64 → acting.getLsbD l = true → addr l % n = 0 ∧ addr l + n ≤ size) →
        (acting = 0 → Writes e s v v.g) ∧
        (acting ≠ 0 → Issues e s v out.1 acting (regsOf d.toNat n) out.2
          { v.g with gstat := v.g.gstat ||| vacBits v.g (lanesOf acting) [a.toNat] })
    let lds (e : Instr) (n : Nat) (signed : Bool) : Prop :=
      runs e n (wbScratch v.wb) (v.s, ((lanesOf acting).map fun l =>
        let x := (v.lane a.toNat l).toNat + i.toNat * n
        arrivals d.toNat l signed n (memReadBytes c.scratch x n)
          (if c.scratchBad.any fun y => decide (x ≤ y) && decide (y < x + n) then 1 else 0)).flatten)
    let ldp (e : Instr) (n : Nat) : Prop :=
      runs e n (wbPrivate v.wb)
        (v.windowLoads d.toNat n v.s ((lanesOf acting).map fun l => (l, (v.lane a.toNat l).toNat + i.toNat * n)))
    lds (.ldsN8 g d a i) 1 false ∧ lds (.ldsS8 g d a i) 1 true ∧ lds (.ldsN16 g d a i) 2 false ∧ lds (.ldsS16 g d a i) 2 true ∧
    lds (.ldsB32 g d a i) 4 false ∧ lds (.ldsB64 g d a i) 8 false ∧ lds (.ldsB128 g d a i) 16 false ∧
    ldp (.ldpB32 g d a i) 4 ∧ ldp (.ldpB64 g d a i) 8 ∧ ldp (.ldpB128 g d a i) 16) ∧
  (∀ (s : State) (v : View) (d n lane x : Nat) (r : List (Nat × Nat)),
    let va := v.g.privBase.toNat + lane * wbPrivate v.wb + x
    let one := s.areaLoad v.core v.ctx v.gid va n hintNorm
    let line := areaLine v.ctx (va / 128)
    let place := (s.touch line (some v.core) hintNorm).ensureLine v.core v.ctx (va / 128) line (areaLeaf (va / 128)) false
    0 < n → va % 128 + n ≤ 128 →
      v.windowLoads d n s ((lane, x) :: r) = ((v.windowLoads d n one.1 r).1,
        arrivals d lane false n one.2.1 (if one.2.2 then 1 else 0) ++ (v.windowLoads d n one.1 r).2) ∧
      (∀ y, (s.coreSt v.core).find v.ctx (va / 128) = some y → y.covers (va % 128) n = true →
        one.2 = (y.read (va % 128) n, y.bad (va % 128) n)) ∧
      ((s.coreSt v.core).find v.ctx (va / 128) = none → (∃ g, place.1.group? v.gid = some g ∧ g.privBase = v.g.privBase) →
        v.g.privBase.toNat % 128 = 0 → one.2 = (place.1.areaRead v.gid va n, place.1.areaBad v.gid va n))) ∧
  ∀ (s : State) (gid tag : Nat) (g : Group) (l : List Arriving), s.group? gid = some g → tblGet g.arriving tag [] = l →
    g.swapped = false →
      ∃ h, exec (.loadDataArrival gid tag) s = .next (s.setGroup gid h) ∧
        h = { g with scalars := h.scalars, vregs := h.vregs, gstat := h.gstat, arriving := tblErase g.arriving tag,
                     slotA := h.slotA, slotB := h.slotB, spilled := h.spilled, active := true } ∧
        h.gstat = (if l.any fun a => a.poison == 2 then g.gstat ||| bitDZWERR else g.gstat) ∧
        (∀ r k a, k < 64 → (g.lane? r k).map LaneCell.st = some (.empty tag) →
          (l.find? fun a => a.reg == r && a.lane == k) = some a → h.lane? r k =
            some { val := a.val.truncate 32, st := arrivedSt a.poison (if a.poison = 2 then a.val else 0) }) ∧
        (∀ r k, (l.find? fun a => a.reg == r && a.lane == k) = none ∨ (g.lane? r k).map LaneCell.st ≠ some (.empty tag) →
          h.lane? r k = g.lane? r k) ∧
        (∀ r a, r ≠ 0 → (g.scalar r).st = .empty tag → (l.find? fun a => a.reg == r && a.lane == 64) = some a → h.scalar r =
          { val := a.val, st := arrivedSt a.poison (if a.poison = 2 then a.val else 0) }) ∧
        (∀ r, (l.find? fun a => a.reg == r && a.lane == 64) = none ∨ (g.scalar r).st ≠ .empty tag → h.scalar r = g.scalar r) ∧
        ∀ b, h.slot b = (g.slot b).map fun x => if x.wait = .source then { x with wait := .none } else x

/-- R98, R100, R103, R108: a scratch store inside the window, aligned, writes the low bytes of its registers, byte k from register d
+ k / 4; where lanes store to one byte the highest lane's remains; every other byte of scratch is unchanged, and so is every other
memory; a byte that is written loses its poison. R109, R287: a private store inside the lane's window, aligned, writes the bytes of
each lane in ascending order into the core's L1: they are dirty and intact there, a load of them reads them, and every other byte of
the private areas and of global memory stays as it was, but for dirty bytes that the L1 writes back. That the line of a private byte
is named so in the L1 is the model's choice (log 13). -/
def Obligations.WindowStores : Prop :=
  (∀ (s : State) (v : View) (g : BitVec 3) (d a : BitVec 6) (i : BitVec 8) (c : Crew),
    let acting := v.acting g.toNat
    let runs (e : Instr) (n : Nat) : Prop :=
      let addr (l : Nat) : Nat := (v.lane a.toNat l).toNat + i.toNat * n
      let stores (x l : Nat) : Prop := l < 64 ∧ acting.getLsbD l = true ∧ addr l ≤ x ∧ x < addr l + n
      let byte (l k : Nat) : Byte := ((v.lane (d.toNat + k / 4) l) >>> (8 * (k % 4))).truncate 8
      Executes 4 s v → Named v (a.toNat :: regsOf d.toNat n) [] → LanesFull v acting (a.toNat :: regsOf d.toNat n) →
      v.s.crew? v.g.crew = some c →
      (∀ l, l < 64 → acting.getLsbD l = true → addr l % n = 0 ∧ addr l + n ≤ wbScratch v.wb) →
        ∃ s1 c1, Completes e s v s1 v.next (v.g.raise (vacBits v.g (lanesOf acting) (a.toNat :: regsOf d.toNat n))) ∧
          CrewChange v.s s1 v.g.crew c c1 ∧ c1 = { c with scratch := c1.scratch, scratchBad := c1.scratchBad } ∧
          (∀ x l, stores x l → (∀ k, stores x k → k ≤ l) → memRead c1.scratch x = byte l (x - addr l)) ∧
          (∀ x, (∀ l, ¬ stores x l) → memRead c1.scratch x = memRead c.scratch x) ∧
          ∀ x, x ∈ c1.scratchBad ↔ x ∈ c.scratchBad ∧ ∀ l, ¬ stores x l
    runs (.stsB8 g d a i) 1 ∧ runs (.stsB16 g d a i) 2 ∧ runs (.stsB32 g d a i) 4 ∧ runs (.stsB64 g d a i) 8 ∧
    runs (.stsB128 g d a i) 16) ∧
  (∀ (s : State) (v : View) (g : BitVec 3) (d a : BitVec 6) (i : BitVec 8),
    let acting := v.acting g.toNat
    let runs (e : Instr) (n : Nat) : Prop :=
      let addr (l : Nat) : Nat := (v.lane a.toNat l).toNat + i.toNat * n
      let byte (l k : Nat) : Byte := ((v.lane (d.toNat + k / 4) l) >>> (8 * (k % 4))).truncate 8
      Executes 4 s v → Named v (a.toNat :: regsOf d.toNat n) [] → LanesFull v acting (a.toNat :: regsOf d.toNat n) →
      (∀ l, l < 64 → acting.getLsbD l = true → addr l % n = 0 ∧ addr l + n ≤ wbPrivate v.wb) →
        Completes e s v
          ((lanesOf acting).foldl (fun u l => u.areaStores v.core v.ctx (v.g.privBase.toNat + l * wbPrivate v.wb + addr l)
            ((List.range n).map (byte l))) v.s) v.next (v.g.raise (vacBits v.g (lanesOf acting) (a.toNat :: regsOf d.toNat n)))
    runs (.stpB32 g d a i) 4 ∧ runs (.stpB64 g d a i) 8 ∧ runs (.stpB128 g d a i) 16) ∧
  ∀ (s : State) (core ctx gid va : Nat) (b : List Byte), b ≠ [] → va % 128 + b.length ≤ 128 →
    let t := s.areaStores core ctx va b
    let line := areaLine ctx (va / 128)
    (∀ k, k < b.length → t.Dirty core (va / 128) line (va % 128 + k) (b.getD k 0)) ∧
    (t.areaLoad core ctx gid va b.length hintNorm).2 = (b, false) ∧ AreasKept s t ∧
    OnlyBytes (fun a => 128 * line + va % 128 ≤ a ∧ a < 128 * line + va % 128 + b.length) s t

/-- R98, R101, R109, R230: an access of the scratch space, or of the lane's private window, that is not aligned traps ALIGN, else
one outside the window traps ADDR, at the lowest lane that fails, with its address; nothing is accessed. R98, R101, R102, R143,
R233: a global load, store or atomic with a lane that may not access its address traps, with the cause and the address of the lowest
such lane; where no lane traps and the translation of some is held, the split waits and the pages of these lanes are requested. R98,
R101, R171, R283, R284, R399: the causes: ALIGN; ADDR at 2^56 or above, in the reserved page, outside the private areas of the
context, at a malformed entry and at an unlisted peer; PERM where the leaf or the private range denies the access, or a remote page
does not carry the operation; a copy-on-write page holds a write, and an entry that is not valid holds any access. -/
def Obligations.AccessTraps : Prop :=
  (∀ (s : State) (v : View) (g : BitVec 3) (d a : BitVec 6) (i : BitVec 8) (l : Nat),
    let acting := v.acting g.toNat
    let stops (ready : Prop) (e : Instr) (n size imm : Nat) : Prop :=
      let addr (l : Nat) : Nat := (v.lane a.toNat l).toNat + imm
      let fits (l : Nat) : Prop := addr l % n = 0 ∧ addr l + n ≤ size
      ready → l < 64 → acting.getLsbD l = true → ¬ fits l → (∀ k, k < l → acting.getLsbD k = true → fits k) →
        Traps e s v (if addr l % n ≠ 0 then causeALIGN else causeADDR) l acting (BitVec.ofNat 64 (addr l)) 0
    let load (e : Instr) (n size : Nat) : Prop :=
      stops (LaneReady 4 s v g.toNat (regsOf d.toNat n) [a.toNat] []) e n size (i.toNat * n)
    let store (e : Instr) (n size : Nat) : Prop :=
      stops (Executes 4 s v ∧ Named v (a.toNat :: regsOf d.toNat n) [] ∧ LanesFull v acting (a.toNat :: regsOf d.toNat n)) e n size
        (i.toNat * n)
    let scratch := wbScratch v.wb
    let own := wbPrivate v.wb
    load (.ldsN8 g d a i) 1 scratch ∧ load (.ldsS8 g d a i) 1 scratch ∧ load (.ldsN16 g d a i) 2 scratch ∧
    load (.ldsS16 g d a i) 2 scratch ∧ load (.ldsB32 g d a i) 4 scratch ∧ load (.ldsB64 g d a i) 8 scratch ∧
    load (.ldsB128 g d a i) 16 scratch ∧ load (.ldpB32 g d a i) 4 own ∧ load (.ldpB64 g d a i) 8 own ∧
    load (.ldpB128 g d a i) 16 own ∧ store (.stsB8 g d a i) 1 scratch ∧ store (.stsB16 g d a i) 2 scratch ∧
    store (.stsB32 g d a i) 4 scratch ∧ store (.stsB64 g d a i) 8 scratch ∧ store (.stsB128 g d a i) 16 scratch ∧
    store (.stpB32 g d a i) 4 own ∧ store (.stpB64 g d a i) 8 own ∧ store (.stpB128 g d a i) 16 own ∧
    ∀ (o : BitVec 2) (sc : BitVec 3) (n w : BitVec 1),
      let atom (e : Instr) (f : AtomForm) : Prop :=
        stops (Executes 4 s v ∧ Named v (f.resultRegs ++ f.a :: f.valueRegs) [] ∧ LanesFull v acting (f.a :: f.valueRegs) ∧
          Served v acting f.resultRegs ∧ (ordReleases f.ord = true → v.g.dzwDue = [] ∨ v.g.asynctrap = false)) e f.n scratch 0
      let form (op : AtomOp) : AtomForm := atomForm op d a o sc (n == 1) (w == 1)
      let half (op : AtomOp) : AtomForm := atomForm op d a o sc (n == 1) false
      atom (.atomsAdd g d a o sc n w) (form .add) ∧ atom (.atomsMinS g d a o sc n w) (form .minS) ∧
      atom (.atomsMaxS g d a o sc n w) (form .maxS) ∧ atom (.atomsMinN g d a o sc n w) (form .minN) ∧
      atom (.atomsMaxN g d a o sc n w) (form .maxN) ∧ atom (.atomsAnd g d a o sc n w) (form .and) ∧
      atom (.atomsOr g d a o sc n w) (form .or) ∧ atom (.atomsXor g d a o sc n w) (form .xor) ∧
      atom (.atomsXchg g d a o sc n w) (form .xchg) ∧ atom (.atomsCas g d a o sc n w) (form .cas) ∧
      atom (.atomsFaddF32 g d a o sc n) (half .fadd) ∧ atom (.atomsFminF32 g d a o sc n) (half .fmin) ∧
      atom (.atomsFmaxF32 g d a o sc n) (half .fmax) ∧ atom (.atomsLd g d a o sc w) (atomForm .ld d a o sc false (w == 1)) ∧
      atom (.atomsSt g d a o sc n w) (atomForm .st d a o sc true (w == 1))) ∧
  (∀ (s : State) (v : View) (g : BitVec 3) (p : BitVec 2) (d o a b : BitVec 6) (sc : BitVec 5) (r : BitVec 1),
    let acting := v.acting g.toNat
    let pair (r l : Nat) : Nat := (v.lane (r + 1) l).toNat * 2 ^ 32 + (v.lane r l).toNat
    let stops (ready : Prop) (e : Instr) (c : State × List (Nat × Nat × Route)) : Prop :=
      ready →
        (∀ l va k, firstCause c.2 = some (l, va, k) →
          exec e s = .next (settleStop v c.1 v.g (.trap k l acting (BitVec.ofNat 64 va) 0))) ∧
        (firstCause c.2 = none → heldAddrs c.2 ≠ [] → exec e s = .next (settleStop v c.1 v.g (.hold (heldAddrs c.2))))
    let base (l : Nat) : Nat := (v.g.sval sc.toNat).toNat + (v.lane o.toNat l).toNat
    let load (e : Instr) (n : Nat) : Prop :=
      stops (LaneReady 4 s v g.toNat (regsOf d.toNat n) [o.toNat] [sc.toNat]) e (Fates v n .load acting base)
    let store (e : Instr) (n : Nat) : Prop :=
      stops (Executes 4 s v ∧ Named v (o.toNat :: regsOf d.toNat n) [sc.toNat] ∧ LanesFull v acting (o.toNat :: regsOf d.toNat n) ∧
        (acting ≠ 0 → ScalarsFull v [sc.toNat])) e (Fates v n .store acting base)
    load (.ldgN8 g p d o sc r) 1 ∧ load (.ldgS8 g p d o sc r) 1 ∧ load (.ldgN16 g p d o sc r) 2 ∧ load (.ldgS16 g p d o sc r) 2 ∧
    load (.ldgB32 g p d o sc r) 4 ∧ load (.ldgB64 g p d o sc r) 8 ∧ load (.ldgB128 g p d o sc r) 16 ∧
    store (.stgB8 g p d o sc r) 1 ∧ store (.stgB16 g p d o sc r) 2 ∧ store (.stgB32 g p d o sc r) 4 ∧
    store (.stgB64 g p d o sc r) 8 ∧ store (.stgB128 g p d o sc r) 16 ∧
    stops (LaneReady 4 s v g.toNat [d.toNat] [a.toNat, a.toNat + 1] [b.toNat]) (.ldw g d a b) (Fates v 4 .load acting (pair a.toNat)) ∧
    (ScalarReady s v g.toNat [d.toNat] [a.toNat] → v.g.cpred g.toNat = true →
      let va := (v.g.sval a.toNat).toNat + 8 * b.toNat
      let c := v.s.fateOf v.core v.ctx va 8 .load v.sl.verdicts
      (∀ k, c.2 = .cause k → exec (.lq g d a b) s =
        .next (settleStop v c.1 v.g (.trap k noLane v.sl.mask (BitVec.ofNat 64 va) 0))) ∧
      ∀ q, c.2 = .held q → exec (.lq g d a b) s = .next (settleStop v c.1 v.g (.hold [(va, q)]))) ∧
    ∀ (od : BitVec 2) (sc : BitVec 3) (n w : BitVec 1),
      let atom (e : Instr) (f : AtomForm) : Prop :=
        let c := Fates v f.n f.op.need acting (pair f.a)
        stops (Executes 4 s v ∧ Named v (f.resultRegs ++ ([f.a, f.a + 1] ++ f.valueRegs)) [] ∧
          LanesFull v acting ([f.a, f.a + 1] ++ f.valueRegs) ∧ Served v acting f.resultRegs ∧
          (ordReleases f.ord = true → v.g.dzwDue = [] ∨ v.g.asynctrap = false)) e c
      let form (op : AtomOp) : AtomForm := atomForm op d a od sc (n == 1) (w == 1)
      let half (op : AtomOp) : AtomForm := atomForm op d a od sc (n == 1) false
      atom (.atomAdd g d a od sc n w) (form .add) ∧ atom (.atomMinS g d a od sc n w) (form .minS) ∧
      atom (.atomMaxS g d a od sc n w) (form .maxS) ∧ atom (.atomMinN g d a od sc n w) (form .minN) ∧
      atom (.atomMaxN g d a od sc n w) (form .maxN) ∧ atom (.atomAnd g d a od sc n w) (form .and) ∧
      atom (.atomOr g d a od sc n w) (form .or) ∧ atom (.atomXor g d a od sc n w) (form .xor) ∧
      atom (.atomXchg g d a od sc n w) (form .xchg) ∧ atom (.atomCas g d a od sc n w) (form .cas) ∧
      atom (.atomFaddF32 g d a od sc n) (half .fadd) ∧ atom (.atomFminF32 g d a od sc n) (half .fmin) ∧
      atom (.atomFmaxF32 g d a od sc n) (half .fmax) ∧ atom (.atomLd g d a od sc w) (atomForm .ld d a od sc false (w == 1)) ∧
      atom (.atomSt g d a od sc n w) (atomForm .st d a od sc true (w == 1))) ∧
  ∀ (s : State) (core ctx va n : Nat) (need : Need) (verdicts : List (PageRef × Bool)),
    let c := s.fateOf core ctx va n need verdicts
    let page := s.translate core ctx va need
    let held (p : PageRef) (r : Route) : Prop :=
      ((∀ y ∈ verdicts, y.1.covers va = false) → r = .held p) ∧
      ∀ y, verdicts.find? (fun y => y.1.covers va) = some y → r = .cause (if y.2 then causePERM else causeADDR)
    (va % n ≠ 0 → c = (s, .cause causeALIGN)) ∧
    (va % n = 0 → 2 ^ 56 ≤ va → c = (s, .cause causeADDR)) ∧
    (va % n = 0 → va < 2 ^ 56 →
      (inReservedPage va = true → c = (s, .cause causeADDR)) ∧
      (inReservedPage va = false → inPrivateRange va = true → need ≠ .exec →
        (s.areaAt ctx va n = none → c = (s, .cause causeADDR)) ∧
        ∀ k, s.areaAt ctx va n = some k → c = (s, if need.writes then .cause causePERM else .area k)) ∧
      (inReservedPage va = false → inPrivateRange va = false →
        (∀ x, s.l1Hit core ctx va n need = some x → c = (s, .mem x.leaf (x.pline * 128 + va % 128))) ∧
        (s.l1Hit core ctx va n need = none → c.1 = page.1 ∧
          (page.2 = .broken → c.2 = .cause causeADDR) ∧ (page.2 = .absent → held (smallPage va) c.2) ∧
          ∀ l, page.2 = .leaf l →
            let reads := need = .load ∨ need = .both ∨ need = .here
            let afar := need = .here ∧ pteRm l.pte = true
            (reads → pteR l.pte = false → c.2 = .cause causePERM) ∧
            (need = .exec → pteX l.pte = false → c.2 = .cause causePERM) ∧
            ((reads → pteR l.pte = true) → need.writes = true →
              (pteCow l.pte = true → ¬ afar → held { num := va / 2 ^ leafBits l.lvl, bits := leafBits l.lvl } c.2) ∧
              (pteCow l.pte = false → pteW l.pte = false → c.2 = .cause causePERM)) ∧
            ((reads → pteR l.pte = true) → afar → (pteCow l.pte = true ∨ pteW l.pte = true) →
              c.2 = .cause (if page.1.peerOf ctx l va = none then causeADDR else causePERM)) ∧
            ((reads → pteR l.pte = true) → (need = .exec → pteX l.pte = true) →
              (need.writes = true → pteCow l.pte = false ∧ pteW l.pte = true) →
                (pteRm l.pte = false → c.2 = .mem l (leafPa l va)) ∧
                (pteRm l.pte = true → page.1.peerOf ctx l va = none → c.2 = .cause causeADDR) ∧
                ∀ p x, pteRm l.pte = true → need ≠ .here → page.1.peerOf ctx l va = some (p, x) → c.2 = .remote p x))))

/-! ## Global memory -/

/-- R97 to R99, R101: a global load whose lanes are all permitted marks its destinations empty, with the lanes' values on their way;
with no acting lane it changes nothing. R287: the bytes that a load reads: those of the L1's line, where it holds them all with the
right to read; where the L1 does not have the line, its reticle no replica, and no L1 a dirty copy of a byte, that byte of the
memory; after a store of the core to the same address, the bytes stored. No byte of global memory changes, but for dirty bytes that
an L1 writes back. R143, R349: `lq` loads the 8 bytes at s[a] + 8 × imm into a scalar, which is empty until they arrive; `ldw` loads
a word in each acting lane from the address of a pair. -/
def Obligations.GlobalLoads : Prop :=
  (∀ (s : State) (v : View) (g : BitVec 3) (p : BitVec 2) (d o : BitVec 6) (sc : BitVec 5) (r : BitVec 1),
    let acting := v.acting g.toNat
    let runs (i : Instr) (n : Nat) (signed : Bool) : Prop :=
      let c := Fates v n .load acting fun l => (v.g.sval sc.toNat).toNat + (v.lane o.toNat l).toNat
      let out := readLanes v.core v.ctx v.gid c.1.nextTag d.toNat n p.toNat signed c.1 c.2
      LaneReady 4 s v g.toNat (regsOf d.toNat n) [o.toNat] [sc.toNat] → Permitted v acting c →
        (acting = 0 → Writes i s v v.g) ∧
        (acting ≠ 0 → Issues i s v out.1 acting (regsOf d.toNat n) out.2
          { v.g with gstat := v.g.gstat ||| vacBits v.g (lanesOf acting) [o.toNat] })
    runs (.ldgN8 g p d o sc r) 1 false ∧ runs (.ldgS8 g p d o sc r) 1 true ∧ runs (.ldgN16 g p d o sc r) 2 false ∧
    runs (.ldgS16 g p d o sc r) 2 true ∧ runs (.ldgB32 g p d o sc r) 4 false ∧ runs (.ldgB64 g p d o sc r) 8 false ∧
    runs (.ldgB128 g p d o sc r) 16 false) ∧
  (∀ (s : State) (v : View) (g : BitVec 3) (d a b : BitVec 6),
    (ScalarReady s v g.toNat [d.toNat] [a.toNat] →
      let va := (v.g.sval a.toNat).toNat + 8 * b.toNat
      let c := v.s.fateOf v.core v.ctx va 8 .load v.sl.verdicts
      let out := c.1.readLane v.core v.ctx v.gid c.1.nextTag d.toNat 8 hintNorm false (64, va, c.2)
      ByGuard (.lq g d a b) s v g.toNat
        (Permitted v v.sl.mask (c.1, [(64, va, c.2)]) →
          ∃ h word, Completes (.lq g d a b) s v
              (State.due { out.1 with nextTag := c.1.nextTag + 1 } (.loadDataArrival v.gid c.1.nextTag)) v.next h ∧
            h = { v.g with scalars := h.scalars, arriving := tblSet v.g.arriving c.1.nextTag word } ∧
            (d.toNat ≠ 0 → (h.scalar d.toNat).st = .empty c.1.nextTag) ∧ (∀ k, k ≠ d.toNat → h.scalar k = v.g.scalar k) ∧
            ∀ lo hi r, out.2 = lo :: hi :: r →
              word = [{ reg := d.toNat, lane := 64, val := lo.val ||| (hi.val <<< 32), poison := lo.poison }])) ∧
    let acting := v.acting g.toNat
    let c := Fates v 4 .load acting fun l => (v.lane (a.toNat + 1) l).toNat * 2 ^ 32 + (v.lane a.toNat l).toNat
    let out := readLanes v.core v.ctx v.gid c.1.nextTag d.toNat 4 hintNorm false c.1 c.2
    LaneReady 4 s v g.toNat [d.toNat] [a.toNat, a.toNat + 1] [b.toNat] → Permitted v acting c →
      (acting = 0 → Writes (.ldw g d a b) s v v.g) ∧
      (acting ≠ 0 → Issues (.ldw g d a b) s v out.1 acting [d.toNat] out.2
        { v.g with gstat := v.g.gstat ||| vacBits v.g (lanesOf acting) [a.toNat, a.toNat + 1] })) ∧
  ∀ (s : State) (core ctx gid tag d va n pa lane hint : Nat) (signed : Bool) (l : Leaf),
    n ∈ [1, 2, 4, 8, 16] → va % n = 0 → va % 128 = pa % 128 →
      let kind := (s.regionOf ctx va l).1
      let r := s.l1Load core ctx va n pa hint kind l .load
      (kind ≠ regionWeir → s.readLane core ctx gid tag d n hint signed (lane, va, .mem l pa) =
        (r.1, arrivals d lane signed n r.2.1 (if r.2.2 then 1 else 0))) ∧
      r.2.1.length = n ∧ OnlyBytes (fun _ => False) s r.1 ∧ AreasKept s r.1 ∧
      (∀ x, s.l1Hit core ctx va n .load = some x → x.pline = pa / 128 → r.2 = (x.read (va % 128) n, x.bad (va % 128) n)) ∧
      (∀ k, k < n → (s.coreSt core).find ctx (va / 128) = none →
        (∀ unit, tblGet? s.replicas (replicaKey unit (s.reticleOf core)) = none) → (∀ c x, ¬ s.DirtyAt c (pa + k) x) →
          r.2.1.getD k 0 = memRead s.mem (pa + k)) ∧
      ∀ b hint1 kind1 word, b.length = n → pteR l.pte = true →
        ((s.l1Store core ctx va pa hint1 kind1 l b word).l1Load core ctx va n pa hint kind l .load).2 = (b, false)

/-- R97, R98, R100, R101, R103: a global store whose lanes are all permitted writes the lanes' bytes in ascending order, with its
placement hint, where `repl` counts as `norm` (R106); no register changes. R287, R347: a lane's bytes are dirty in the core's L1, or
in memory where the line is a weir line; every other byte of global memory stays as it was, but for dirty bytes that an L1 writes
back. -/
def Obligations.GlobalStores : Prop :=
  (∀ (s : State) (v : View) (g : BitVec 3) (p : BitVec 2) (d o : BitVec 6) (sc : BitVec 5) (r : BitVec 1),
    let acting := v.acting g.toNat
    let runs (i : Instr) (n : Nat) : Prop :=
      let c := Fates v n .store acting fun l => (v.g.sval sc.toNat).toNat + (v.lane o.toNat l).toNat
      Executes 4 s v → Named v (o.toNat :: regsOf d.toNat n) [sc.toNat] → LanesFull v acting (o.toNat :: regsOf d.toNat n) →
      (acting ≠ 0 → ScalarsFull v [sc.toNat]) → Permitted v acting c →
        let t := c.2.foldl (fun u x => u.writeLane v.core v.ctx v.gid (if p = 3 then 0 else p.toNat) v.g d.toNat n x) c.1
        Completes i s v t v.next
          { v.g with remoteOut := v.g.remoteOut + remoteLanes c.2,
                     gstat := v.g.gstat ||| vacBits v.g (lanesOf acting) (o.toNat :: regsOf d.toNat n) } ∧
        OnlyBytes (fun a => ∃ x ∈ c.2, ∃ l pa, x.2.2 = .mem l pa ∧ pa ≤ a ∧ a < pa + n) v.s t ∧ AreasKept v.s t
    runs (.stgB8 g p d o sc r) 1 ∧ runs (.stgB16 g p d o sc r) 2 ∧ runs (.stgB32 g p d o sc r) 4 ∧
    runs (.stgB64 g p d o sc r) 8 ∧ runs (.stgB128 g p d o sc r) 16) ∧
  ∀ (s : State) (core ctx gid hint d n lane va pa : Nat) (g : Group) (l : Leaf),
    n ∈ [1, 2, 4, 8, 16] → va % n = 0 → va % 128 = pa % 128 →
      let t := s.writeLane core ctx gid hint g d n (lane, va, .mem l pa)
      let byte (k : Nat) : Byte := ((g.lane (d + k / 4) lane) >>> (8 * (k % 4))).truncate 8
      ∀ k, k < n → if (s.regionOf ctx va l).1 = regionWeir then memRead t.mem (pa + k) = byte k else t.DirtyAt core (pa + k) (byte k)

/-! ## Atomics -/

/-- R231: what each operation of ATOM and ATOMS stores, on 4 and on 8 bytes. R230, R237: a scratch atomic inside the window,
aligned, performs its lanes in ascending order, each on what the lanes before it left; where it returns the old values its result
registers are empty until they arrive. A release needs every earlier access of the group performed, and no failed remote store to
report under ASYNCTRAP; that one which is not reported stays pending where ASYNCTRAP is 0 is the model's choice (log 22). -/
def Obligations.ScratchAtomics : Prop :=
  (∀ p q c : Word,
    let f (op : AtomOp) : Option Nat := op.apply 4 p.toNat q.toNat c.toNat
    f .add = some (p + q).toNat ∧ f .and = some (p &&& q).toNat ∧ f .or = some (p ||| q).toNat ∧ f .xor = some (p ^^^ q).toNat ∧
    f .xchg = some q.toNat ∧ f .st = some q.toNat ∧ f .ld = none ∧ f .cas = (if p = c then some q.toNat else none) ∧
    f .minS = some (if q.toInt < p.toInt then q else p).toNat ∧ f .maxS = some (if p.toInt < q.toInt then q else p).toNat ∧
    f .minN = some (if q.toNat < p.toNat then q else p).toNat ∧ f .maxN = some (if p.toNat < q.toNat then q else p).toNat ∧
    f .fadd = some (f32Add 0 false p q).1.toNat ∧ f .fmin = some (f32MinMax false false p q).1.toNat ∧
    f .fmax = some (f32MinMax true false p q).1.toNat) ∧
  (∀ p q c : DWord,
    let f (op : AtomOp) : Option Nat := op.apply 8 p.toNat q.toNat c.toNat
    f .add = some (p + q).toNat ∧ f .and = some (p &&& q).toNat ∧ f .or = some (p ||| q).toNat ∧ f .xor = some (p ^^^ q).toNat ∧
    f .xchg = some q.toNat ∧ f .st = some q.toNat ∧ f .ld = none ∧ f .cas = (if p = c then some q.toNat else none) ∧
    f .minS = some (if q.toInt < p.toInt then q else p).toNat ∧ f .maxS = some (if p.toInt < q.toInt then q else p).toNat ∧
    f .minN = some (if q.toNat < p.toNat then q else p).toNat ∧ f .maxN = some (if p.toNat < q.toNat then q else p).toNat) ∧
  ∀ (s : State) (v : View) (g : BitVec 3) (d a : BitVec 6) (o : BitVec 2) (sc : BitVec 3) (n w : BitVec 1) (c : Crew),
    let acting := v.acting g.toNat
    let runs (i : Instr) (f : AtomForm) : Prop :=
      let addr (l : Nat) : Nat := (v.lane a.toNat l).toNat
      let out := ((lanesOf acting).map fun l => (l, addr l)).foldl (scratchStep f v.g) (c, [], 0)
      let h : Group := { v.g with gstat := v.g.gstat ||| vacBits v.g (lanesOf acting) (f.a :: f.valueRegs) }
      Executes 4 s v → Named v (f.resultRegs ++ f.a :: f.valueRegs) [] → LanesFull v acting (f.a :: f.valueRegs) →
      Served v acting f.resultRegs → v.s.crew? v.g.crew = some c → c.scratchBad = [] →
      (ordReleases f.ord = true → (v.g.dzwDue = [] ∨ v.g.asynctrap = false) ∧ v.unperformed v.s = false) →
      (∀ l, l < 64 → acting.getLsbD l = true → addr l % f.n = 0 ∧ addr l + f.n ≤ wbScratch v.wb) →
        (acting = 0 → Writes i s v v.g) ∧
        (acting ≠ 0 → f.result = false → Completes i s v (v.s.setCrew v.g.crew out.1) v.next h) ∧
        (acting ≠ 0 → f.result = true → Issues i s v (v.s.setCrew v.g.crew out.1) acting f.resultRegs out.2.1 h)
    let form (op : AtomOp) : AtomForm := atomForm op d a o sc (n == 1) (w == 1)
    let half (op : AtomOp) : AtomForm := atomForm op d a o sc (n == 1) false
    runs (.atomsAdd g d a o sc n w) (form .add) ∧ runs (.atomsMinS g d a o sc n w) (form .minS) ∧
    runs (.atomsMaxS g d a o sc n w) (form .maxS) ∧ runs (.atomsMinN g d a o sc n w) (form .minN) ∧
    runs (.atomsMaxN g d a o sc n w) (form .maxN) ∧ runs (.atomsAnd g d a o sc n w) (form .and) ∧
    runs (.atomsOr g d a o sc n w) (form .or) ∧ runs (.atomsXor g d a o sc n w) (form .xor) ∧
    runs (.atomsXchg g d a o sc n w) (form .xchg) ∧ runs (.atomsCas g d a o sc n w) (form .cas) ∧
    runs (.atomsFaddF32 g d a o sc n) (half .fadd) ∧ runs (.atomsFminF32 g d a o sc n) (half .fmin) ∧
    runs (.atomsFmaxF32 g d a o sc n) (half .fmax) ∧ runs (.atomsLd g d a o sc w) (atomForm .ld d a o sc false (w == 1)) ∧
    runs (.atomsSt g d a o sc n w) (atomForm .st d a o sc true (w == 1))

/-- R230, R232, R236, R339: a global atomic whose lanes are all permitted, with nothing that its order still waits for
(`orderWait`), performs its lanes in ascending order; a release at ret or wider is recorded for the lines written, an acquire there
drops the core's clean bytes. That a failed remote store stays pending past a release where ASYNCTRAP is 0, and that after an
acquire of which a lane goes to a remote page the split goes on once those lanes are answered, is the model's choice (log 22). R231,
R234, R235: a lane stores what its operation gives on the value that it reads, dirty in the core's L1 under a grant or at the
lodging bank; every other byte of global memory stays as it was, but for dirty bytes that an L1 writes back. -/
def Obligations.GlobalAtomics : Prop :=
  (∀ (s : State) (v : View) (g : BitVec 3) (d a : BitVec 6) (o : BitVec 2) (sc : BitVec 3) (n w : BitVec 1),
    let acting := v.acting g.toNat
    let runs (i : Instr) (f : AtomForm) : Prop :=
      let vs := [f.a, f.a + 1] ++ f.valueRegs
      let c := Fates v f.n f.op.need acting fun l => (v.lane (f.a + 1) l).toNat * 2 ^ 32 + (v.lane f.a l).toNat
      let remote := decide (remoteLanes c.2 ≠ 0)
      let ordered := orderWait v c.1 f.ord f.scope (localLines c.2) [] remote
      let rest : Wait := if ordAcquires f.ord && remote then .acquired [] else .none
      let word := if ordReleases f.ord then ordered.1.tagOf f.scope v.core v.g else tagNone
      let out := c.2.foldl (atomStep v.core v.ctx v.gid ordered.1.nextTag f v.g word)
        { s := ordered.1, arr := [], wrote := [], sent := 0, bits := 0 }
      let s1 := if ordReleases f.ord = true ∧ 2 ≤ f.scope then out.wrote.foldl (fun u x => u.recordRelease v.core v.ctx x) out.s
        else out.s
      let s2 := if ordAcquires f.ord = true ∧ 2 ≤ f.scope then s1.invalidateClean v.core v.ctx 0 lineEnd else s1
      let h : Group := { v.g with remoteOut := v.g.remoteOut + out.sent,
                                  gstat := v.g.gstat ||| (vacBits v.g (lanesOf acting) vs ||| out.bits) }
      Executes 4 s v → Named v (f.resultRegs ++ vs) [] → LanesFull v acting vs → Served v acting f.resultRegs →
      (ordReleases f.ord = true → v.g.dzwDue = [] ∨ v.g.asynctrap = false) → Permitted v acting c → ordered.2 = false →
        (acting = 0 → Writes i s v v.g) ∧
        (acting ≠ 0 → f.result = false → CompletesIn rest i s v s2 v.next h) ∧
        (acting ≠ 0 → f.result = true → IssuesIn rest i s v s2 acting f.resultRegs out.arr h) ∧
        OnlyBytes (fun a => ∃ x ∈ c.2, ∃ l pa, x.2.2 = .mem l pa ∧ pa ≤ a ∧ a < pa + f.n) v.s s2 ∧ AreasKept v.s s2
    let form (op : AtomOp) : AtomForm := atomForm op d a o sc (n == 1) (w == 1)
    let half (op : AtomOp) : AtomForm := atomForm op d a o sc (n == 1) false
    runs (.atomAdd g d a o sc n w) (form .add) ∧ runs (.atomMinS g d a o sc n w) (form .minS) ∧
    runs (.atomMaxS g d a o sc n w) (form .maxS) ∧ runs (.atomMinN g d a o sc n w) (form .minN) ∧
    runs (.atomMaxN g d a o sc n w) (form .maxN) ∧ runs (.atomAnd g d a o sc n w) (form .and) ∧
    runs (.atomOr g d a o sc n w) (form .or) ∧ runs (.atomXor g d a o sc n w) (form .xor) ∧
    runs (.atomXchg g d a o sc n w) (form .xchg) ∧ runs (.atomCas g d a o sc n w) (form .cas) ∧
    runs (.atomFaddF32 g d a o sc n) (half .fadd) ∧ runs (.atomFminF32 g d a o sc n) (half .fmin) ∧
    runs (.atomFmaxF32 g d a o sc n) (half .fmax) ∧ runs (.atomLd g d a o sc w) (atomForm .ld d a o sc false (w == 1)) ∧
    runs (.atomSt g d a o sc n w) (atomForm .st d a o sc true (w == 1))) ∧
  ∀ (s : State) (core ctx lane va pa : Nat) (f : AtomForm) (g : Group) (word : Word) (l : Leaf),
    f.n = 4 ∨ f.n = 8 → va % f.n = 0 → va % 128 = pa % 128 →
      let r := s.atomLane core ctx f g word lane va pa l
      let stored (y : Nat) : Prop := r.2.2.1 = true ∧ OnlyBytes (fun a => pa ≤ a ∧ a < pa + f.n) s r.1 ∧
        ((∀ k, k < f.n → memRead r.1.mem (pa + k) = (leBytes y f.n).getD k 0) ∨
         ∀ k, k < f.n → r.1.DirtyAt core (pa + k) ((leBytes y f.n).getD k 0))
      AreasKept s r.1 ∧
      (r.2.2.2 = true → r.2.2.1 = false ∧ OnlyBytes (fun _ => False) s r.1) ∧
      (r.2.2.2 = false → ∀ y, f.op.apply f.n r.2.1 (f.x g lane) (f.cmp g lane) = some y → stored y) ∧
      (r.2.2.2 = false → f.op.apply f.n r.2.1 (f.x g lane) (f.cmp g lane) = none →
        r.2.2.1 = false ∧ OnlyBytes (fun _ => False) s r.1)

/-! ## Weir lines -/

/-- R347, R349, R357, R362, R107, R236, R238: accesses to weir lines. A load, `lq` or `ldw` of weir lines waits while one of them
must be served first: while an addition of its own core is not in its delta line or at the bank, while another party is served, and
while holders are sluiced; then it completes, and its service of the lines ends. Of a line that no party is served on, a read under
a tolerance chooses among the holders with a set dirty bit, other than its own core, the largest share first, ties to the lower
core, until the rest is within the tolerance; a load and `lq` choose none, a NaN or a negative tolerance is 0. A store, and an
atomic that is no addition, waits for the sluices of every holder, its own core included, and acts then. What a read returns: the
bank's elements with the core's own delta added where touched. An addition is given to the core's delta line in lane order; its
order acts on the split's other accesses, and an acquire lets the split go on once its additions are performed (R351). How shares
are rounded is the model's choice (log 18). -/
def Obligations.WeirAccesses : Prop :=
  (∀ (s : State) (v : View) (g : BitVec 3) (p : BitVec 2) (d o a b : BitVec 6) (sc : BitVec 5) (r : BitVec 1),
    let acting := v.acting g.toNat
    let waits (i : Instr) (u : State) : Prop := exec i s = .next (settleStop v u v.g (.wait .ack))
    let reads (i : Instr) (n hint : Nat) (signed : Bool) (tau : Option Nat) (ds srcs : List Nat)
        (c : State × List (Nat × Nat × Route)) : Prop :=
      let weirs := weirLines c.1 v.ctx c.2
      let asked := c.1.askLines v.core v.ctx v.party (fun u x => u.weirRead v.core x v.party tau) weirs
      let out := readLanes v.core v.ctx v.gid c.1.nextTag d.toNat n hint signed c.1 c.2
      accessStop acting c.2 = none →
        (∀ u, asked = some u → waits i u) ∧
        (asked = none → acting ≠ 0 → Issues i s v (endServicesOf out.1 v.party weirs) acting ds out.2
          { v.g with gstat := v.g.gstat ||| vacBits v.g (lanesOf acting) srcs })
    let loads (i : Instr) (n : Nat) (signed : Bool) : Prop :=
      LaneReady 4 s v g.toNat (regsOf d.toNat n) [o.toNat] [sc.toNat] →
        reads i n p.toNat signed none (regsOf d.toNat n) [o.toNat]
          (Fates v n .load acting fun l => (v.g.sval sc.toNat).toNat + (v.lane o.toNat l).toNat)
    let stores (i : Instr) (n : Nat) : Prop :=
      let c := Fates v n .store acting fun l => (v.g.sval sc.toNat).toNat + (v.lane o.toNat l).toNat
      let weirs := weirLines c.1 v.ctx c.2
      let asked := c.1.askLines v.core v.ctx v.party (fun u x => u.weirWrite x v.party) weirs
      Executes 4 s v → Named v (o.toNat :: regsOf d.toNat n) [sc.toNat] → LanesFull v acting (o.toNat :: regsOf d.toNat n) →
      (acting ≠ 0 → ScalarsFull v [sc.toNat]) → accessStop acting c.2 = none →
        (∀ u, asked = some u → waits i u) ∧
        (asked = none →
          let t := c.2.foldl (fun u x => u.writeLane v.core v.ctx v.gid (if p = 3 then 0 else p.toNat) v.g d.toNat n x) c.1
          Completes i s v (endServicesOf t v.party weirs) v.next
            { v.g with remoteOut := v.g.remoteOut + remoteLanes c.2,
                       gstat := v.g.gstat ||| vacBits v.g (lanesOf acting) (o.toNat :: regsOf d.toNat n) })
    (loads (.ldgN8 g p d o sc r) 1 false ∧ loads (.ldgS8 g p d o sc r) 1 true ∧ loads (.ldgN16 g p d o sc r) 2 false ∧
      loads (.ldgS16 g p d o sc r) 2 true ∧ loads (.ldgB32 g p d o sc r) 4 false ∧ loads (.ldgB64 g p d o sc r) 8 false ∧
      loads (.ldgB128 g p d o sc r) 16 false) ∧
    (stores (.stgB8 g p d o sc r) 1 ∧ stores (.stgB16 g p d o sc r) 2 ∧ stores (.stgB32 g p d o sc r) 4 ∧
      stores (.stgB64 g p d o sc r) 8 ∧ stores (.stgB128 g p d o sc r) 16) ∧
    (LaneReady 4 s v g.toNat [d.toNat] [a.toNat, a.toNat + 1] [b.toNat] →
      reads (.ldw g d a b) 4 0 false (tolerance ((v.g.sval b.toNat).truncate 32)) [d.toNat] [a.toNat, a.toNat + 1]
        (Fates v 4 .load acting fun l => (v.lane (a.toNat + 1) l).toNat * 2 ^ 32 + (v.lane a.toNat l).toNat)) ∧
    (ScalarReady s v g.toNat [d.toNat] [a.toNat] →
      let va := (v.g.sval a.toNat).toNat + 8 * b.toNat
      let c := v.s.fateOf v.core v.ctx va 8 .load v.sl.verdicts
      let weirs := weirLines c.1 v.ctx [(64, va, c.2)]
      let asked := c.1.askLines v.core v.ctx v.party (fun u x => u.weirRead v.core x v.party none) weirs
      let out := c.1.readLane v.core v.ctx v.gid c.1.nextTag d.toNat 8 0 false (64, va, c.2)
      v.g.cpred g.toNat = true → accessStop v.sl.mask [(64, va, c.2)] = none →
        (∀ u, asked = some u → waits (.lq g d a b) u) ∧
        (asked = none → ∃ h word, Completes (.lq g d a b) s v
            (State.due { endServicesOf out.1 v.party weirs with nextTag := c.1.nextTag + 1 } (.loadDataArrival v.gid c.1.nextTag))
            v.next h ∧
          h = { v.g with scalars := h.scalars, arriving := tblSet v.g.arriving c.1.nextTag word } ∧
          (d.toNat ≠ 0 → (h.scalar d.toNat).st = .empty c.1.nextTag) ∧ (∀ k, k ≠ d.toNat → h.scalar k = v.g.scalar k) ∧
          ∀ lo hi q, out.2 = lo :: hi :: q →
            word = [{ reg := d.toNat, lane := 64, val := lo.val ||| (hi.val <<< 32), poison := lo.poison }]))) ∧
  (∀ (s : State) (v : View) (g : BitVec 3) (d a : BitVec 6) (o : BitVec 2) (sc : BitVec 3) (n w : BitVec 1),
    let acting := v.acting g.toNat
    let runs (i : Instr) (f : AtomForm) : Prop :=
      let vs := [f.a, f.a + 1] ++ f.valueRegs
      let c := Fates v f.n f.op.need acting fun l => (v.lane (f.a + 1) l).toNat * 2 ^ 32 + (v.lane f.a l).toNat
      let weirs := weirLines c.1 v.ctx c.2
      let addition : Bool := !f.result && (f.op == .fadd || (f.op == .add && f.n == 4))
      let adds := if addition then weirs else []
      let remote := decide (remoteLanes c.2 ≠ 0)
      let ordered := orderWait v c.1 f.ord f.scope ((localLines c.2).filter fun x => !adds.contains x) adds remote
      let asked := if addition then none
        else ordered.1.askLines v.core v.ctx v.party (fun u x => u.weirWrite x v.party) weirs
      let word := if ordReleases f.ord then ordered.1.tagOf f.scope v.core v.g else tagNone
      let out := c.2.foldl (atomStep v.core v.ctx v.gid ordered.1.nextTag f v.g word)
        { s := endServicesOf ordered.1 v.party weirs, arr := [], wrote := [], sent := 0, bits := 0 }
      let s1 := if ordReleases f.ord = true ∧ 2 ≤ f.scope then out.wrote.foldl (fun u x => u.recordRelease v.core v.ctx x) out.s
        else out.s
      let s2 := if ordAcquires f.ord = true ∧ 2 ≤ f.scope then s1.invalidateClean v.core v.ctx 0 lineEnd else s1
      let rest := acquireRest s2 v.core v.ctx f.ord remote adds
      let h : Group := { v.g with remoteOut := v.g.remoteOut + out.sent,
                                  gstat := v.g.gstat ||| (vacBits v.g (lanesOf acting) vs ||| out.bits) }
      Executes 4 s v → Named v (f.resultRegs ++ vs) [] → LanesFull v acting vs → Served v acting f.resultRegs → acting ≠ 0 →
      (ordReleases f.ord = true → v.g.dzwDue = [] ∨ v.g.asynctrap = false) → accessStop acting c.2 = none →
        (ordered.2 = true → exec i s = .next (settleStop v ordered.1 v.g (.wait .ack))) ∧
        (ordered.2 = false →
          (∀ u, asked = some u → exec i s = .next (settleStop v u v.g (.wait .ack))) ∧
          (asked = none → f.result = false → CompletesIn rest i s v s2 v.next h) ∧
          (asked = none → f.result = true → IssuesIn rest i s v s2 acting f.resultRegs out.arr h))
    let form (op : AtomOp) : AtomForm := atomForm op d a o sc (n == 1) (w == 1)
    let half (op : AtomOp) : AtomForm := atomForm op d a o sc (n == 1) false
    runs (.atomAdd g d a o sc n w) (form .add) ∧ runs (.atomMinS g d a o sc n w) (form .minS) ∧
    runs (.atomMaxS g d a o sc n w) (form .maxS) ∧ runs (.atomMinN g d a o sc n w) (form .minN) ∧
    runs (.atomMaxN g d a o sc n w) (form .maxN) ∧ runs (.atomAnd g d a o sc n w) (form .and) ∧
    runs (.atomOr g d a o sc n w) (form .or) ∧ runs (.atomXor g d a o sc n w) (form .xor) ∧
    runs (.atomXchg g d a o sc n w) (form .xchg) ∧ runs (.atomCas g d a o sc n w) (form .cas) ∧
    runs (.atomFaddF32 g d a o sc n) (half .fadd) ∧ runs (.atomFminF32 g d a o sc n) (half .fmin) ∧
    runs (.atomFmaxF32 g d a o sc n) (half .fmax) ∧ runs (.atomLd g d a o sc w) (atomForm .ld d a o sc false (w == 1)) ∧
    runs (.atomSt g d a o sc n w) (atomForm .st d a o sc true (w == 1))) ∧
  (∀ (s : State) (core ctx gid tag d va n pa lane hint : Nat) (signed : Bool) (l : Leaf) (f : AtomForm) (g : Group) (word : Word)
      (o : AtomOut),
    ((s.regionOf ctx va l).1 = regionWeir →
       let line := pa / 128
       let u := ((s.noteSheaf l line).unalias core ctx lineEnd line).lodge line (some core) (some hint)
       let element (k : Nat) : Word := BitVec.ofNat 32 (fieldAt (u.weirLine core ctx line) (4 * k) 4)
       let bank (k : Nat) : Word := BitVec.ofNat 32 (fieldAt (memReadBytes u.mem (128 * line) 128) (4 * k) 4)
       s.readLane core ctx gid tag d n hint signed (lane, va, .mem l pa) =
         (u, arrivals d lane signed n (bytesAt (u.weirLine core ctx line) (pa % 128) n) (if u.bankBad pa n then 1 else 0)) ∧
       OnlyBytes (fun _ => False) s u ∧ AreasKept s u ∧
       (u.delta? core ctx line = none → u.weirLine core ctx line = memReadBytes u.mem (128 * line) 128) ∧
       ∀ x, u.delta? core ctx line = some x → (u.weirLine core ctx line).length = 128 ∧ ∀ k, k < 32 →
         element k = if x.touched.getLsbD k then
             if x.kind = 1 then (f32Add 0 false (bank k) (tblGet x.delta k 0)).1 else bank k + tblGet x.delta k 0
           else bank k) ∧
    ((o.s.regionOf ctx va l).1 = regionWeir → f.result = false → (f.op = .fadd ∨ (f.op = .add ∧ f.n = 4)) →
      atomStep core ctx gid tag f g word o (lane, va, .mem l pa) =
        { o with s := (o.s.noteSheaf l (pa / 128)).weirAdd core ctx (va / 128) (pa / 128)
                   [(va % 128 / 4, g.lane f.d lane, decide (f.op = .fadd))] })) ∧
  (∀ (s : State) (core ctx line : Nat) (p : Nat × DWord) (tau : Option Nat) (f : State → Nat → Option State) (lines : List Nat),
    let settled (x : Nat) : Prop := s.deltaSettled core ctx x (s.serves x p) = true
    (s.askLines core ctx p f lines = none ↔ ∀ x ∈ lines, settled x ∧ f s x = none) ∧
    (∀ u, s.askLines core ctx p f lines = some u → ∃ x ∈ lines, (∀ y ∈ lines, y < x → settled y ∧ f s y = none) ∧
      ((¬ settled x ∧ u = s) ∨ (settled x ∧ f s x = some u))) ∧
    (s.deltaSettled core ctx line false = true ↔
      (∀ d, s.delta? core ctx line = some d → d.waiting = [] ∧ d.spilling = false) ∧ s.runsOut core ctx line = false ∧
        s.roomlessAt core ctx line = false) ∧
    (s.weirRec? line = none → s.weirRead core line p tau = none ∧ s.weirWrite line p = none) ∧
    ∀ w, s.weirRec? line = some w →
      let dirty := (w.holders.filter fun h => h.1 != core && h.2.2.2).map fun h => (h.1, h.2.1, 4 * magUnits h.2.2.1)
      let asks (r : Option State) (l : List (Nat × Nat)) : Prop :=
        (∀ q, w.service = some q → r = if q = p ∧ w.sluicing = [] then none else some s) ∧
        (w.service = none → l = [] → w.sluicing = [] → r = none) ∧
        (w.service = none → l ≠ [] ∨ w.sluicing ≠ [] → ∃ u, r = some u ∧ u = { s with dir := u.dir, agenda := u.agenda } ∧
          (let fresh := l.filter fun h => !w.sluicing.contains h
           u.weirRec? line = some { w with sluicing := w.sluicing ++ fresh, service := some p } ∧
           u.agenda = s.agenda ++ fresh.map fun h => .sluice h.1 h.2 line) ∧
          ∀ k, k ≠ line → u.weirRec? k = s.weirRec? k)
      asks (s.weirRead core line p tau) (chooseSluices tau dirty.length dirty) ∧
        asks (s.weirWrite line p) (w.holders.map fun h => (h.1, h.2.1))) ∧
  (∀ (l : List (Nat × Nat × Nat)) (t n : Nat),
    chooseSluices none n l = [] ∧ ((l.map fun h => h.2.2).sum ≤ t → chooseSluices (some t) n l = []) ∧
    ∀ h ∈ l, t < (l.map fun h => h.2.2).sum → (∀ x ∈ l, x ≠ h → x.2.2 < h.2.2 ∨ (x.2.2 = h.2.2 ∧ h.1 < x.1)) →
      chooseSluices (some t) (n + 1) l =
        (h.1, h.2.1) :: chooseSluices (some t) n (l.filter fun x => !(x.1 == h.1 && x.2.1 == h.2.1))) ∧
  ∀ x : Word, ((Nan32 x ∨ x.getLsbD 31 = true) → tolerance x = some 0) ∧ tolerance 0x7F800000 = none ∧
    (Fin32 x → x.getLsbD 31 = false → tolerance x = some (4 * mag32 x)) ∧ (Fin32 x → magUnits x = mag32 x)

/-! ## Synchronisation -/

/-- R239, R240: a fence over global memory drains the core's dirty lines of its range where it releases at ret or wider and waits
for the invalidations of that drain; a fence that acquires, or that covers global memory, waits until the group's accesses are
performed; one that acquires over global memory at ret or wider waits until every releaser that a line records has drained, and
drops the clean lines of its range (which releasers these are is the model's choice, log 9). It traps ADDR where its range leaves
the address space, and DZW for a failed remote store under ASYNCTRAP; that such a failure stays pending where ASYNCTRAP is 0 is the
model's choice (log 22). R247: `wdrain` completes where no core of its scope holds a delta line of the context in its range; else
those lines' spills are asked for and it waits for them; it traps ADDR where its range leaves the address space, whatever its
length. -/
def Obligations.Fences : Prop :=
  (∀ (s : State) (v : View) (g : BitVec 3) (a b : BitVec 6) (o : BitVec 2) (sc : BitVec 3) (k : BitVec 2),
    ScalarReady s v g.toNat [] [a.toNat, b.toNat] →
      let i : Instr := .fence g a b o sc k
      let base := (v.g.sval a.toNat).toNat
      let len := (v.g.sval b.toNat).toNat
      let lo := if len = 0 then 0 else base / lineBytes
      let hi := if len = 0 then lineEnd else (base + len + lineBytes - 1) / lineBytes
      let global := k.toNat % 2 = 1
      let wide := global ∧ 2 ≤ sc.toNat
      let s1 := if ordReleases o.toNat = true ∧ wide then v.s.drain v.core v.ctx true lo hi else v.s
      let demands := if ordAcquires o.toNat = true ∧ wide then s1.allDemanded v.core else []
      let waits := (ordReleases o.toNat = true ∧ wide ∧ s1.invalsPending v.core 3 = true) ∨
        ((ordAcquires o.toNat = true ∨ global) ∧ v.unperformed s1 = true) ∨ demands ≠ []
      ByGuard i s v g.toNat
        ((∀ x r, v.g.dzwDue = x :: r → v.g.asynctrap = true → exec i s =
          .next (takeTrap v.s v.gid { v.g with dzwDue := r } v.sl v.slotB v.enc causeDZW noLane v.sl.mask x 0)) ∧
         (v.g.dzwDue = [] ∨ v.g.asynctrap = false →
          (global → len ≠ 0 → 2 ^ 56 < base + len → Traps i s v causeADDR noLane v.sl.mask (BitVec.ofNat 64 base) 0) ∧
          (¬ global ∨ len = 0 ∨ base + len ≤ 2 ^ 56 →
           (¬ waits → Completes i s v
             (if ordAcquires o.toNat = true ∧ wide then s1.invalidateClean v.core v.ctx lo hi else s1) v.next v.g) ∧
           (waits → exec i s = .next (settleStop v (s1.demand v.core v.gid demands) v.g (.wait .ack))))))) ∧
  (∀ (s : State) (v : View) (g : BitVec 3) (a b : BitVec 6) (sc : BitVec 3), ScalarReady s v g.toNat [] [a.toNat, b.toNat] →
    let i : Instr := .wdrain g a b sc
    let base := (v.g.sval a.toNat).toNat
    let len := (v.g.sval b.toNat).toNat
    let r := rangeLines base len
    let todo := v.s.deltasIn v.ctx (v.s.scopeCores v.core sc.toNat) r.1 r.2
    ByGuard i s v g.toNat
      ((2 ^ 56 < base + len → Traps i s v causeADDR noLane v.sl.mask (BitVec.ofNat 64 base) 0) ∧
       (base + len ≤ 2 ^ 56 → todo = [] → Writes i s v v.g) ∧
       (base + len ≤ 2 ^ 56 → todo ≠ [] → exec i s =
        .next (settleStop v (v.s.dueAll (todo.map fun x => .drainRequest x.1 v.ctx x.2 v.gid)) v.g (.wait (.drains todo))))))

/-- R241: `marm` arms a watch on the line of a permitted address, and else traps or waits as a load would, naming no lane; of a
remote page once the peer has read the line (that the watch of a private area's line counts as written at once is the model's
choice, log 14); `mwait` consumes it with 0 where the line has been written, with 2 where the watch is lost or none is armed, and
else waits for the line or for its timeout, the remote line read again meanwhile; that a deadline beyond the clock's range is its
last value is the model's reading (log 9). -/
def Obligations.Monitors : Prop :=
  ∀ (s : State) (v : View) (g : BitVec 3) (a b : BitVec 6),
    (ScalarReady s v g.toNat [] [a.toNat] →
      let va := (v.g.sval a.toNat).toNat
      let c := v.s.fateOf v.core v.ctx va 1 .load v.sl.verdicts
      let armed (w : Watch) : State := c.1.setWatch v.gid (some w)
      ByGuard (.marm g a) s v g.toNat
        ((∀ k, c.2 = .cause k → exec (.marm g a) s =
          .next (settleStop v c.1 v.g (.trap k noLane v.sl.mask (BitVec.ofNat 64 va) 0))) ∧
         (∀ q, c.2 = .held q → exec (.marm g a) s = .next (settleStop v c.1 v.g (.hold [(va, q)]))) ∧
         (∀ l pa, c.2 = .mem l pa → Completes (.marm g a) s v
          (armed { vline := va / lineBytes, pline := pa / lineBytes, remote := false, parks := pteHw l.pte, fired := false,
                   lost := false, bytes := [] }) v.next v.g) ∧
         (∀ k, c.2 = .area k → Completes (.marm g a) s v
          (armed { vline := va / lineBytes, pline := 0, remote := false, parks := false, fired := true, lost := false, bytes := [] })
          v.next v.g) ∧
         ∀ p x, c.2 = .remote p x → exec (.marm g a) s = .next (settleStop v
          ((armed { vline := va / lineBytes, pline := x / lineBytes, remote := true, parks := true, fired := false, lost := false,
                    bytes := [] }).request (peerMsg p 1 128 (x / 128 * 128) 0 []) (.poll v.gid)) v.g (.wait .arming)))) ∧
    (ScalarReady s v g.toNat [a.toNat] [b.toNat] →
      let t := v.g.sval b.toNat
      let until_ : Option DWord := if t = 0 then none else some (BitVec.ofNat 64 (min (v.s.clock.toNat + t.toNat) (2 ^ 64 - 1)))
      ByGuard (.mwait g a b) s v g.toNat
        ((v.g.watch = none → Writes (.mwait g a b) s v (v.g.setScalar a.toNat 2)) ∧
         ∀ w, v.g.watch = some w →
          (w.lost = true → Completes (.mwait g a b) s v (v.s.setWatch v.gid none) v.next (v.g.setScalar a.toNat 2)) ∧
          (w.lost = false → w.fired = true →
            Completes (.mwait g a b) s v (v.s.setWatch v.gid none) v.next (v.g.setScalar a.toNat 0)) ∧
          (w.lost = false → w.fired = false → exec (.mwait g a b) s = .next (settleStop v
            (if w.remote then v.s.due (.remoteWatchPoll v.gid) else v.s) v.g (.wait (.monitor until_ a.toNat))))))

/-- R244, R245: an arrival that releases waits until the group's accesses are performed. R244: a group's lanes reach a crew barrier;
the arrival that completes the phase goes on, lets the waiting groups go on and opens the next phase; another arrival waits, and
counts that disagree set SYNCMIS. R245: `bar.lanes` over the lanes of s[a]: with no such lane present it changes nothing; the
arrival that completes the phase ends it; a split with no lane in it goes on; another waits. R220, R221: without a tree `tgate` sets
SYNCMIS; an arrival that its stores let through and that is the group's first in the phase lowers its core's counter, and the phase
ends where every line is raised; it waits for the end unless it only arrives. -/
def Obligations.BarriersAndTollgates : Prop :=
  (∀ (s : State) (v : View) (g : BitVec 3) (b : BitVec 6) (k : BitVec 3) (c : Crew),
    ScalarReady s v g.toNat [] [b.toNat] → v.s.crew? v.g.crew = some c →
      let r := (tblGet c.bars k.toNat BarPhase.new).reach v.gid v.sl.mask v.g.present (some (v.g.sval b.toNat).toNat)
      let g1 : Group := if r.2 then { v.g with gstat := v.g.gstat ||| bitSYNCMIS } else v.g
      ByGuard (.bar g b k) s v g.toNat
        ((v.unperformed v.s = true → Sleeps (.bar g b k) s v .ack) ∧
         (v.unperformed v.s = false → r.1.complete c.live.length = true → Completes (.bar g b k) s v
            ((v.s.setCrew v.g.crew { c with bars := tblSet c.bars k.toNat r.1.next }).passBar none k.toNat
              (r.1.arrived.filter fun x => x != v.gid)) v.next
            (if r.1.arrived.contains v.gid then g1.passHere (Wait.isBar k.toNat) else g1)) ∧
         (v.unperformed v.s = false → r.1.complete c.live.length = false → exec (.bar g b k) s =
          .next (settleStop v (v.s.setCrew v.g.crew { c with bars := tblSet c.bars k.toNat r.1 }) g1 (.wait (.bar k.toNat)))))) ∧
  (∀ (s : State) (v : View) (g : BitVec 3) (a : BitVec 6), ScalarReady s v g.toNat [] [a.toNat] →
    let i : Instr := .barLanes g a
    let m := v.g.sval a.toNat &&& fullMask v.width
    let present := fullMask v.width &&& ~~~v.g.exited
    let held := v.sl.mask &&& (v.g.lanePhase.elim m fun p => p.members) ≠ 0 ∧ v.unperformed v.s = true
    ByGuard i s v g.toNat ((held → Sleeps i s v .ack) ∧ (¬ held →
      (v.g.lanePhase = none → m &&& present = 0 → Writes i s v v.g) ∧
       (v.g.lanePhase = none → m &&& ~~~(v.sl.mask ||| v.g.exited) = 0 → Writes i s v v.g) ∧
       (v.g.lanePhase = none → m &&& present ≠ 0 → v.sl.mask &&& m = 0 →
        Writes i s v { v.g with lanePhase := some { members := m, arrived := 0 } }) ∧
       (v.g.lanePhase = none → m &&& ~~~(v.sl.mask ||| v.g.exited) ≠ 0 → v.sl.mask &&& m ≠ 0 → m &&& present ≠ 0 →
        exec i s = .next (settleStop v v.s { v.g with lanePhase := some { members := m, arrived := v.sl.mask &&& m } }
          (.wait .lanes))) ∧
       ∀ p, v.g.lanePhase = some p →
        let g1 : Group := if m = p.members then v.g else { v.g with gstat := v.g.gstat ||| bitSYNCMIS }
        let arrived := p.arrived ||| (v.sl.mask &&& p.members)
        (p.members &&& ~~~(arrived ||| v.g.exited) = 0 →
          Writes i s v (Group.passHere Wait.isLanes { g1 with lanePhase := none })) ∧
        (p.members &&& ~~~(arrived ||| v.g.exited) ≠ 0 → v.sl.mask &&& p.members ≠ 0 →
          exec i s = .next (settleStop v v.s { g1 with lanePhase := some { p with arrived := arrived } } (.wait .lanes))) ∧
        (p.members &&& ~~~(arrived ||| v.g.exited) ≠ 0 → v.sl.mask &&& p.members = 0 → Writes i s v g1)))) ∧
  ∀ (s : State) (v : View) (g : BitVec 3), Executes 4 s v →
    let p := performAt v 3
    let none_ (i : Instr) : Prop :=
      ByGuard i s v g.toNat (v.s.treeOf v.g = none → Writes i s v { v.g with gstat := v.g.gstat ||| bitSYNCMIS })
    none_ (.tgateArriveWait g) ∧ none_ (.tgateArrive g) ∧ none_ (.tgateWait g) ∧
    ∀ k t, v.s.treeOf v.g = some (k, t) → v.g.cpred g.toNat = true →
      let s1 := p.1.putTree k { t with counters := tblMod (fun c => (c.1 - 1, c.2)) t.counters v.core,
                                       arrived := t.arrived ++ [v.gid] }
      Sleeps (.tgateWait g) s v (.tgate false true) ∧
      (p.2 = false → v.gid ∉ t.arrived →
        Completes (.tgateArrive g) s v s1 v.next v.g ∧
        exec (.tgateArriveWait g) s = .next (settleStop v s1 v.g (.wait (.tgate false true))))

/-! ## Queues -/

/-- R249, R250, R237: the queue operations of a crew: a push appends a word behind the newest, a pop takes the oldest; a full queue
makes `qpush` wait and `qtpush` answer false, an empty one `qpop` and `qtpop`; `qinit` empties; `qstat` tells occupancy and free
space; a push waits until the group's accesses are performed. An operation but `qinit` on a queue that has not been initialised
traps QUE; `qinit` traps ALIGN on a base that is not a multiple of 4, else ADDR where the ring leaves the crew's scratch, else QUE
while a group sleeps on the queue. Splits that sleep are served in the order in which they came, and the try forms never overtake
one; a split that has slept is not asked about its guard again. -/
def Obligations.QueueOperations : Prop :=
  ∀ (s : State) (v : View) (g : BitVec 3) (q : BitVec 4) (d : BitVec 6) (p : BitVec 3) (n : BitVec 7) (c : Crew),
    v.s.crew? v.g.crew = some c →
      (tblGet? c.queues q.toNat = none →
        let traps (i : Instr) : Prop := ByGuard i s v g.toNat (Traps i s v causeQUE noLane v.sl.mask 0 (BitVec.ofNat 64 q.toNat))
        (ScalarReady s v g.toNat [] [d.toNat] → traps (.qpush g q d) ∧ traps (.qtpush g q d p)) ∧
        (ScalarReady s v g.toNat [d.toNat] [] → traps (.qpop g q d) ∧ traps (.qtpop g q d p) ∧ traps (.qstat g q d))) ∧
      (ScalarReady s v g.toNat [] [d.toNat] → v.g.cpred g.toNat = true →
        let base := (v.g.sval d.toNat).toNat
        let fits := base + 4 * n.toNat ≤ wbScratch v.wb
        (base % 4 ≠ 0 → Traps (.qinit g q d n) s v causeALIGN noLane v.sl.mask (v.g.sval d.toNat) 0) ∧
        (base % 4 = 0 → ¬ fits → Traps (.qinit g q d n) s v causeADDR noLane v.sl.mask (v.g.sval d.toNat) 0) ∧
        ∀ x, base % 4 = 0 → fits → tblGet? c.queues q.toNat = some x → x.pushers ≠ [] ∨ x.poppers ≠ [] →
          Traps (.qinit g q d n) s v causeQUE noLane v.sl.mask 0 (BitVec.ofNat 64 q.toNat)) ∧
      (Executes 4 s v → Named v [] [d.toNat] → v.sleepsOn q.toNat = false → v.g.cpred g.toNat = false →
        Writes (.qpush g q d) s v v.g ∧ Writes (.qpop g q d) s v v.g) ∧
      (∀ x, tblGet? c.queues q.toNat = some x → Executes 4 s v → Named v [] [d.toNat] →
        let me := (v.gid, v.slotB)
        let mine (l : List (Nat × Bool)) : Prop := l = [] ∨ l.head? = some me
        let ends (y : Queue) (c1 : Crew) (pushers poppers : List (Nat × Bool)) : State :=
          let s1 := v.s.setCrew v.g.crew c1
          let s2 := if y.occ < y.depth then s1.wakeQueue q.toNat pushers else s1
          if 0 < y.occ then s2.wakeQueue q.toNat poppers else s2
        let word : List Byte := leBytes ((v.g.sval d.toNat).truncate 32 : Word).toNat 4
        let old : Nat := x.base + 4 * (x.head % x.depth)
        let front : DWord := (BitVec.ofNat 32 (leNat (memReadBytes c.scratch old 4))).zeroExtend 64
        let joins (l : List (Nat × Bool)) : List (Nat × Bool) := if l.contains me then l else l ++ [me]
        (v.sleepsOn q.toNat = true ∨ v.g.cpred g.toNat = true → ScalarsFull v [d.toNat] → v.unperformed v.s = false →
          (mine x.pushers → x.occ < x.depth →
            let y : Queue := { x with pushers := x.pushers.drop 1, occ := x.occ + 1 }
            let c1 : Crew := (c.scratchWrite (x.base + 4 * ((x.head + x.occ) % x.depth)) word).setQueue q.toNat y
            Completes (.qpush g q d) s v (ends y c1 y.pushers x.poppers) v.next
              (if (y.pushers ++ x.poppers).any fun y => y.1 == v.gid then v.g.wake (Wait.isQueue q.toNat) else v.g)) ∧
          (¬ mine x.pushers ∨ x.depth ≤ x.occ → exec (.qpush g q d) s = .next (settleStop v
            (v.s.setCrew v.g.crew (c.setQueue q.toNat { x with pushers := joins x.pushers })) v.g (.wait (.queue q.toNat))))) ∧
        (v.sleepsOn q.toNat = true ∨ v.g.cpred g.toNat = true →
          (mine x.poppers → 0 < x.occ → c.scratchBad = [] →
            let y : Queue := { x with poppers := x.poppers.drop 1, head := (x.head + 1) % x.depth, occ := x.occ - 1 }
            Completes (.qpop g q d) s v (ends y (c.setQueue q.toNat y) x.pushers y.poppers) v.next
              ((if (x.pushers ++ y.poppers).any fun y => y.1 == v.gid then v.g.wake (Wait.isQueue q.toNat) else v.g).setScalar
                d.toNat front)) ∧
          (¬ mine x.poppers ∨ x.occ = 0 → exec (.qpop g q d) s = .next (settleStop v
            (v.s.setCrew v.g.crew (c.setQueue q.toNat { x with poppers := joins x.poppers })) v.g (.wait (.queue q.toNat))))) ∧
        (v.g.cpred g.toNat = true → ScalarsFull v [d.toNat] → v.unperformed v.s = false →
          x.depth ≤ x.occ + x.pushers.length → Writes (.qtpush g q d p) s v (v.g.setC p.toNat false)) ∧
        (v.g.cpred g.toNat = true → x.occ ≤ x.poppers.length → Writes (.qtpop g q d p) s v (v.g.setC p.toNat false))) ∧
      (ScalarReady s v g.toNat [] [d.toNat] → (v.g.sval d.toNat).toNat % 4 = 0 →
        (v.g.sval d.toNat).toNat + 4 * n.toNat ≤ wbScratch v.wb →
        (∀ x, tblGet? c.queues q.toNat = some x → x.pushers = [] ∧ x.poppers = []) →
          ByGuard (.qinit g q d n) s v g.toNat (Completes (.qinit g q d n) s v
            (v.s.setCrew v.g.crew (c.setQueue q.toNat
              { base := (v.g.sval d.toNat).toNat, depth := n.toNat, head := 0, occ := 0, pushers := [], poppers := [] }))
            v.next v.g)) ∧
      ∀ x, tblGet? c.queues q.toNat = some x → x.pushers = [] → x.poppers = [] →
        let old : Nat := x.base + 4 * (x.head % x.depth)
        let fresh : Nat := x.base + 4 * ((x.head + x.occ) % x.depth)
        let pushed (s1 : State) : Prop := ∃ c1, CrewChange v.s s1 v.g.crew c c1 ∧
          c1 = { c with scratch := memWriteBytes c.scratch fresh (leBytes ((v.g.sval d.toNat).truncate 32 : Word).toNat 4),
                        scratchBad := c1.scratchBad, queues := tblSet c.queues q.toNat { x with occ := x.occ + 1 } }
        let popped (s1 : State) : Prop := CrewChange v.s s1 v.g.crew c
          { c with queues := tblSet c.queues q.toNat { x with head := (x.head + 1) % x.depth, occ := x.occ - 1 } }
        let front : DWord := (BitVec.ofNat 32 (leNat (memReadBytes c.scratch old 4))).zeroExtend 64
        (ScalarReady s v g.toNat [] [d.toNat] → v.g.cpred g.toNat = true → v.unperformed v.s = true →
          Sleeps (.qpush g q d) s v .ack ∧ Sleeps (.qtpush g q d p) s v .ack) ∧
        (ScalarReady s v g.toNat [] [d.toNat] → v.g.cpred g.toNat = true → v.unperformed v.s = false →
          (x.occ < x.depth → (∃ s1, pushed s1 ∧ Completes (.qpush g q d) s v s1 v.next v.g) ∧
            ∃ s1, pushed s1 ∧ Completes (.qtpush g q d p) s v s1 v.next (v.g.setC p.toNat true)) ∧
          (x.depth ≤ x.occ → Writes (.qtpush g q d p) s v (v.g.setC p.toNat false) ∧
            exec (.qpush g q d) s = .next (settleStop v
              (v.s.setCrew v.g.crew (c.setQueue q.toNat { x with pushers := [(v.gid, v.slotB)] })) v.g (.wait (.queue q.toNat))))) ∧
        (ScalarReady s v g.toNat [d.toNat] [] → v.g.cpred g.toNat = true → c.scratchBad = [] →
          (0 < x.occ → (∃ s1, popped s1 ∧ Completes (.qpop g q d) s v s1 v.next (v.g.setScalar d.toNat front)) ∧
            ∃ s1, popped s1 ∧ Completes (.qtpop g q d p) s v s1 v.next ((v.g.setScalar d.toNat front).setC p.toNat true)) ∧
          (x.occ = 0 → Writes (.qtpop g q d p) s v (v.g.setC p.toNat false) ∧
            exec (.qpop g q d) s = .next (settleStop v
              (v.s.setCrew v.g.crew (c.setQueue q.toNat { x with poppers := [(v.gid, v.slotB)] })) v.g (.wait (.queue q.toNat)))) ∧
          Writes (.qstat g q d) s v (v.g.setScalar d.toNat (BitVec.ofNat 64 (x.occ + (x.depth - x.occ) * 65536))))

/-! ## Special registers and system functions -/

/-- R133, R134, R136: `gsr` reads a special register into a scalar: `%reticle` is y << 8 | x, `%crew` counts the crews by their
fields, `%wbase` is the work identifier of lane 0, each field shifted by the widths below it; `%gstat` waits for outstanding loads
and for the remote stores whose failure it would tell. R135: `ssr` clears the bits of `%gstat` and `%mst` that are 1 in the scalar;
it writes `%gc` and the slot's `%fm`, trapping ILLEGAL on a reserved bit and PRIV where DEBUG is set without the waybill's
permission. -/
def Obligations.SpecialRegisters : Prop :=
  (∀ (s : State) (v : View) (g : BitVec 3) (d i : BitVec 6), ScalarReady s v g.toNat [d.toNat] [] →
    (i.toNat ≠ 9 ∨ (v.s.loadsOut v.gid v.g = false ∧ v.g.remoteOut = 0) →
      CRuns (.gsr g d i) s v g.toNat v.s v.next (v.g.setScalar d.toNat (v.special i.toNat))) ∧
    (v.g.cpred g.toNat = true → i.toNat = 9 → v.s.loadsOut v.gid v.g = true → Sleeps (.gsr g d i) s v .source) ∧
    (v.g.cpred g.toNat = true → i.toNat = 9 → v.s.loadsOut v.gid v.g = false → v.g.remoteOut ≠ 0 → Sleeps (.gsr g d i) s v .ack) ∧
    v.special 0 = v.s.clock ∧ v.special 1 = (v.s.coreSt v.core).cycle ∧ v.special 2 = BitVec.ofNat 64 v.core ∧
    v.special 5 = BitVec.ofNat 64 v.g.f1 ∧ v.special 6 = BitVec.ofNat 64 (2 ^ v.g.w0) ∧ v.special 7 = BitVec.ofNat 64 v.ctx ∧
    v.special 8 = BitVec.ofNat 64 (v.s.launchOf v.g % 4294967296) ∧ v.special 19 = (v.s.coreSt v.core).dress ∧
    v.special 9 = v.g.gstat ∧ v.special 10 = v.g.gc ∧ v.special 11 = v.sl.fm.zeroExtend 64 ∧ v.special 12 = v.g.mst ∧
    v.special 13 = v.g.prog ∧ v.special 14 = v.g.bnc ∧ v.special 15 = v.g.bnm ∧ v.special 16 = v.g.ire ∧
    v.special 17 = BitVec.ofNat 64 ((v.g.records.length - 2) + v.g.spilled.length) ∧
    v.special 3 = BitVec.ofNat 64 (v.s.reticleOf v.core / 8 * 256 + v.s.reticleOf v.core % 8) ∧
    ∀ c, v.s.crew? v.g.crew = some c →
      let n (k : Nat) : Nat := wbCount v.wb k
      let w (k : Nat) : Nat := wbWidth v.wb k
      let field (x k : Nat) : DWord := BitVec.ofNat 64 x <<< k
      v.special 4 = BitVec.ofNat 64 (c.f2 + n 2 * (c.f3 + n 3 * (c.f4 + n 4 * c.f5))) ∧
      v.special 18 = field v.g.f1 (w 0) ||| field c.f2 (w 0 + w 1) ||| field c.f3 (w 0 + w 1 + w 2) |||
        field c.f4 (w 0 + w 1 + w 2 + w 3) ||| field c.f5 (w 0 + w 1 + w 2 + w 3 + w 4)) ∧
  (∀ (s : State) (v : View) (g : BitVec 3) (b : BitVec 6), ScalarReady s v g.toNat [] [b.toNat] →
    let x := v.g.sval b.toNat
    CRuns (.ssrGstat g b) s v g.toNat v.s v.next { v.g with gstat := v.g.gstat &&& ~~~x } ∧
    CRuns (.ssrMst g b) s v g.toNat v.s v.next { v.g with mst := v.g.mst &&& ~~~x } ∧
    (x.toNat < 8 → (x.getLsbD 2 = true → wbDebug v.wb = true) →
      CRuns (.ssrGc g b) s v g.toNat v.s v.next { v.g with gc := x }) ∧
    (v.g.cpred g.toNat = true → 8 ≤ x.toNat → Traps (.ssrGc g b) s v causeILLEGAL noLane 0 0 0) ∧
    (v.g.cpred g.toNat = true → x.toNat < 8 → x.getLsbD 2 = true → wbDebug v.wb = false →
      Traps (.ssrGc g b) s v causePRIV noLane v.sl.mask 0 0) ∧
    (x.toNat < 2 ^ 23 → x.getLsbD 13 = false → v.g.cpred g.toNat = true →
      ∃ t, exec (.ssrFm g b) s = .next t ∧ EndsAs v { v.sl with fm := x.truncate 32 } v.s v.next t v.g) ∧
    (v.g.cpred g.toNat = false → Writes (.ssrFm g b) s v v.g) ∧
    (v.g.cpred g.toNat = true → 2 ^ 23 ≤ x.toNat ∨ x.getLsbD 13 = true → Traps (.ssrFm g b) s v causeILLEGAL noLane 0 0 0))

/-- R137 to R139: `topo` reads a value of the wafer: the core count, the grid, the banks of the placement map and their bytes, the
HBM bytes, the grade, the own reticle, the cores in it and the lowest of them, and the ISA level; `chk` tells which acting lanes of
a register are not empty, without waiting; `idem` opens a region where its split is alone, behind itself; `idemx` closes it. R136,
R194: `wid` writes a field of the work identifier into each acting lane: field 0 is the lane's number. R140 to R142, R389: `brk`
halts its group for a debugger that the waybill permits, else traps BRK with its code; `lodge` answers where a permitted line
lodges, 0 for a private or remote one, traps or waits as a one-byte load would elsewhere, naming no lane, and traps PRIV without
DEBUG; `pfg` reads a line into L1 and changes no register; that it does nothing for a page that it may not read, a private one or a
weir line is the model's choice (log 14). -/
def Obligations.SystemFunctions : Prop :=
  (∀ (s : State) (v : View) (g p : BitVec 3) (d k a : BitVec 6), Executes 4 s v →
    (Named v [] [d.toNat] → k.toNat < 10 →
      let ret := v.s.reticleOf v.core
      let mine := (List.range v.s.part.coreCount).filter fun n =>
        ((v.s.physOf n).map fun p => p / Config.coresPerReticle == ret).getD false
      let value : Nat := [if v.s.part.grade = 850 then 850 else 900, 0x808, 4096 - v.s.part.missing.length,
        (4096 - v.s.part.missing.length) * 0x600000, 0x30000000000, v.s.part.grade, ret / 8 * 256 + ret % 8, mine.length,
        mine.headD 0, 0x100].getD k.toNat 0
      CRuns (.topo g d k) s v g.toNat v.s v.next (v.g.setScalar d.toNat (BitVec.ofNat 64 value))) ∧
    (Named v [a.toNat] [] → ∃ h, Writes (.chk g p a) s v h ∧ h = { v.g with preds := h.preds, damage := h.damage } ∧
      (∀ x ∈ h.damage, x ∈ v.g.damage) ∧
      ∀ j l, j < 7 → l < 64 → (h.pred j).getLsbD l =
        if j = p.toNat ∧ (v.acting g.toNat).getLsbD l = true then !v.g.laneEmpty a.toNat l else (v.g.pred j).getLsbD l) ∧
    ByGuard (.idem g) s v g.toNat
      ((v.g.slot (!v.slotB) = none → v.g.records = [] → v.g.spilled = [] → Writes (.idem g) s v
        { v.g with ire := v.sl.pc + 4,
                   region := some { mask := v.sl.mask, fm := v.sl.fm, restarts := 0, firstOp := v.g.opCount } }) ∧
       (v.g.slot (!v.slotB) ≠ none ∨ v.g.records ≠ [] ∨ v.g.spilled ≠ [] → Writes (.idem g) s v
        { v.g with ire := 0, region := none })) ∧
    ByGuard (.idemx g) s v g.toNat (Writes (.idemx g) s v { v.g with ire := 0, region := none })) ∧
  (∀ (s : State) (v : View) (g : BitVec 3) (d k : BitVec 6) (c : Crew), v.s.crew? v.g.crew = some c →
    LaneReady 4 s v g.toNat [d.toNat] [] [] →
      let field (l : Nat) : Nat :=
        if k = 0 then l else if k = 1 then v.g.f1 else if k = 2 then c.f2 else if k = 3 then c.f3 else if k = 4 then c.f4 else c.f5
      ∃ t, exec (.wid g d k) s = .next t ∧
        LaneResult v t (v.acting g.toNat)
          [(d.toNat, fun l => if k = 6 then (v.s.workId v.g l).truncate 32 else BitVec.ofNat 32 (field l))] [] 0) ∧
  (∀ (s : State) (v : View) (g : BitVec 3) (d a : BitVec 6), Executes 4 s v →
    ByGuard (.brk g d a) s v g.toNat
      ((wbDebug v.wb = true → exec (.brk g d a) s = .next (settleStop v (v.s.due (.debugHaltSettled v.gid))
        { v.g with halt := .debug false v.slotB v.g.failures.length [] } (.wait .none))) ∧
       (wbDebug v.wb = false → Traps (.brk g d a) s v causeBRK noLane v.sl.mask 0 (BitVec.ofNat 64 (a.toNat + 64 * d.toNat)))) ∧
    (Named v [] [d.toNat, a.toNat] → ByGuard (.lodge g d a) s v g.toNat
      ((v.g.gc.getLsbD 2 = false → Traps (.lodge g d a) s v causePRIV noLane v.sl.mask 0 0) ∧
       (v.g.gc.getLsbD 2 = true → ScalarsFull v [a.toNat] →
        let c := v.s.fateOf v.core v.ctx (v.g.sval a.toNat).toNat 1 .load v.sl.verdicts
        let va := (v.g.sval a.toNat).toNat
        (∀ x, c.2 = .cause x → exec (.lodge g d a) s =
          .next (settleStop v c.1 v.g (.trap x noLane v.sl.mask (BitVec.ofNat 64 va) 0))) ∧
        (∀ q, c.2 = .held q → exec (.lodge g d a) s = .next (settleStop v c.1 v.g (.hold [(va, q)]))) ∧
        (∀ l pa, c.2 = .mem l pa →
          Completes (.lodge g d a) s v c.1 v.next (v.g.setScalar d.toNat (c.1.lodging v.core (pa / lineBytes)))) ∧
        ((∃ k, c.2 = .area k) ∨ (∃ p x, c.2 = .remote p x) →
          Completes (.lodge g d a) s v c.1 v.next (v.g.setScalar d.toNat 0))))) ∧
    (ScalarReady s v g.toNat [] [a.toNat] → ByGuard (.pfg g a) s v g.toNat
      (let c := v.s.fateOf v.core v.ctx (v.g.sval a.toNat).toNat 1 .load []
       ((∀ l pa, c.2 ≠ .mem l pa) → Completes (.pfg g a) s v c.1 v.next v.g) ∧
       (∀ l pa, c.2 = .mem l pa → (c.1.regionOf v.ctx (v.g.sval a.toNat).toNat l).1 = regionWeir →
        Completes (.pfg g a) s v c.1 v.next v.g) ∧
       ∀ l pa, c.2 = .mem l pa → (c.1.regionOf v.ctx (v.g.sval a.toNat).toNat l).1 ≠ regionWeir →
        Completes (.pfg g a) s v
          (c.1.l1Load v.core v.ctx (v.g.sval a.toNat).toNat 1 pa hintNorm (c.1.regionOf v.ctx (v.g.sval a.toNat).toNat l).1 l .load).1
          v.next v.g)))

/-- R223, R224, R227: `launch` hands the template at an aligned address to the aggregator with the parameter, once the group's
stores are performed and, where no batch of that template is open, its pieces are read, and answers the ticket, or 0 where the
context is being reset; `evpost` posts a kind-10 record of the scalar, the launch and the core. -/
def Obligations.LaunchAndEvents : Prop :=
  ∀ (s : State) (v : View) (g : BitVec 3) (d a b : BitVec 6),
    (ScalarReady s v g.toNat [d.toNat] [a.toNat, b.toNat] →
      let va := (v.g.sval a.toNat).toNat
      let c := templateFates v.core v.ctx v.sl.verdicts v.s (templateSpans va)
      let pieces := ((templateSpans va).zip c.2).map fun x => (x.1.2, x.1.1, x.2.2.2)
      let opens := (c.1.openBatch v.ctx (v.g.sval a.toNat)).isNone
      let p := performAt { v with s := c.1 } 3
      let child := p.1.acceptChild v.ctx (v.g.sval a.toNat) ((pieces.map (templatePiece p.1 v.g)).flatten) (v.g.sval b.toNat)
      ByGuard (.launch g d a b) s v g.toNat
        ((va % 8 ≠ 0 → Traps (.launch g d a b) s v causeALIGN noLane v.sl.mask (BitVec.ofNat 64 va) 0) ∧
         (va % 8 = 0 → 2 ^ 56 < va + 128 → Traps (.launch g d a b) s v causeADDR noLane v.sl.mask (BitVec.ofNat 64 va) 0) ∧
         (va % 8 = 0 → va + 128 ≤ 2 ^ 56 → accessStop v.sl.mask c.2 = none →
          (opens = true → templateWants v.g pieces = [] ∧ pieces.findSome? (templateFailed v.g) = none) → p.2 = false →
            ((∃ x, p.1.context? v.ctx = some x ∧ x.st = .resetting) →
              Completes (.launch g d a b) s v p.1 v.next (v.g.setScalar d.toNat 0)) ∧
            ((∀ x, p.1.context? v.ctx = some x → x.st ≠ .resetting) →
              (opens = true → pieces.findSome? (templateBad p.1) = none) →
              Completes (.launch g d a b) s v child.1 v.next { v.g.setScalar d.toNat child.2 with template := [] })))) ∧
    (ScalarReady s v g.toNat [] [a.toNat] →
      let p := performAt v 4
      ByGuard (.evpost g a) s v g.toNat
        (p.2 = false → ∀ x, p.1.context? v.ctx = some x →
          (x.unacked.length < 256 → Completes (.evpost g a) s v
            (p.1.postEvent v.ctx 10 (leBytes (v.g.sval a.toNat).toNat 8 ++ leBytes (v.s.launchOf v.g % 4294967296) 4 ++
              leBytes v.core 4)) v.next v.g) ∧
          (256 ≤ x.unacked.length → exec (.evpost g a) s = .next (settleStop v p.1 v.g (.wait .event)))))

/-! ## The engines -/

/-- R302 to R305: `xcp` checks its arrival word and appends its command, with the four scalars, to the core's copy queue, or waits
while 64 commands stand there. R256, R258: a matrix instruction whose fields, tiles and descriptors pass their checks appends one
operation for each octet with an active lane to the core's matrix queue, or waits while there is no room for them; illegal fields
trap ILLEGAL. R242, R243, R382: `bseal` numbers the open batch; `bwait` completes once no operation of a batch up to its number is
queued, with the failures that it covers reported, or trapped under ASYNCTRAP, the earliest first. That failed remote stores come
before them, the earliest of them first, is the model's reading (log 22). -/
def Obligations.EngineIssueAndBatches : Prop :=
  (∀ (s : State) (v : View) (g : BitVec 3) (a b : BitVec 6) (e : BitVec 4) (r : BitVec 2),
    let regs := [v.g.sval a.toNat, v.g.sval (a.toNat + 1), v.g.sval (a.toNat + 2), v.g.sval (a.toNat + 3)]
    let word := (v.g.sval (a.toNat + 3)).toNat / 2 ^ 32
    let runs (i : Instr) (code : Nat) : Prop :=
      ScalarReady s v g.toNat [] [a.toNat, a.toNat + 1, a.toNat + 2, a.toNat + 3] → ByGuard i s v g.toNat
        ((word % 16 ≠ 0 → Traps i s v causeALIGN noLane v.sl.mask (BitVec.ofNat 64 word) 0) ∧
         (word % 16 = 0 → word ≠ 0 → wbScratch v.wb < word + 16 →
          Traps i s v causeADDR noLane v.sl.mask (BitVec.ofNat 64 word) 0) ∧
         (word = 0 ∨ (word % 16 = 0 ∧ word + 16 ≤ wbScratch v.wb) →
          (64 ≤ (v.s.coreSt v.core).copyQ.length → Sleeps i s v .engine) ∧
          ((v.s.coreSt v.core).copyQ.length < 64 → Completes i s v
            ((v.s.modCore v.core fun c => { c with copyQ := c.copyQ ++ [v.newOp false v.g.opCount code r.toNat regs 0 0] }).dueAll
              [.copyCommandExecute v.core]) v.next { v.g with opCount := v.g.opCount + 1 })))
    runs (.xcpCopy g a b e r) 0 ∧ runs (.xcpStrided g a b e r) 1 ∧ runs (.xcpSwizzle g a b e r) 2 ∧ runs (.xcpCbexp g a b e r) 3 ∧
    runs (.xcpTxb4c g a b e r) 4 ∧ runs (.xcpTxb4x g a b e r) 5 ∧ runs (.xcpSgnpk g a b e r) 6 ∧ runs (.xcpSgnun g a b e r) 7 ∧
    runs (.xcpShenc g a b e r) 8 ∧ runs (.xcpShdec g a b e r) 9 ∧ runs (.xcpGather g a b e r) 10 ∧ runs (.xcpFill g a b e r) 11) ∧
  (∀ (s : State) (v : View) (g : BitVec 3) (z : BitVec 4) (a b : BitVec 6) (r : BitVec 3),
    let runs (i : Instr) (code rep na nb : Nat) (named srcs : List Nat) : Prop :=
      let regs := [v.g.sval na, v.g.sval (na + 1), v.g.sval nb, v.g.sval (nb + 1)]
      let descs := [descOf (v.g.sval na) (v.g.sval (na + 1)), descOf (v.g.sval nb) (v.g.sval (nb + 1))]
      let octs := octetsOf v.width v.sl.mask
      let legal := matrixLegal code rep v.sl.fm (wbTiles v.wb) z.toNat (v.g.sval nb)
      let ops := (List.range octs.length).map fun k => v.newOp true (v.g.opCount + k) code rep regs z.toNat (octs.getD k 0)
      Executes 4 s v → Named v [] named → (v.g.cpred g.toNat = true → ScalarsFull v srcs) → v.g.damage = [] →
        ByGuard i s v g.toNat
          ((legal = false → Traps i s v causeILLEGAL noLane 0 0 0) ∧
           (legal = true → descStop (wbScratch v.wb) octs (descs.zip (needsOf code rep v.sl.fm)) = none →
            (64 < (v.s.coreSt v.core).matQ.length + octs.length → Sleeps i s v .engine) ∧
            ((v.s.coreSt v.core).matQ.length + octs.length ≤ 64 → Completes i s v
              ((v.s.modCore v.core fun c => { c with matQ := c.matQ ++ ops }).dueAll
                (ops.map fun _ => .matrixOperationExecute v.core)) v.next { v.g with opCount := v.g.opCount + octs.length })))
    let pa := [a.toNat, a.toNat + 1]
    let pb := [b.toNat, b.toNat + 1]
    runs (.mma g z a b r) 0 r.toNat a.toNat b.toNat (pa ++ pb) (pa ++ pb) ∧
    runs (.mmaBt g z a b r) 1 r.toNat a.toNat b.toNat (pa ++ pb) (pa ++ pb) ∧
    runs (.mmaRs g z a b r) 2 r.toNat a.toNat b.toNat (pa ++ pb) (pa ++ pb) ∧
    runs (.mdf g z a b r) 3 r.toNat a.toNat b.toNat (pa ++ pb) (pa ++ pb) ∧
    runs (.mdfSp g z a b r) 4 r.toNat a.toNat b.toNat (pa ++ pb) (pa ++ pb) ∧
    runs (.msmx g z a b) 5 0 a.toNat b.toNat (pa ++ [b.toNat]) (pa ++ [b.toNat]) ∧
    runs (.mzero g z) 6 0 0 0 [] [] ∧ runs (.mld g z a) 7 0 a.toNat 0 pa pa ∧ runs (.mst g z a r) 8 r.toNat a.toNat 0 pa pa ∧
    runs (.mside g z a) 9 0 a.toNat 0 pa pa) ∧
  ∀ (s : State) (v : View) (g : BitVec 3) (a : BitVec 6),
    (ScalarReady s v g.toNat [a.toNat] [] →
      CRuns (.bsealCopy g a) s v g.toNat v.s v.next { v.g.setScalar a.toNat (v.g.bnc + 1) with bnc := v.g.bnc + 1 } ∧
      CRuns (.bsealMat g a) s v g.toNat v.s v.next { v.g.setScalar a.toNat (v.g.bnm + 1) with bnm := v.g.bnm + 1 }) ∧
    let waits (i : Instr) (matrix : Bool) (last : DWord) : Prop :=
      let n := min (v.g.sval a.toNat).toNat last.toNat
      let covered (f : Failure) : Bool := f.matrix == matrix && decide (f.batch ≤ n)
      ScalarReady s v g.toNat [] [a.toNat] → ByGuard i s v g.toNat
        ((∀ x r, v.g.dzwDue = x :: r → v.g.asynctrap = true → exec i s =
          .next (takeTrap v.s v.gid { v.g with dzwDue := r } v.sl v.slotB v.enc causeDZW noLane v.sl.mask x 0)) ∧
         (v.g.dzwDue = [] ∨ v.g.asynctrap = false →
          (v.s.opsOut v.core v.gid matrix (fun o => decide (o.batch ≤ n)) = true → Sleeps i s v .batch) ∧
          (v.s.opsOut v.core v.gid matrix (fun o => decide (o.batch ≤ n)) = false →
           ((v.g.asynctrap = false ∨ v.g.failures.filter covered = []) →
             Writes i s v { v.g with dzwDue := [], failures := v.g.failures.filter fun x => !covered x }) ∧
           ∀ f, v.g.asynctrap = true → earliest (v.g.failures.filter covered) = some f →
             exec i s = .next (takeTrap v.s v.gid { v.g with failures := v.g.failures.filter fun x => decide (x ≠ f) } v.sl v.slotB
               v.enc f.cause noLane v.sl.mask f.addr f.detail))))
    waits (.bwaitCopy g a) false v.g.bnc ∧ waits (.bwaitMat g a) true v.g.bnm

/-- R301: swizzling a scratch address twice gives it back, inside its 128 bytes and its 16. R302, R308, R345: what an engine reads
and writes: scratch bytes under a mode, failing UCE at a damaged byte; a byte that an operation has read already has that value
still (R105); of global memory the bytes that the issuing core's L1 holds dirty over those that are served, which are those of the
memory where its reticle has no replica and no L1 a dirty copy; a write goes to memory, and every other byte stays as it was, but
for dirty bytes that an L1 writes back; a page that denies the access, a private byte that is written and a remote page of a matrix
operation fail, a held one holds. R307: the start of a command, the failures of the commands that need no record, and its turns unit
by unit, over remote answers, faults and failures. R310, R311: the counted bytes move an arrival word on, a failure counts the rest
and records its code. Which units share a step is the model's choice (log 19); which address a failure reports, the first
uncorrectable byte or else the start of the access, is its reading of the rules (log 14). -/
def Obligations.CopyTurns : Prop :=
  ((∀ m a, swizzle m (swizzle m a) = a ∧ swizzle m a / 128 = a / 128 ∧ swizzle m a % 16 = a % 16) ∧
   (∀ a n, (∀ p ∈ piecesOf a n, p.1 % 128 + p.2 ≤ 128) ∧
    ((piecesOf a n).map fun p => (List.range p.2).map fun i => p.1 + i).flatten = (List.range n).map fun i => a + i) ∧
   (∀ (s : State) (core : Nat) (op : EngOp) (x : Bool) (m a n : Nat) (c : Crew), s.crew? (s.opCrew op) = some c →
    let r : Rd := { global := false, mode := m, addr := a, n := n }
    let bad (i : Nat) : Bool := c.scratchBad.contains (swizzle m (a + i))
    ((∀ i, i < n → bad i = false) → op.cache = [] →
      s.engineRead core op x r = .ok s ((List.range n).map fun i => memRead c.scratch (swizzle m (a + i)))) ∧
    (∀ (r : Rd) (s1 : State) (b : List Byte), s.engineFresh core op x r = .ok s1 b → ∃ b1, s.engineRead core op x r = .ok s1 b1 ∧
      b1.length = b.length ∧ ∀ k, k < b.length → b1.getD k 0 = (op.keptByte (r.key + k)).getD (b.getD k 0)) ∧
    (∀ i, i < n → bad i = true → (∀ j, j < i → bad j = false) → s.engineRead core op x r = .fail s codeUCE (a + i)) ∧
    ∀ l : List Wr, (∀ w ∈ l, w.global = false ∧ w.mode = m) →
      ∃ t c1, engineWrites core op x s l = .ok t 0 ∧ CrewChange s t (s.opCrew op) c c1 ∧
        c1 = { c with scratch := c1.scratch, scratchBad := c1.scratchBad } ∧
        ∀ y, memRead c1.scratch (swizzle m y) = (lastAt l y).getD (memRead c.scratch (swizzle m y))) ∧
   (∀ (s : State) (core : Nat) (op : EngOp) (x : Bool) (va n : Nat) (s1 : State) (r : Route), va < 2 ^ 56 →
    s.route core op.ctx va n .load op.fatal false = (s1, r) →
      (∀ l pa, r = .mem l pa → (s1.regionOf op.ctx va l).1 ≠ regionWeir →
        let b := s1.engineBytes core pa n (s1.regionOf op.ctx va l).1 l
        (b.2.2 = none → s.enginePiece core op x va n = .ok b.1 b.2.1) ∧
        ∀ i, b.2.2 = some i → s.enginePiece core op x va n = .fail b.1 codeUCE (va + i)) ∧
      (∀ c, r = .cause c → s.enginePiece core op false va n = .fail s1 (if c = causeADDR then codeADDR else codePERM) va) ∧
      (∀ p, r = .held p → s.enginePiece core op x va n = .held s1 va p) ∧
      ∀ p a, r = .remote p a → s.enginePiece core op true va n = .fail s1 codePERM va ∧
        (op.kept va n = none → s.enginePiece core op false va n =
          .asleep (s1.request (peerMsg p 1 n a 0 []) (.engineRead core op.group op.num va))) ∧
        ∀ b, op.kept va n = some b → s.enginePiece core op false va n = .ok s1 b) ∧
   (∀ (s : State) (core pa n kind : Nat) (l : Leaf) (served : LineServed), pa % 128 + n ≤ 128 →
    let r := s.engineBytes core pa n kind l
    r.2.1.length = n ∧ OnlyBytes (fun _ => False) s r.1 ∧ AreasKept s r.1 ∧
    ∀ k, k < n →
      ((∀ unit, tblGet? s.replicas (replicaKey unit (s.reticleOf core)) = none) → (∀ c b, ¬ s.DirtyAt c (pa + k) b) →
        r.2.1.getD k 0 = memRead s.mem (pa + k)) ∧
      let own := (s.coreSt core).l1.find? fun y => y.pline == pa / 128
      let u := s.engineOver core (pa / 128) (pa % 128) n served
      (∀ y b, own = some y → tblGet? y.bytes (pa % 128 + k) = some b → b.dirty = true → u.1.getD k 0 = b.val) ∧
      ((∀ y b, own = some y → tblGet? y.bytes (pa % 128 + k) = some b → b.dirty = false) →
        u.1.getD k 0 = served.1.getD (pa % 128 + k) 0)) ∧
   ∀ (s : State) (core : Nat) (op : EngOp) (x : Bool) (l : Leaf) (pa va : Nat) (b : List Byte), pa % 128 + b.length ≤ 128 →
    let t := s.enginePut core op x (.mem l pa, b, va)
    (∀ k, k < b.length → memRead t.mem (pa + k) = b.getD k 0) ∧ OnlyBytes (fun a => pa ≤ a ∧ a < pa + b.length) s t ∧ AreasKept s t) ∧
  (∀ (s : State) (core : Nat) (op : EngOp),
    let fails (code va : Nat) : Prop := beginCopy core s op = .fail s code va
    (op.code = 2 → op.mode = 2 → fails codeDIR 0) ∧
    (op.code ≠ 2 ∨ op.mode ≠ 2 → op.code ∈ [1, 2, 3, 9, 10] → op.recAddr = 0 → fails codeRECORD 0) ∧
    (op.code ≠ 2 ∨ op.mode ≠ 2 → op.code ∉ [0, 11] → op.recAddr % 64 ≠ 0 → fails codeRECORD op.recAddr) ∧
    (op.code ∈ [0, 11] →
      let s1 := s.putOp core false { s.opNow core false op with record := [] }
      let spans : Nat × Nat := (if op.code = 0 then op.bytes else 0, op.bytes)
      (s1.outside op op.dstGlobal op.dstBase spans.2 = true → beginCopy core s op = .fail s1 codeRANGE op.dstBase) ∧
      (s1.outside op op.dstGlobal op.dstBase spans.2 = false → s1.outside op op.srcGlobal op.srcBase spans.1 = true →
        beginCopy core s op = .fail s1 codeRANGE op.srcBase) ∧
      (s1.outside op op.dstGlobal op.dstBase spans.2 = false → s1.outside op op.srcGlobal op.srcBase spans.1 = false →
        beginCopy core s op = .ok s1 { op with record := [], begun := true, cache := [] }))) ∧
  (∀ (s : State) (core : Nat) (op : EngOp), CopyTurn s core op →
    let goes (t : State) : Prop := exec (.copyCommandExecute core) s = .next t
    let failing (s1 : State) (c va : Nat) : Prop := goes (s1.failCopy core (s1.opNow core false op) c va false false 0)
    let holding (s1 : State) (va : Nat) (p : PageRef) : Prop := goes ((s1.putOp core false
      { s1.opNow core false op with held := some (BitVec.ofNat 64 va), asleep := true }).requestPage op.ctx va p)
    (∀ bad va, op.lost = some (bad, va) → goes (s.failCopy core op (if bad then codeUCE else codeDZW) va.toNat false false 0)) ∧
    (op.lost = none → op.bytes = 0 → goes (s.dropOp core false op)) ∧
    (op.lost = none → op.bytes ≠ 0 → op.owed = 0 → op.begun = false →
      (∀ s1 op1, beginCopy core s op = .ok s1 op1 → goes ((s1.putOp core false op1).due (.copyCommandExecute core))) ∧
      (∀ s1 c va, beginCopy core s op = .fail s1 c va → failing s1 c va) ∧
      ∀ s1 va p, beginCopy core s op = .held s1 va p → holding s1 va p) ∧
    (op.Running → op.code ≠ 8 → op.code ≠ 9 →
      let n := op.stepEnd op.counted - op.counted
      let cuts := (List.range ((n + op.unitBytes - 1) / op.unitBytes)).map fun i =>
        (op.counted + op.unitBytes * i, min (op.stepEnd op.counted) (op.counted + op.unitBytes * (i + 1)))
      let op1 : EngOp := { op with units := op.units + cuts.length, cache := [] }
      let reads := (cuts.map fun c => op.unitReads c.1 c.2).flatten
      (∀ s1 got, readAll core op false s reads = .ok s1 got →
        (∀ s2 k, engineWrites core op false s1 (op.unitsWrites cuts got) = .ok s2 k →
          let op2 : EngOp := { op1 with counted := op.counted + n }
          (k = 0 → op2.over = true → goes ((s2.countBytes op n).dropOp core false op2)) ∧
          (k = 0 → op2.over = false → goes (((s2.countBytes op n).putOp core false op2).due (.copyCommandExecute core))) ∧
          (k ≠ 0 → goes (s2.putOp core false { op1 with owed := n, out := k, asleep := true }))) ∧
        (∀ s2 c va, engineWrites core op false s1 (op.unitsWrites cuts got) = .fail s2 c va → failing s2 c va) ∧
        ∀ s2 va p, engineWrites core op false s1 (op.unitsWrites cuts got) = .held s2 va p → holding s2 va p) ∧
      (∀ s1 c va, readAll core op false s reads = .fail s1 c va → failing s1 c va) ∧
      ∀ s1 va p, readAll core op false s reads = .held s1 va p → holding s1 va p) ∧
    ∀ (g : Group) (c : Crew), op.Running → op.code = 0 → op.mode = 3 → op.record = [] → op.word = 0 → op.cache = [] →
      s.group? op.group = some g → s.crew? g.crew = some c → c.scratchBad = [] →
        let lo := op.counted
        let hi := op.stepEnd lo
        ∃ t c1, goes t ∧ t.mem = s.mem ∧ t.crew? g.crew = some c1 ∧
          (∀ x, memRead c1.scratch x = if op.dstBase + lo ≤ x ∧ x < op.dstBase + hi then
            memRead c.scratch (op.srcBase + (x - op.dstBase)) else memRead c.scratch x) ∧
          (hi = op.bytes → (t.coreSt core).copyQ = (s.coreSt core).copyQ.filter fun x => !(x.group == op.group && x.num == op.num))) ∧
  (∀ (s : State) (core : Nat) (op : EngOp) (g : Group) (c : Crew), s.group? op.group = some g → s.crew? g.crew = some c →
    op.word ≠ 0 → s.opCrew op = g.crew →
    let w := memReadBytes c.scratch op.word 16
    (∀ n, ∃ c1, CrewChange s (s.countBytes op n) g.crew c c1 ∧
      (∀ x, x < op.word ∨ op.word + 16 ≤ x → memRead c1.scratch x = memRead c.scratch x) ∧
      let w1 := (List.range (n / op.unitBytes)).foldl (fun w _ => arriveBytes w op.unitBytes) w
      memReadBytes c1.scratch op.word 16 = if n % op.unitBytes = 0 then w1 else arriveBytes w1 (n % op.unitBytes)) ∧
    ∀ code va short long mis,
      let rest := op.total - op.counted
      let w1 := if rest = 0 then w else arriveBytes w rest
      let t := s.failCopy core op code va short long mis
      ∃ c1 h, t.crew? g.crew = some c1 ∧ t.group? op.group = some h ∧
        memReadBytes c1.scratch op.word 16 = w1.take 12 ++ leBytes (failStatus (fieldAt w1 12 4) code short long mis) 4 ∧
        (∀ x, x < op.word ∨ op.word + 16 ≤ x → memRead c1.scratch x = memRead c.scratch x) ∧ t.mem = s.mem ∧
        h.failures = g.failures ++ [{ matrix := false, num := op.num, batch := op.batch, code := code, addr := BitVec.ofNat 64 va }] ∧
        (t.coreSt core).copyQ = (s.coreSt core).copyQ.filter fun x => !(x.group == op.group && x.num == op.num)) ∧
  (∀ (st code mis : Nat) (short long : Bool), 0 < code → code < 16 → st < 2 ^ 32 →
    let r := failStatus st code short long mis
    natBit r 0 = true ∧ natBits r 7 4 = (if natBits st 7 4 = 0 then code else natBits st 7 4) ∧
    (code = codeLENGTH → natBit r 8 = short ∧ natBit r 9 = long ∧ natBits r 31 16 = min mis 65535) ∧
    (code ≠ codeLENGTH → natBits r 9 8 = natBits st 9 8 ∧ natBits r 31 16 = natBits st 31 16)) ∧
  ∀ (w : List Byte) (n : Nat), w.length = 16 →
    let target := fieldAt w 0 4
    let arrived := (fieldAt w 4 4 + n) % 2 ^ 32
    let u := arriveBytes w n
    u.length = 16 ∧ fieldAt u 0 4 = target ∧ fieldAt u 12 4 = fieldAt w 12 4 ∧
    (target = 0 → fieldAt u 4 4 = arrived ∧ fieldAt u 8 4 = fieldAt w 8 4) ∧
    (target ≠ 0 → fieldAt u 4 4 = arrived % target ∧ fieldAt u 8 4 = (fieldAt w 8 4 + arrived / target) % 2 ^ 32)

/-- R307, R312 to R316, R320: what a unit of each transform writes, from the bytes of its source and its table: copies and swizzles
move bytes; a strided transfer moves elements, the first index varying fastest; `cbexp` writes for each index of the bit stream the
entry of its table; `txb4c` compresses 32 elements to a block and `txb4x` expands it; `sgnpk` and `sgnun` pack and unpack signs; a
gather copies rows by an index array; a fill repeats its pattern. R72, R71: what a TXB4 block holds. R317 to R319: a sheaf block is
the shortest that its formats permit, and decodes to the bytes that it encodes; the turns of `shenc` and `shdec`. That all blocks of
a `shenc` run in one step, and where a step of `shdec` ends, is the model's choice (log 19). -/
def Obligations.Transforms : Prop :=
  (∀ (op : EngOp) (lo hi : Nat) (src tab : Nat → Byte), op.badRecord = false → lo % op.unitBytes = 0 → lo < hi →
    hi = min op.total (lo + op.unitBytes) →
      let reads := op.unitReads lo hi
      let writes := op.unitWrites lo hi (reads.map (readOf src))
      let word (a n : Nat) : Nat := leNat ((List.range n).map fun i => src (a + i))
      let bit (a k : Nat) : Bool := natBit (src (a + k / 8)).toNat (k % 8)
      let elem (e : Nat) : FV := unpack (elemFmt op.fmt) (word (op.srcBase + op.size * e) op.size)
      let runs : (Nat → Byte) → Prop := PutsBytes op writes lo hi fun p => op.dstBase + p
      (∀ r ∈ reads.take 1, r.global = op.srcGlobal ∧ r.mode = op.smode) ∧
      (op.code = 0 ∨ op.code = 2 → runs fun p => src (op.srcBase + p)) ∧
      (op.code = 1 →
        let at_ (base : Nat) (stride : Nat → Nat) (e : Nat) : Nat :=
          base + ((List.range op.rank).map fun k => e / ((List.range k).map op.extent).foldl (· * ·) 1 % op.extent k * stride k).sum
        PutsBytes op writes lo hi (fun p => at_ op.dstBase op.dstStride (p / op.es) + p % op.es) fun p =>
          src (at_ op.srcBase op.srcStride (p / op.es) + p % op.es)) ∧
      (op.code = 3 →
        let index (k : Nat) : Nat := ((List.range op.iw).map fun b => if bit op.srcBase (op.iw * k + b) then 2 ^ b else 0).sum
        PutsBytes op (op.unitWrites lo hi ((reads.take 1).map (readOf src) ++ (reads.drop 1).map (readOf tab))) lo hi
          (fun p => op.dstBase + p) fun p => tab (op.tab + (p / 2 / op.cbl * 2 ^ op.iw + index (p / 2)) * 2 + p % 2)) ∧
      (op.code = 4 → runs fun p => (txb4Block ((List.range 32).map fun k => elem (32 * (p / 18) + k))).getD (p % 18) 0) ∧
      (op.code = 5 → runs fun p =>
        let e := p / op.size
        (leBytes (patternOf (elemFmt op.fmt) (txb4Value ((List.range 18).map fun i => src (op.srcBase + 18 * (e / 32) + i)) (e % 32)))
          op.size).getD (p % op.size) 0) ∧
      (op.code = 6 → runs fun p => BitVec.ofNat 8
        ((List.range 8).map fun j => if 8 * p + j < op.signs ∧ (elem (8 * p + j)).positive = true then 2 ^ j else 0).sum) ∧
      (op.code = 7 → runs fun p =>
        (leBytes (if bit op.srcBase (p / op.size) then (if op.fmt = 0 then 0x3F800000 else 0x3F80) else 0) op.size).getD (p % op.size) 0) ∧
      (op.code = 10 → PutsBytes op writes lo hi (fun p => op.dstBase + p / op.extent 0 * op.rowStride + p % op.extent 0) fun p =>
        src (op.srcBase + op.index (p / op.extent 0) * op.srcStride 0 + p % op.extent 0)) ∧
      (op.code = 11 → runs fun p => BitVec.ofNat 8 (op.srcBase / 256 ^ (p % 8)))) ∧
  (∀ l : List FV, l.length = 32 →
    let b := txb4Block l
    b.length = 18 ∧
    ((∃ x ∈ l, x.special = true) → b = 0xFF#8 :: 0xFF#8 :: List.replicate 16 0) ∧
    ((∀ x ∈ l, x.special = false) → (∀ e, maxLog2 l = some e → e ≤ 127) →
      let ea : Nat := ((maxLog2 l).map fun e => (e + 127).toNat).getD 0
      fieldAt b 0 1 = ea ∧ fieldAt b 1 1 = ea - 2 ∧
      ∀ k x, l[k]? = some x → natBits (fieldAt b (2 + k / 2) 1) (4 * (k % 2) + 3) (4 * (k % 2)) = txb4Elem ea (ea - 2) x)) ∧
  (∀ (fmt : Nat) (b : List Byte), fmt < 3 → b.length = 256 →
    let e := sheafEncode fmt b
    sheafDecode e = some b ∧ fieldAt e 2 2 = e.length ∧ e.length ≤ 260 ∧ ((∀ x ∈ b, x = 0) → e.length = 4) ∧
    (fmt ≠ 0 → e.length ≤ 134 + 16 * (sheafWidth true b).2) ∧ (fmt ≠ 1 → e.length ≤ 198 + 8 * (sheafWidth false b).2) ∧
    ((∃ x ∈ b, x ≠ 0) →
      (fieldAt e 0 1 = 0 ∧ e.length = 260) ∨ (fieldAt e 0 1 = 2 ∧ fmt ≠ 0 ∧ e.length = 134 + 16 * (sheafWidth true b).2) ∨
        (fieldAt e 0 1 = 3 ∧ fmt ≠ 1 ∧ e.length = 198 + 8 * (sheafWidth false b).2))) ∧
  ∀ (s : State) (core : Nat) (op : EngOp), CopyTurn s core op → op.Running →
    let goes (t : State) : Prop := exec (.copyCommandExecute core) s = .next t
    let failing (s1 : State) (c va : Nat) : Prop := goes (s1.failCopy core (s1.opNow core false op) c va false false 0)
    (op.code = 8 → op.counted < op.bytes → ∀ s1 got,
      readAll core op false s ((List.range (op.bytes / 256)).map fun i => op.rd (op.srcBase + 256 * i) 256) = .ok s1 got →
        let out := (got.map (sheafEncode op.fmt)).flatten
        (s1.outside op op.dstGlobal op.dstBase out.length = true → failing s1 codeRANGE op.dstBase) ∧
        (s1.outside op op.dstGlobal op.dstBase out.length = false → ∀ s2,
          engineWrites core op false s1 [op.wr op.dstBase out] = .ok s2 0 →
            goes ((s2.countBytes op op.bytes).afterUnit core
              { op with units := op.units + op.bytes / 256, dst := out.length, cache := [], counted := op.counted + op.bytes }))) ∧
    (op.code = 8 → op.bytes ≤ op.counted → ∀ s1,
      engineWrites core op false s [{ global := true, mode := 0, addr := op.tab, bytes := leBytes op.dst 8 }] = .ok s1 0 →
        goes ((s1.countBytes op 0).dropOp core false { op with src := 8, cache := [] })) ∧
    (op.code = 9 →
      (∀ s1 c va, decodeBlocks core (op.bytes / 4 + 1) s op [] = .fail s1 c va → failing s1 c va) ∧
      ∀ s1 op1 plain, decodeBlocks core (op.bytes / 4 + 1) s op [] = .ok s1 (op1, plain) →
        let keep := plain.take (op.total - op.dst)
        let fill := if op.bytes ≤ op1.src then op.total - (op.dst + keep.length) else 0
        ∀ s2, engineWrites core op false s1 [op.wr (op.dstBase + op.dst) (keep ++ List.replicate fill 0)] = .ok s2 0 →
          goes ((s2.countBytes op1 (keep.length + fill)).afterUnit core
            { op1 with cache := [], counted := op1.counted + (keep.length + fill) })) ∧
    ∀ (f : Nat) (before : List Byte),
      let left := op.bytes - op.src
      let at_ := op.srcBase + op.src
      let fails (s1 : State) : Prop :=
        decodeBlocks core (f + 1) s op before = if before = [] then .fail s1 codeSHEAF at_ else .ok s1 (op, before)
      (left < 4 → fails s) ∧
      (4 ≤ left → ∀ s1 h, s.engineRead core op false (op.rd at_ 4) = .ok s1 h →
        let len := fieldAt h 2 2
        (left < len ∨ len < 4 ∨ 262 < len → fails s1) ∧
        (len ≤ left → 4 ≤ len → len ≤ 262 → ∀ s2 b, s1.engineRead core op false (op.rd at_ len) = .ok s2 b →
          (sheafDecode b = none → fails s2) ∧
          ∀ plain, sheafDecode b = some plain →
            let op1 : EngOp := { op with units := op.units + 1, src := op.src + len, dst := op.dst + 256 }
            let edge : Prop := op.bytes ≤ op.src + len ∨ ((at_ + len) % 16 = 0 ∧ op.dstBase % 16 = 0)
            (edge → decodeBlocks core (f + 1) s op before = .ok s2 (op1, before ++ plain)) ∧
            (¬ edge → decodeBlocks core (f + 1) s op before = decodeBlocks core f s2 op1 (before ++ plain))))

/-- R262, R263, R267 to R271: what a unit of each matrix operation computes, from the bytes that its descriptors' rows give,
wherever they lie: each element of the tile plus the exact sum of a k-block's products, rounded once, after the rescaling by rsc
that begins `mma.rs`; the contribution of a 48-row group of a difference-form operation, where each listed activation counts with
its level; a row of the softmax step with the side registers that it leaves; a row that is zeroed, loaded, stored or stored from the
side registers; how a row is written. R272, R274, R275: the turns of an operation unit by unit, its end with its status bits, its
holds and its failures. Which of two units of different paths comes first, which units share a step, and that a row which shares an
aligned 16-byte unit with a later one is written with it there (R105), is the model's choice (logs 19, 26); so are the status bits
that `msmx` and the rescaling of `mma.rs` set (log 14) and the sign of a zero maximum (log 20). -/
def Obligations.MatrixTurns : Prop :=
  (∀ (s s1 s2 : State) (core : Nat) (op : EngOp) (g : Group) (xa xb : List (List Byte)), op.code < 3 →
    let fa := fmFa op.fm
    let fb := fmFb op.fm
    let fc := fmFc op.fm
    let kb := kBlock fa
    let wide := if fc = 1 then 64 else 32
    readAll core op true s ((List.range 16).map fun i =>
      op.descA.rd (16 * op.octet + i) (rowBytes fa (kb * op.units)) (rowBytes fa kb)) = .ok s1 xa →
    readAll core op true s1 (if op.code = 1 then
      (List.range 32).map fun n => op.descB.rd n (rowBytes fb (kb * op.units)) (rowBytes fb kb)
      else (List.range kb).map fun k => op.descB.rd (kb * op.units + k) 0 (rowBytes fb 32)) = .ok s2 xb →
      let a (i k : Nat) : FV := operand fa (xa.getD i []) k
      let b (k n : Nat) : FV := if op.code = 1 then operand fb (xb.getD n []) k else operand fb (xb.getD k []) n
      let addend (i n : Nat) : FV := dotProduct ((List.range kb).map (a i)) ((List.range kb).map fun k => b k n)
      let scaled (i n : Nat) : Nat × Flags :=
        fvMul (accFmt fc) 0 false (unpack (accFmt fc) (g.elem fc op.za op.octet i n)) (unpack fp32 (g.side op.za op.octet 2 i).toNat)
      let first : Prop := op.code = 2 ∧ op.units = 0
      let z (i n : Nat) : Nat := if first then (scaled i n).1 % 2 ^ wide else g.elem fc op.za op.octet i n
      ∃ h bits, matrixUnit core s op g = .ok s2 (h, bits) ∧ h = { g with tiles := h.tiles, sides := h.sides } ∧
        (∀ i n, i < 16 → n < 32 → h.elem fc op.za op.octet i n =
          if fc = 2 then (BitVec.ofInt 32 ((addend i n).toInteger + (BitVec.ofNat 32 (z i n)).toInt)).toNat
          else (accReal fc (z i n) (addend i n)).1 % 2 ^ wide) ∧
        (∀ za octet k, tileKey za octet ∉ tileKeys fc op.za op.octet → h.tileWord za octet k = g.tileWord za octet k) ∧
        (∀ i k, i < 16 → h.side op.za op.octet k i = if first ∧ k = 2 then 0x3F800000 else g.side op.za op.octet k i) ∧
        ∀ j, bits.getLsbD j = true ↔ ∃ i n, i < 16 ∧ n < 32 ∧
          ((first ∧ (mstBits (accFmt fc) (scaled i n)).getLsbD j = true) ∨
           (fc ≠ 2 ∧ (accReal fc (z i n) (addend i n)).2.getLsbD j = true))) ∧
  (∀ (s s1 s2 s3 : State) (core : Nat) (op : EngOp) (g : Group) (xa xh xf : List (List Byte)), op.code = 3 ∨ op.code = 4 →
    let fc := fmFc op.fm
    let wide := if fc = 1 then 64 else 32
    let r := op.units / 8
    let k := op.units % 8
    let size := recordBytes op.code op.fm
    let field := if op.code = 3 then 24 else if fmDfn op.fm + 1 ≤ 25 then 32 else 64
    readAll core op true s ((List.range 16).map fun i => op.descA.rd (16 * op.octet + i) (2 * (384 * r + 48 * k)) 96) = .ok s1 xa →
    readAll core op true s1 ((List.range 32).map fun c => op.descB.rd c (r * size) 32) = .ok s2 xh →
    readAll core op true s2 ((List.range 32).map fun c => op.descB.rd c (r * size + 32 + field * k) field) = .ok s3 xf →
      let col (c : Nat) : Option DiffCol :=
        diffCol (fmDfd op.fm == 1) (if op.code = 4 then some (fmDfn op.fm + 1) else none) (xh.getD c []) (xf.getD c [])
      let addend (i c : Nat) : FV := contribution (scaleRow ((List.range 48).map (operand (fmFa op.fm) (xa.getD i [])))) (col c)
      let z (i n : Nat) : Nat := g.elem fc op.za op.octet i n
      ∃ h bits, matrixUnit core s op g = .ok s3 (h, bits) ∧ h = { g with tiles := h.tiles } ∧
        (∀ i n, i < 16 → n < 32 → h.elem fc op.za op.octet i n =
          if fc = 2 then (BitVec.ofInt 32 ((addend i n).toInteger + (BitVec.ofNat 32 (z i n)).toInt)).toNat
          else (accReal fc (z i n) (addend i n)).1 % 2 ^ wide) ∧
        (∀ za octet k, tileKey za octet ∉ tileKeys fc op.za op.octet → h.tileWord za octet k = g.tileWord za octet k) ∧
        ∀ j, bits.getLsbD j = true ↔ (j = 0 ∧ ∃ c, c < 32 ∧ col c = none) ∨
          ∃ i n, i < 16 ∧ n < 32 ∧ fc ≠ 2 ∧ (accReal fc (z i n) (addend i n)).2.getLsbD j = true) ∧
  (∀ (c : DiffCol) (q : List Int), (∀ x ∈ c.codes, x.2 < c.m) →
    diffDot c q = (c.codes.map fun x =>
      (c.a + ((List.range (c.m - 1)).map fun j => if x.2 ≤ j then (c.ds.getD j 0 : Int) else 0).sum) * q.getD x.1 0).sum) ∧
  (∀ (s s1 : State) (core : Nat) (op : EngOp) (g : Group),
    let fc := fmFc op.fm
    let i := op.units
    let row := 16 * op.octet + i
    let others (h : Group) : Prop := ∀ za octet k,
      (tileKey za octet ∉ tileKeys fc op.za op.octet ∨ k / 32 ≠ i) → h.tileWord za octet k = g.tileWord za octet k
    (op.code = 6 → i < 16 → ∃ h, matrixUnit core s op g = .ok s (h, 0) ∧ h = { g with tiles := h.tiles, sides := h.sides } ∧
      (∀ n, n < 32 → h.elem fc op.za op.octet i n = 0) ∧ (∀ k, k < 3 → h.side op.za op.octet k i = sideStart k) ∧ others h ∧
      ∀ za octet j k, j < 16 → (tileKey za octet ≠ tileKey op.za op.octet ∨ j ≠ i) → h.side za octet k j = g.side za octet k j) ∧
    (op.code = 7 → ∀ x, readAll core op true s [op.descA.rd row 0 (32 * tileBytes fc)] = .ok s1 [x] →
      ∃ h, matrixUnit core s op g = .ok s1 (h, 0) ∧ h = { g with tiles := h.tiles } ∧ others h ∧
        ∀ n, n < 32 → h.elem fc op.za op.octet i n = fieldAt x (tileBytes fc * n) (tileBytes fc)) ∧
    (op.code = 8 →
      let w := outBytes op.mode fc
      let out (n : Nat) : Nat × DWord := storeElem op.mode fc (g.elem fc op.za op.octet i n) (g.side op.za op.octet 1 i)
      ∃ bits, matrixUnit core s op g = writeRow core s op (((List.range 32).map fun n => leBytes (out n).1 w).flatten) (g, bits) ∧
        ∀ j, bits.getLsbD j = true ↔ ∃ n, n < 32 ∧ (out n).2.getLsbD j = true) ∧
    (op.code = 9 →
      let side (k : Nat) : List Byte := leBytes (g.side op.za op.octet k i).toNat 4
      matrixUnit core s op g = writeRow core s op (side 0 ++ side 1 ++ side 2 ++ [0, 0, 0, 0]) (g, 0)) ∧
    (op.code = 5 → i < 16 →
      let sb := (op.regs[2]?).getD 0
      let yt := natBits sb.toNat 35 32
      let y (j : Nat) : Word := (f32Mul 0 false (g.tileWord op.za op.octet (32 * i + j)) (sb.truncate 32)).1
      let m := softMax (Config.zeroSign s.tick i) (g.side yt op.octet 0 i :: (List.range 32).map y)
      let p (j : Nat) : Word := (f32Narrow bf16 false (f32Exp2 false (f32Sub 0 false (y j) m).1).1).1
      let f := (f32Exp2 false (f32Sub 0 false (g.side yt op.octet 0 i) m).1).1
      let put (b : Nat → Word) : List Byte := ((List.range 32).map fun j => leBytes (b j).toNat 2).flatten
      ((∀ j, j < 32 → y j = 0xFF800000) → matrixUnit core s op g = writeRow core s op (put fun _ => 0) (g, mstSMXEMPTY)) ∧
      ((∃ j, j < 32 ∧ y j ≠ 0xFF800000) →
        ∃ h bits, matrixUnit core s op g = writeRow core s op (put p) (h, bits) ∧ h = { g with sides := h.sides } ∧
          h.side yt op.octet 0 i = m ∧
          h.side yt op.octet 1 i = (List.range 32).foldl (fun t j => (f32Add 0 false t (f32Widen bf16 false (p j).toNat).1).1)
            (f32Mul 0 false (g.side yt op.octet 1 i) f).1 ∧
          h.side yt op.octet 2 i = (f32Mul 0 false (g.side yt op.octet 2 i) f).1 ∧
          (∀ za octet j k, j < 16 → (tileKey za octet ≠ tileKey yt op.octet ∨ j ≠ i) → h.side za octet k j = g.side za octet k j) ∧
          bits = if isNan32 m || isNan32 (h.side yt op.octet 1 i) || isNan32 (h.side yt op.octet 2 i) ||
            (List.range 32).any (fun j => (unpack bf16 (p j).toNat).isNan) then mstNAN else 0))) ∧
  (∀ (s : State) (core : Nat) (op : EngOp) (b : List Byte) (out : MatOut),
    let w := op.descA.wr (16 * op.octet + op.units) b
    let all := op.rowBytesDue w
    let later (x : Nat × Byte) : Bool := op.laterRow b.length x.1
    (op.apart = true →
      (∀ s1 k, engineWrites core op true s [w] = .ok s1 k → writeRow core s op b out = .ok s1 out) ∧
      (∀ s1 c va, engineWrites core op true s [w] = .fail s1 c va → writeRow core s op b out = .fail s1 c va) ∧
      ∀ s1 va p, engineWrites core op true s [w] = .held s1 va p → writeRow core s op b out = .held s1 va p) ∧
    (op.apart = false → ∀ s1 ps, checkPieces core op true s (globalPieces [w]) = .ok s1 ps → ∀ s2 k,
      engineWrites core op true s1 ((byteRuns (all.filter fun x => !later x)).map writeAt) = .ok s2 k →
        writeRow core s op b out = .ok (s2.putOp core true { s2.opNow core true op with pend := all.filter later }) out)) ∧
  (∀ (s : State) (core : Nat) (op : EngOp) (g : Group), MatrixTurn s core op → s.group? op.group = some g →
    let goes (t : State) : Prop := exec (.matrixOperationExecute core) s = .next t
    (∀ s1 h bits, matrixUnit core s op g = .ok s1 (h, bits) →
      let here : EngOp := { op with units := op.units + 1 }
      let now := s1.opNow core true op
      let op1 : EngOp := { here with bits := op.bits ||| bits, pend := if op.apart then op.pend else now.pend,
                                     cache := if here.atBoundary then [] else now.cache }
      let s2 := s1.modGroup op.group fun x => { x with tiles := h.tiles, sides := h.sides }
      (op.unitCount ≤ op.units + 1 → goes (s2.completeMatrix core op1)) ∧
      (op.units + 1 < op.unitCount → op1.atBoundary = true → goes ((s2.putOp core true op1).due (.matrixOperationExecute core))) ∧
      (op.units + 1 < op.unitCount → op1.atBoundary = false →
        goes (State.runFrom core (op.unitCount - 1) op.units op1 (s2.putOp core true op1)))) ∧
    (∀ s1 c va, matrixUnit core s op g = .fail s1 c va → (op.pend = [] → flushRows core s1 op = .ok s1 ()) ∧
      ∀ s2, flushRows core s1 op = .ok s2 () ∨ (∃ d w, flushRows core s1 op = .fail s2 d w) →
        goes ((s2.opFailed true op c va).endMatrix core op mstFAULT)) ∧
    (∀ s1 va p, matrixUnit core s op g = .held s1 va p → goes ((s1.putOp core true { s1.opNow core true op with
      held := some (BitVec.ofNat 64 va), asleep := true, event := some (progWord op true) }).requestPage op.ctx va p)) ∧
    ∀ s1, matrixUnit core s op g = .later s1 → goes (s1.due (.matrixOperationExecute core))) ∧
  (∀ (s : State) (core : Nat) (op : EngOp) (g : Group), s.group? op.group = some g →
    let t := s.completeMatrix core op
    ∃ h, t.group? op.group = some h ∧ h.mst = g.mst ||| op.bits ∧ h.prog = op.event.getD g.prog ∧ h.tiles = g.tiles ∧
      h.sides = g.sides ∧ h.vregs = g.vregs ∧ h.scalars = g.scalars ∧ t.mem = s.mem ∧
      h.failures = g.failures ++ (if fmDftrap op.fm = true ∧ (op.code = 3 ∨ op.code = 4) ∧ op.bits.getLsbD 0 = true then
        [{ matrix := true, num := op.num, batch := op.batch, code := codeDFMETA, addr := 0 }] else []) ∧
      (t.coreSt core).matQ = (s.coreSt core).matQ.filter fun x => !(x.group == op.group && x.num == op.num)) ∧
  ∀ (op : EngOp) (hold : Bool),
    let p := (progWord op hold).toNat
    natBits p 2 0 = op.octet % 8 ∧ natBits p 4 3 = (if hold then 1 else 2) ∧ natBits p 8 5 = op.za % 16 ∧
    natBits p 12 9 = op.code % 16 ∧ natBits p 31 16 = op.units % 65536 ∧ natBits p 63 32 = op.batch % 2 ^ 32

/-! ## Messages -/

/-- R165, R167, R168, R169, R170, R181, R183, R184, R391: a frame that is too long is dropped and counted; a duplicate is discarded;
nothing but management is taken before the wafer is up; an ordered message that comes before its turn waits, whatever the message
is. A message of an unknown kind is answered with status 1, the innkeeper's own code 0x0050 with 3. A command of the owner from
another sender, or without its signature, is answered with 3, one of another form with 1 (of a wrong context field, address or
operand that is the model's choice: log 21), and one to a context that does not exist or is being reset with 5. A page reply is
taken of the owner and of an admitted host alone. -/
def Obligations.MessageReception : Prop :=
  ∀ (s : State) (m : Msg),
    let ofOwner : List (Instr × (Nat → Bool) × Bool) :=
      [(.renew m, (· == 0), false), (.releaseOwnership m, (· == 0), false), (.nameSuccessor m, (· == 2), false),
       (.createContext m, (· == 21), true), (.resetContext m, (· == 0), true), (.resumeContext m, (· == 0), true),
       (.haltContext m, (· == 0), true), (.resumeGroup m, (· == 3), true), (.setShare m, (· == 1), true),
       (.setWindow m, (· == 18), true), (.admitHost m, (· == 19), true), (.setQueue m, (· == 10), true),
       (.setRegion m, (· == 25), true), (.setPeer m, (· == 18), true), (.shootdown m, (· == 16), true),
       (.writePhysical m, fun n => decide (9 ≤ n) && decide (n ≤ 4008), false), (.readPhysical m, (· == 12), false),
       (.loadObject m, (· == 60), true), (.setWatchdog m, (· == 16), true), (.setRecoveryWindow m, (· == 8), false),
       (.setPort m, (· == 18), false), (.updateFirmware m, (· == 16), false), (.readViolations m, (· == 0), true)]
    let others : List Instr :=
      [.malformedMessage m, .dzwRead m, .dzwWrite m, .dzwAtomicAdd m, .dzwCas m, .dzwCompletion m, .postWord m, .claim m, .pageReply m,
       .readState m, .attest m, .readEventLog m]
    let s1 := s.taken m
    (Performed s m → Answers (.malformedMessage m) s m (s.heard m) (if isNotice m then 3 else 1) []) ∧
    (∀ i ∈ others ++ ofOwner.map (fun x => x.1),
      (packetLimit < m.payload.length + packetHeaders → exec i s = .next (s.countFrame m true)) ∧
      (m.payload.length + packetHeaders ≤ packetLimit →
        (s.duplicate m = true ∨ (s.broughtUp = false ∧ m.kind ≠ 7) → exec i s = .next (s.countFrame m false)) ∧
        (s.duplicate m = false → s.broughtUp = true ∨ m.kind = 7 → s.inOrder m = false → exec i s = .next (s.putBack m)))) ∧
    (Performed s m → ∀ x ∈ ofOwner,
      (s.fromOwner m.peer = false ∨ s.ownerSigned m = false → Answers x.1 s m (s.heard m) 3 []) ∧
      (s.fromOwner m.peer = true → s.ownerSigned m = true →
        (formOk m x.2.1 x.2.2 true = false → Answers x.1 s m s1 1 []) ∧
        (formOk m x.2.1 x.2.2 true = true → x.2.2 = true →
          (s.context? m.context.toNat = none → x.1 ≠ .createContext m → Answers x.1 s m s1 5 []) ∧
          ∀ c, s.context? m.context.toNat = some c → c.st = .resetting → Answers x.1 s m s1 5 []))) ∧
    (Performed s m → s.fromOwner m.peer = false → (∀ c, s.context? m.context.toNat = some c → c.admits m.peer = false) →
      Answers (.pageReply m) s m (s.heard m) 3 [])


/-- R168, R175, R176, R177, R185, R399: the checks of a memory request of `n` bytes at its address, in their order: one of another
form is refused with status 1; one to a context that does not exist or is being reset with 5; one of a sender that the context does
not admit with 3, but for the owner's at a doorbell or in the private range; one that touches the doorbells with 1; in the private
range a write is refused with 3, a read outside the areas of the context's groups with 2; elsewhere a request that its windows do
not grant, byte for byte, is refused with 2, its address enters the ring of 64 violations, the counter goes up, and a kind-8 event
posts; the first page whose entry is malformed refuses it with 1, and one that is absent, remote, or not host-writable for a write,
with 3. Which status answers a request that fails several checks, that a request which touches the doorbells from below them fails
the check of the doorbells, and that a context field above 63 names no context, are the model's choice (log 21). -/
def Obligations.HostPaths : Prop :=
  (∀ (s : State) (m : Msg) (n : Nat) (read write : Bool),
    let ctx := m.context.toNat
    let a := m.address.toNat
    let path := s.hostPath m n true read write
    s.hostPath m n false read write = .deny s 1 ∧
    (s.context? ctx = none → path = .deny s 5) ∧
    ∀ c, s.context? ctx = some c →
      (c.st = .resetting → path = .deny s 5) ∧
      (c.st ≠ .resetting →
        let door : Prop := a < 0x0100000000000000 ∧ 0x00FFFFFFFFFFFF00 < a + n
        let area : Prop := a < 0x00FFFFFFFFFF8000 ∧ 0x00FF000000000000 < a + n
        (c.admits m.peer = false → s.fromOwner m.peer = false → path = .deny s 3) ∧
        (c.admits m.peer = false → ¬ door → ¬ area → path = .deny s 3) ∧
        (c.admits m.peer = true ∨ s.fromOwner m.peer = true →
          (door → path = .deny s 1) ∧
          (¬ door → area →
            (write = true → path = .deny s 3) ∧
            (write = false → s.areaAt ctx a n = none → path = .deny s 2) ∧
            ∀ g, write = false → s.areaAt ctx a n = some g → path = .area g)) ∧
        (c.admits m.peer = true → ¬ door → ¬ area →
          let inside : Prop := a + n ≤ 2 ^ 56 ∧ ∀ i, i < n → ∃ w ∈ c.windows, w.2.base.toNat ≤ a + i ∧
            a + i < w.2.base.toNat + w.2.len.toNat ∧ (read = true → w.2.perm.getLsbD 0 = true) ∧
            (write = true → w.2.perm.getLsbD 1 = true)
          (¬ inside → path = .deny (s.violation ctx m.address) 2) ∧
          (inside → 0 < n → ∃ first rest, pagesOf a n = first :: rest ∧ first = a ∧
            (∀ p ∈ rest, p % 32768 = 0 ∧ a < p ∧ p < a + n) ∧ (∀ p, p % 32768 = 0 → a < p → p < a + n → p ∈ rest) ∧
            (∀ s1 st, hostLeaves ctx write s (pagesOf a n) = (s1, .inr st) → path = .deny s1 st) ∧
            ∀ s1 l, hostLeaves ctx write s (pagesOf a n) = (s1, .inl l) → path = .mem s1 (hostPieces l a n))))) ∧
  (∀ (s : State) (ctx : Nat) (write : Bool) (va : Nat) (rest : List Nat),
    let w := s.walk none ctx va
    let pages := hostLeaves ctx write s (va :: rest)
    (w.2 = .broken → pages = (w.1, .inr 1)) ∧ (w.2 = .absent → pages = (w.1, .inr 3)) ∧
    ∀ l, w.2 = .leaf l →
      (pteRm l.pte = true ∨ (write = true ∧ pteHw l.pte = false) → pages = (w.1, .inr 3)) ∧
      (pteRm l.pte = false → (write = true → pteHw l.pte = true) →
        (∀ s1 st, hostLeaves ctx write w.1 rest = (s1, .inr st) → pages = (s1, .inr st)) ∧
        ∀ s1 q, hostLeaves ctx write w.1 rest = (s1, .inl q) → pages = (s1, .inl ((va / 32768, l) :: q)))) ∧
  ∀ (s : State) (ctx : Nat) (a : DWord) (c : Context), s.context? ctx = some c →
    ∃ ring, s.violation ctx a = (s.setContext ctx { c with violations := ring, violationCount := c.violationCount + 1 }).postEvent ctx
        8 (leBytes a.toNat 8 ++ leBytes (c.violationCount + 1).toNat 8) ∧
      (c.violations.length < 64 → ring = c.violations ++ [a]) ∧
      (c.violations.length = 64 → ring = c.violations.set (c.violationCount.toNat % 64) a)

/-- R168, R176, R177: a permitted read is answered with the bytes, a permitted write writes them, an atomic add or compare and swap
answers the old value and stores the new one; a request that is not permitted is answered with its status. R162, R185: a doorbell
write of the owner or of an admitted host sets its queue's post word where it lies between the post word and the end of the ring,
and makes a take due where the queue was empty; another is ignored and raises the kind-7 event. -/
def Obligations.HostMemory : Prop :=
  (∀ (s : State) (m : Msg), Performed s m →
    let s0 := s.heard m
    let n := m.length.toNat
    let ctx := m.context.toNat
    let readForm := m.payload.isEmpty && decide (1 ≤ n) && decide (n ≤ 4096)
    let writeForm := m.payload.length == n && decide (1 ≤ n) && decide (n ≤ 4096)
    let word := (n == 4 || n == 8) && decide (m.address.toNat % n = 0)
    (∀ s1 st, s0.hostPath m n readForm true false = .deny s1 st → Answers (.dzwRead m) s m s1 st []) ∧
    (∀ k, s0.hostPath m n readForm true false = .area k →
      let s1 := s0.areaLodge ctx m.address.toNat n
      Answers (.dzwRead m) s m s1 (if s1.areaBad k m.address.toNat n then 4 else 0)
        (if s1.areaBad k m.address.toNat n then [] else s1.areaRead k m.address.toNat n)) ∧
    (∀ u l s1 b, s0.hostPath m n readForm true false = .mem u l → hostRead ctx u l = (s1, some b) → Answers (.dzwRead m) s m s1 0 b) ∧
    (∀ u l s1, s0.hostPath m n readForm true false = .mem u l → hostRead ctx u l = (s1, none) → Answers (.dzwRead m) s m s1 4 []) ∧
    (∀ s1 st, s0.hostPath m n writeForm false true = .deny s1 st → Answers (.dzwWrite m) s m s1 st []) ∧
    (∀ u l, s0.hostPath m n writeForm false true = .mem u l →
      let s1 := hostWrite ctx u l m.payload
      exec (.dzwWrite m) s = .next ((s1.countFrame m false).answerOnce m 0 [] (s1.unitsOf l))) ∧
    ∀ u va pa k leaf r,
      let s1 := (u.hostTouch ctx va pa leaf).recallNow (pa / lineBytes)
      let old := leNat (memReadBytes s1.mem pa n)
      let stored (x : Nat) : State := s1.hostPut ctx pa (leBytes x n)
      s1.bankBad pa n = false →
      (s0.hostPath m n (m.payload.isEmpty && word) true true = .mem u ((va, pa, k, leaf) :: r) →
        exec (.dzwAtomicAdd m) s = .next (((stored (old + m.operand.toNat)).countFrame m false).answerOnce m 0 (leBytes old n)
          ((stored (old + m.operand.toNat)).unitsOf ((va, pa, k, leaf) :: r)))) ∧
      (s0.hostPath m n (m.payload.length == n && word) true true = .mem u ((va, pa, k, leaf) :: r) →
        (old = m.operand.toNat % 2 ^ (8 * n) →
          exec (.dzwCas m) s = .next (((stored (leNat m.payload)).countFrame m false).answerOnce m 0 (leBytes old n)
            ((stored (leNat m.payload)).unitsOf ((va, pa, k, leaf) :: r)))) ∧
        (old ≠ m.operand.toNat % 2 ^ (8 * n) → Answers (.dzwCas m) s m s1 0 (leBytes old n)))) ∧
  (∀ (s : State) (m : Msg) (c : Context) (lq : LaunchQueue),
    let ctx := m.context.toNat
    let q := (m.address.toNat - doorbellBase) / 8
    let p : DWord := BitVec.ofNat 64 (leNat m.payload)
    Performed s m → (s.heard m).context? ctx = some c → c.st = .running → (c.admits m.peer = true ∨ s.fromOwner m.peer = true) →
    isPostWord m = true → tblGet? c.queues q = some lq →
      let s1 := (s.heard m).setContext ctx { c with queues := tblSet c.queues q { lq with post := p } }
      (lq.post.toNat ≤ p.toNat → p.toNat ≤ lq.take.toNat + 2 ^ lq.k →
        Answers (.postWord m) s m
          (if lq.post = lq.take ∧ p ≠ lq.post ∧ lq.held = false then s1.due (.waybillTake ctx q) else s1) 0 []) ∧
      (p.toNat < lq.post.toNat ∨ lq.take.toNat + 2 ^ lq.k < p.toNat →
        Answers (.postWord m) s m
          ((s.heard m).postEvent ctx 7 (leBytes q 1 ++ leBytes 0 7 ++ leBytes p.toNat 8)) 0 []))

/-- R165, R166, R168, R170, R184, R400: a completion finishes the request that it names, and ends the losses of its path where the
request was sent again; one that names none is dropped. An acknowledgement counts as a frame received, ends the losses of the paths
whose retransmissions have arrived, and a completion that was sent is done with. A retransmission sends its message again, where no
path is open once one is; the third loss in a row of a path removes it, and a peer without a path is retried over the removed ones.
The end of the recovery window fails a request with status 6; a pause frame is received, and pauses a port with flow control; a
change of a link is noted. Over which path a message goes, and that a message that is too long is dropped when it is sent, is the
model's choice (log 24). -/
def Obligations.Links : Prop :=
  (∀ (s : State) (m : Msg) (t : Txn), Performed s m →
    let s0 := s.heard m
    let mine (t : Txn) : Bool := t.msg.peer == m.peer && t.msg.seq == m.operand && t.purpose != .answer
    let s1 := if t.again then s0.setLink ((s0.link m.peer).arrived [t.port]) else s0
    (s0.outstanding.find? mine = some t → exec (.dzwCompletion m) s = .next ((State.finishTxn
      { s1 with outstanding := s1.outstanding.filter (fun t => !mine t) } t m.status.toNat m.payload).countFrame m false)) ∧
    (s0.outstanding.find? mine = none → exec (.dzwCompletion m) s = .next (s0.countFrame m false))) ∧
  (∀ (s : State) (peer : BitVec 128) (seqs : List Nat),
    let named (x : Txn) : Bool := x.msg.peer == peer && seqs.contains x.msg.seq.toNat
    let received := tblMod Port.frame s.ports (s.portOf (seqs.headD 0))
    ∃ t : State, exec (.dzwAcknowledgement peer seqs) s = .next (t.heardFrom peer) ∧
      t = { s with outstanding := t.outstanding, links := t.links, ports := received } ∧
      (∀ x ∈ s.outstanding, named x = false → x ∈ t.outstanding) ∧
      (∀ x ∈ s.outstanding, named x = true → x.purpose ≠ .answer → { x with acked := true } ∈ t.outstanding) ∧
      (∀ y ∈ t.outstanding, ∃ x ∈ s.outstanding, y.msg = x.msg ∧ y.purpose = x.purpose ∧
        (named x = true → y.acked = true ∧ y.purpose ≠ .answer)) ∧
      ∀ l, s.link? peer = some l → t.link? peer = some { l with losses := l.losses.filter fun p =>
        !(s.outstanding.any fun x => named x && x.again && x.port == p.1) }) ∧
  (∀ (s : State) (peer : BitVec 128) (seq : Nat) (x : Txn),
    s.outstanding.find? (fun t => t.msg.peer == peer && t.msg.seq.toNat == seq) = some x →
      let waiting := ∃ m ∈ s.unsent, m.peer = peer ∧ m.seq.toNat = seq
      let lost (l : Link) : Nat := ((l.losses.find? fun p => p.1 == x.port).map fun p => p.2).getD 0
      (x.acked = true ∨ waiting → exec (.retransmission peer seq) s = .next s) ∧
      (x.acked = false → ¬ waiting → ∃ t, exec (.retransmission peer seq) s = .next t ∧ t.mem = s.mem ∧ t.groups = s.groups ∧
        (let removed := (t.link peer).removed
         let tried := s.openPorts (if (s.livePorts removed).isEmpty then [] else removed) (msgPrio x.msg)
         (tried ≠ [] → t.outbox = (if tooLong x.msg then s.outbox else s.outbox ++ [x.msg]) ∧ t.unsent = s.unsent) ∧
         (tried = [] → t.outbox = s.outbox ∧ t.unsent = s.unsent ++ [x.msg])) ∧
        (x.again = false → (t.link peer).removed = (s.link peer).removed ∧ (t.link peer).losses = (s.link peer).losses) ∧
        (x.again = true → lost (s.link peer) < 2 →
          (t.link peer).removed = (s.link peer).removed ∧ lost (t.link peer) = lost (s.link peer) + 1) ∧
        (x.again = true → 2 ≤ lost (s.link peer) → x.port ∉ (s.link peer).removed →
          (t.link peer).removed = (s.link peer).removed ++ [x.port]))) ∧
  (∀ (s : State) (peer : BitVec 128) (seq : Nat) (x : Txn) (since : DWord),
    let mine (t : Txn) : Bool := t.msg.peer == peer && t.msg.seq.toNat == seq
    s.outstanding.find? mine = some x → (s.link peer).recovering = some since →
      exec (.recoveryWindowExpiry peer seq) s = .next (State.finishTxn
        { s.clockAt (since + BitVec.ofNat 64 s.recoveryWindow) with
          outstanding := s.outstanding.filter (fun t => !mine t),
          unsent := s.unsent.filter (fun m => !(m.peer == peer && m.seq.toNat == seq)) } x 6 [])) ∧
  (∀ (s : State) (port : Nat) (classes : Byte) (p : Port), tblGet? s.ports port = some p →
    ∃ u : State, exec (.pauseFrame port classes) s = .next u.flush ∧ u = { s with ports := u.ports } ∧
      tblGet? u.ports port = some (if p.pfc then Port.goOn { p.frame with paused := classes } s.tick else p.frame) ∧
      ∀ k, k ≠ port → tblGet? u.ports k = tblGet? s.ports k) ∧
  ∀ (s : State) (port : Nat) (up : Bool) (p : Port), tblGet? s.ports port = some p → s.owner = none →
    ∃ u : State, exec (.linkStateChange port up) s = .next u.flush ∧ u = { s with ports := u.ports, links := u.links } ∧
      tblGet? u.ports port = some { p with up := up, paused := 0, holds := false, acks := false } ∧
      ∀ k, k ≠ port → tblGet? u.ports k = tblGet? s.ports k

/-! ## Management -/

/-- R166, R170, R173, R179, R180, R184, R348, R400: a renewal answers the new lease, a release leaves the wafer without an owner, a
named successor has 5 s; a claim wins where there is no owner and no successor, and where its key is the successor's, else it is
answered with 7; the recovery window and a port are set within their ranges; an image that verifies and is not older replaces the
firmware; physical memory is read, and written where no core holds a share of a crest; a record and a quote are returned. That the
successor's claim wins while the owner's lease runs, and that a refused image is answered with status 3, are the model's readings
(log 23), that an image of the same version replaces the firmware is too (log 12), and the layout of the quote is its choice (log
21). -/
def Obligations.WaferCommands : Prop :=
  ∀ (s : State) (m : Msg),
    let a := argsOf m
    let s0 := s.taken m
    (Commanded s m 0 false →
      Answers (.renew m) s m s0 0 (leBytes (s.clock + 30000000000).toNat 8) ∧
      Answers (.releaseOwnership m) s m { s0 with owner := none } 0 []) ∧
    (Commanded s m 2 false → Answers (.nameSuccessor m) s m
      { s0 with successor := some (fieldAt a 0 2, s.clock + 5000000000) } 0 []) ∧
    (Commanded s m 8 false →
      (100000000 ≤ fieldAt a 0 8 → fieldAt a 0 8 ≤ 60000000000 →
        Answers (.setRecoveryWindow m) s m { s0 with recoveryWindow := fieldAt a 0 8 } 0 []) ∧
      (fieldAt a 0 8 < 100000000 ∨ 60000000000 < fieldAt a 0 8 → Answers (.setRecoveryWindow m) s m s0 1 [])) ∧
    (Commanded s m 18 false → fieldAt a 0 1 ≤ 47 → fieldAt a 17 1 ≤ 1 →
      Answers (.setPort m) s m (State.flush { s0 with ports := tblMod (fun p =>
        Port.goOn { p with ip := BitVec.ofNat 128 (fieldAt a 1 16), pfc := fieldAt a 17 1 == 1,
                           paused := if fieldAt a 17 1 = 1 then p.paused else 0 } s0.tick) s0.ports (fieldAt a 0 1) }) 0 []) ∧
    (Commanded s m 16 false → fieldAt a 0 8 + fieldAt a 8 8 ≤ Config.hbmBytes → s.bankBad (fieldAt a 0 8) (fieldAt a 8 8) = false →
      let image := memReadBytes s.mem (fieldAt a 0 8) (fieldAt a 8 8)
      let good := firmwareSigned image = true ∧ Config.firmwareVersion s.runningImage ≤ Config.firmwareVersion image
      Answers (.updateFirmware m) s m (if good then { s0 with firmware := some image } else s0) (if good then 0 else 3) []) ∧
    (Commanded s m 12 false → 0 < fieldAt a 8 4 → fieldAt a 8 4 ≤ 4000 → physRefused (fieldAt a 0 8) (fieldAt a 8 4) = false →
      s.bankBad (fieldAt a 0 8) (fieldAt a 8 4) = false →
        ∃ s1, Answers (.readPhysical m) s m s1 0 (memReadBytes s.mem (fieldAt a 0 8) (fieldAt a 8 4)) ∧ s1.groups = s.groups) ∧
    (∀ n, Commanded s m n false → 9 ≤ n → n ≤ 4008 → physRefused (fieldAt a 0 8) (a.drop 8).length = false →
      let lines := (piecesOf (fieldAt a 0 8) (a.drop 8).length).map fun p => p.1 / lineBytes
      (s0.askParty innkeeperParty lines = none →
        let s1 := endServicesOf (s0.physWrite (fieldAt a 0 8) (a.drop 8)) innkeeperParty lines
        exec (.writePhysical m) s = .next ((s1.countFrame m false).answerOnce m 0 [] (lines.map s0.dirLine))) ∧
      ∀ s1, s0.askParty innkeeperParty lines = some s1 → exec (.writePhysical m) s = .next ((s1.forget m).putBack m)) ∧
    (Performed s m → s.broughtUp = true → signedBy m (fieldAt a 0 2) = true → formOk m (fun k => k == 2) false true = true →
      let owned : State := { s.heard m with owner := some { ip := m.peer, key := fieldAt a 0 2, lease := s.clock + 30000000000 },
                                               successor := none }
      (s.owner = none → s.successor = none → Answers (.claim m) s m owned.reportDown 0 (leBytes (s.clock + 30000000000).toNat 8)) ∧
      (∀ t, s.successor = some (fieldAt a 0 2, t) →
        Answers (.claim m) s m owned.reportDown 0 (leBytes (s.clock + 30000000000).toNat 8)) ∧
      (s.owner ≠ none → s.successor = none → Answers (.claim m) s m (s.heard m) 7 []) ∧
      ∀ k t, s.successor = some (k, t) → k ≠ fieldAt a 0 2 → Answers (.claim m) s m (s.heard m) 7 []) ∧
    (Performed s m → formOk m (fun k => k == 4) false false = true →
      ∀ b, (s.heard m).stateRecord (fieldAt a 0 2) (fieldAt a 2 2) = some b → Answers (.readState m) s m (s.heard m) 0 b) ∧
    (Performed s m → formOk m (fun k => k == 32) false false = true →
      let body := Config.deviceIdentity ++ leBytes s.part.grade 4 ++ sha512 s.runningImage ++ a ++ s.overrides.flatten
      Answers (.attest m) s m (s.heard m) 0 (body ++ identitySign (s.heard m).tick body))

/-- R162, R171, R175, R176, R178, R216, R299, R386, R389, R390, R398: the commands to a context that set its registers, halt and
resume it; a share for a context that does not exist is answered with status 5. The counts of a new queue, and the places of the
violations that are returned, are the model's choice (log 21); so is it that a resume runs the context at once while its fault event
is still to post (log 33). -/
def Obligations.ContextCommands : Prop :=
  ∀ (s : State) (m : Msg) (c : Context),
    let a := argsOf m
    let s0 := s.taken m
    let ctx := m.context.toNat
    let put (c : Context) : State := s0.setContext ctx c
    (Commanded s m 1 true → s0.context? ctx = none → Answers (.setShare m) s m s0 5 []) ∧
    (Commanded s m 21 true → s0.context? ctx = none → fieldAt a 8 1 ≠ 0 →
      (∃ k, k ≤ 12 ∧ fieldAt a 17 4 = 16 * 2 ^ k) → Answers (.createContext m) s m
        (put (Context.fresh (BitVec.ofNat 64 (fieldAt a 0 8)) (fieldAt a 8 1) (BitVec.ofNat 64 (fieldAt a 9 8)) (fieldAt a 17 4)
          s.clock)) 0 []) ∧
    (s0.context? ctx = some c → c.st ≠ .resetting →
      (Commanded s m 21 true → Answers (.createContext m) s m s0 1 []) ∧
      (Commanded s m 1 true →
        (fieldAt a 0 1 ≠ 0 → Answers (.setShare m) s m (put { c with share := fieldAt a 0 1 }) 0 []) ∧
        (fieldAt a 0 1 = 0 → Answers (.setShare m) s m s0 1 [])) ∧
      (Commanded s m 18 true → fieldAt a 0 1 ≤ 31 → fieldAt a 17 1 ≤ 3 → fieldAt a 1 8 + fieldAt a 9 8 ≤ 2 ^ 56 →
        let w : Window :=
          { base := BitVec.ofNat 64 (fieldAt a 1 8), len := BitVec.ofNat 64 (fieldAt a 9 8), perm := BitVec.ofNat 2 (fieldAt a 17 1) }
        (fieldAt a 9 8 ≠ 0 → Answers (.setWindow m) s m (put { c with windows := tblSet c.windows (fieldAt a 0 1) w }) 0 []) ∧
        (fieldAt a 9 8 = 0 → Answers (.setWindow m) s m (put { c with windows := tblErase c.windows (fieldAt a 0 1) }) 0 [])) ∧
      (Commanded s m 18 true → fieldAt a 0 1 ≤ 127 →
        let p : Peer := { ip := BitVec.ofNat 128 (fieldAt a 1 16), tag := BitVec.ofNat 8 (fieldAt a 17 1) }
        Answers (.setPeer m) s m (put { c with peers := tblSet c.peers (fieldAt a 0 1) p }) 0 []) ∧
      (Commanded s m 19 true →
        let ip : BitVec 128 := BitVec.ofNat 128 (fieldAt a 0 16)
        (fieldAt a 18 1 = 1 → ∃ c1, Answers (.admitHost m) s m (put c1) 0 [] ∧ c1 = { c with hosts := c1.hosts } ∧
          c1.admits ip = true ∧ ∀ x, x ≠ ip → c1.admits x = c.admits x) ∧
        (fieldAt a 18 1 = 0 → ∃ c1, Answers (.admitHost m) s m (put c1) 0 [] ∧ c1 = { c with hosts := c1.hosts } ∧
          c1.admits ip = false ∧ ∀ x, x ≠ ip → c1.admits x = c.admits x)) ∧
      (Commanded s m 10 true → fieldAt a 0 1 ≤ 7 → fieldAt a 1 8 % 128 = 0 → 4 ≤ fieldAt a 9 1 → fieldAt a 9 1 ≤ 12 →
        let q : LaunchQueue :=
          { base := BitVec.ofNat 64 (fieldAt a 1 8), k := fieldAt a 9 1, post := 0, take := 0, held := false, faulted := false,
            fatal := [] }
        Answers (.setQueue m) s m (put { c with queues := tblSet c.queues (fieldAt a 0 1) q }) 0 []) ∧
      (Commanded s m 16 true → (fieldAt a 0 8 = 0 ∨ (10000000 ≤ fieldAt a 0 8 ∧ fieldAt a 0 8 ≤ 60000000000)) →
        (fieldAt a 8 8 = 0 ∨ (1000000000 ≤ fieldAt a 8 8 ∧ fieldAt a 8 8 ≤ 3600000000000)) →
        Answers (.setWatchdog m) s m ((put { c with watchdog := fieldAt a 0 8, park := fieldAt a 8 8 }).restartWindow ctx) 0 []) ∧
      (Commanded s m 25 true → fieldAt a 0 1 ≤ 15 →
        regionOk (fieldAt a 1 8) (fieldAt a 9 8) (fieldAt a 17 4) (fieldAt a 21 4) = true →
        let r : RegionReg :=
          { base := BitVec.ofNat 64 (fieldAt a 1 8), len := BitVec.ofNat 64 (fieldAt a 9 8), kind := fieldAt a 17 4,
            crest := BitVec.ofNat 32 (fieldAt a 21 4) }
        let written (s : State) : State := s.modContext ctx fun c => { c with regions := tblSet c.regions (fieldAt a 0 1) r }
        (tblGet? c.regions (fieldAt a 0 1) = none → Answers (.setRegion m) s m (written s0) 0 []) ∧
        ∀ old, tblGet? c.regions (fieldAt a 0 1) = some old →
          (s0.settleRange ctx old = none →
            let d := s0.drainRange ctx old
            exec (.setRegion m) s = .next (((written d.1).countFrame m false).answerOnce m 0 [] d.2)) ∧
          ∀ s1, s0.settleRange ctx old = some s1 → exec (.setRegion m) s = .next ((s1.forget m).putBack m)) ∧
      (Commanded s m 0 true →
        (c.st = .running → Answers (.haltContext m) s m (put { c with st := .halted }) 0 []) ∧
        (c.st ≠ .running → Answers (.haltContext m) s m s0 0 []) ∧
        (c.st = .running → Answers (.resumeContext m) s m s0 0 []) ∧
        (c.st ≠ .running → c.channelHalted = false → Answers (.resumeContext m) s m
          (((s0.restartWaits ctx).modContext ctx fun c => { c with st := .running, unhalted := [] }).takeUp ctx) 0 []) ∧
        Answers (.readViolations m) s m s0 0
          (bytesAt ((c.violations.map fun v => leBytes v.toNat 8).flatten) 0 512 ++ leBytes c.violationCount.toNat 8) ∧
        exec (.resetContext m) s = .next ((((s0.tearDown ctx c m).due (.quiesceTokenReturn ctx)).dispatch).countFrame m false)) ∧
      (Commanded s m 3 true → ∀ gid g b k l, s0.groupAt ctx (fieldAt a 0 2) (fieldAt a 2 1) = some (gid, g) →
        g.halt = .debug true b k l →
        let g1 := (g.setSlot b ((g.slot b).map fun x => { x with pc := x.pc + 4, run := x.run + 1 })).restartWaits
        Answers (.resumeGroup m) s m (s0.setGroup gid { g1 with halt := .running, active := true }) 0 []))

/-- R102, R153, R184, R286, R348: a shootdown writes back and drops the lines and the translations of its range on every core; a
page reply wakes what was held on its page; an object that passes its checks is loaded, once no core holds a share of the crest of a
line that it writes, and one that does not is refused with its conditions; the event log is read. -/
def Obligations.MappingCommands : Prop :=
  ∀ (s : State) (m : Msg) (c : Context),
    let a := argsOf m
    let ctx := m.context.toNat
    ((s.taken m).context? ctx = some c → c.st ≠ .resetting →
      (Commanded s m 16 true →
        let s0 := s.taken m
        let lo := fieldAt a 0 8 / lineBytes
        let hi := (fieldAt a 0 8 + fieldAt a 8 8 + lineBytes - 1) / lineBytes
        let s1 := s0.shootRange ctx lo hi
        (s1.oldAccesses ctx lo hi = false →
          exec (.shootdown m) s = .next ((s1.countFrame m false).answerOnce m 0 [] (s1.invals.map fun x => x.1))) ∧
        (s1.oldAccesses ctx lo hi = true →
          exec (.shootdown m) s = .next (((s1.dueAll (s1.sluicesIn ctx lo hi)).forget m).putBack m))) ∧
      (Commanded s m 60 true → fieldAt a 56 4 ≤ 1 →
        let args : LoadArgs :=
          { image := fieldAt a 0 8, length := fieldAt a 8 8, base := fieldAt a 16 8, limit := fieldAt a 24 8, phys := fieldAt a 32 8,
            physLen := fieldAt a 40 8, result := fieldAt a 48 8, override := natBit (fieldAt a 56 4) 0 }
        (∀ s1 b, (s.taken m).readImage ctx args = .ok s1 b →
          let mask := s1.refusalMask c.root.toNat args b
          let weirs := s1.crestLines ctx args (symbolsOf b (sectionsOf b)).length
          (refusing args.override mask = 0 →
            (s1.askParty innkeeperParty weirs = none → ∀ s2 handle entries, s1.loadImage ctx c args b = (s2, handle, entries) →
              exec (.loadObject m) s = .next (((endServicesOf s2 innkeeperParty weirs).countFrame m false).answerOnce m 0
                (leBytes handle 4 ++ leBytes entries 4) ((s2.invals.filter fun x => x.2.2 == noCore).map fun x => x.1))) ∧
            ∀ s2, s1.askParty innkeeperParty weirs = some s2 → exec (.loadObject m) s = .next ((s2.forget m).putBack m)) ∧
          (refusing args.override mask ≠ 0 → Answers (.loadObject m) s m s1 1 (leBytes mask 4))) ∧
        ∀ s1 st va, (s.taken m).readImage ctx args = .fail s1 st va → Answers (.loadObject m) s m s1 1 (leBytes 4096 4))) ∧
    (Performed s m → (s.heard m).context? ctx = some c → c.st ≠ .resetting →
      (formOk m (fun k => k == 8) true false = true →
        Answers (.readEventLog m) s m (s.heard m) 0 ((c.log.drop (fieldAt a 0 8)).take 4000)) ∧
      (formOk m (fun k => k == 9) true false = true → (s.fromOwner m.peer = true ∨ c.admits m.peer = true) → fieldAt a 8 1 ≤ 2 →
        let pages := c.answered (fieldAt a 0 8)
        let fatal := verdictOn pages (if fieldAt a 8 1 = 0 then none else some (fieldAt a 8 1 == 2))
        let s1 := (s.heard m).modContext ctx fun c => { c with requested := c.requested.filter fun p => !pages.contains p }
        Answers (.pageReply m) s m (((s1.wakeHeld ctx fatal).wakeHeldOps ctx pages fatal).retryDispatcher ctx fatal) 0 []))

/-- R173, R181, R182: the end of a lease leaves the wafer without an owner, the end of a grace without a successor; bring-up, where
the firmware verifies, brings up the ports whose partners come up; the innkeeper changes the clock. R393: dressing takes a core in
its turn, passes over one with a gated crew, and pre-empts the crews of the core until all have left it. R5, R6, R394: a core that
fails dressing writes back what its L1 holds and spills its delta lines; once none is left (the model's choice, log 27) it is
fenced: the nearest spare that is free takes its number, else the number is absent and the owner is told; every launch that awaited
a dressing of the core is suspect, with a kind-3 event, and the dispatcher looks again at the crews that it saved. -/
def Obligations.WaferEvents : Prop :=
  (∀ s : State,
    (∀ o, s.owner = some o → ∃ t, exec .leaseLapse s = .next t ∧ t.owner = none ∧ t.clock = (s.clockAt o.lease).clock ∧
      t.groups = s.groups ∧ t.mem = s.mem ∧ t.contexts = s.contexts) ∧
    (∀ k t, s.successor = some (k, t) → exec .successorGraceExpiry s = .next { s.clockAt t with successor := none }) ∧
    (s.broughtUp = false → ∃ u : State, exec .bringUp s = .next (if firmwareSigned s.runningImage then u.flush else s) ∧
      u = { s with broughtUp := true, ports := u.ports } ∧
      ∀ k, tblGet? u.ports k = (tblGet? s.ports k).map fun p => { p with up := p.up || Config.partnerUp k }) ∧
    ∀ mhz, 0 < mhz → mhz ≤ 2500 → mhz ≠ s.mhz → ∃ t, exec (.clockChange mhz) s = .next t ∧ t.mhz = mhz ∧ t.mem = s.mem ∧
      t.groups = s.groups ∧ t.contexts = s.contexts) ∧
  (∀ (s : State) (core : Nat), s.dressTurn = core → s.testing < 4 → (s.coreSt core).testing = false →
    (s.physOf core).isSome = true →
    (s.holdsGated core = true → ∃ t, exec (.dressingPass core) s = .next t ∧ core ∈ t.skipped ∧ t.cores = s.cores ∧
      t.agenda = s.agenda) ∧
    (s.holdsGated core = false → ∃ t, exec (.dressingPass core) s = .next t ∧ (t.coreSt core).testing = true ∧
      t.groups = s.groups ∧ t.crews = s.crews ∧
      t.agenda = s.agenda ++ (((s.crews.filter fun c => c.2.core == core && c.2.res == .resident).map fun c => .preemptionHalt c.1) ++
        [.dressingResult core true]))) ∧
  (∀ (s : State) (core : Nat) (pass : Bool), (s.coreSt core).testing = true →
    (s.residents core ≠ [] →
      exec (.dressingResult core pass) s = .next (s.dueAll (s.unhaltedOn core ++ [.dressingResult core pass]))) ∧
    (s.residents core = [] → s.awaiting core = [] → exec (.dressingResult core true) s = .next
      (s.modCore core fun c => { c with testing := false, dress := c.dress + 1 }).dispatch) ∧
    (s.residents core = [] →
      let s0 := s.emptyCore core
      let s1 := (s0.modCore core fun c => { c with testing := false }).fence core
      (s0.emptied core = false → exec (.dressingResult core false) s = .next (s0.due (.dressingResult core false))) ∧
      (s0.emptied core = true → exec (.dressingResult core false) s = .next
        ((s1.awaiting core).foldl (fun t k => t.suspect core k) s1).dispatch))) ∧
  (∀ (s : State) (core p : Nat), s.physOf core = some p →
    let free (q : Nat) : Prop := q < 960 ∧ s.part.isSpare q = true ∧ q ∉ s.usedSpares
    let far (q : Nat) : Nat := hops (p / 15) (q / 15)
    (∀ q, s.spareFor p = some q → free q ∧ ∀ x, free x → far q < far x ∨ (far q = far x ∧ q ≤ x)) ∧
    (s.spareFor p = none → ∀ q, ¬ free q) ∧
    (∀ q, s.spareFor p = some q → (s.fence core).physOf core = some q ∧ q ∈ (s.fence core).usedSpares ∧
      (∀ k, k ≠ core → (s.fence core).physOf k = s.physOf k) ∧ (s.fence core).crews = s.crews ∧ (s.fence core).groups = s.groups) ∧
    (s.spareFor p = none → s.fence core = State.notice { s with renumbered := tblSet s.renumbered core none } noContext 5 (leBytes core 2) ∧
      (s.fence core).physOf core = none)) ∧
  (∀ a b, hops a b = (a % 8 - b % 8) + (b % 8 - a % 8) + ((a / 8 - b / 8) + (b / 8 - a / 8))) ∧
  ∀ (s : State) (core key : Nat),
    (key ∈ s.awaiting core ↔ ∃ x ∈ s.launches, x.1 = key ∧ core ∈ x.2.unconfirmed) ∧
    ∀ l, s.launch? key = some l → s.suspect core key = (s.setLaunch key
      { l with suspect := true, unconfirmed := l.unconfirmed.filter fun c => c != core }).postEvent l.ctx 3
        (leBytes l.id 4 ++ leBytes core 2)

/-! ## Steps of the dispatcher -/

/-- R160, R162, R163, R214, R215, R401: the dispatcher takes the next posted waybill of a queue: the take count goes up and is
written, the launch gets the next identifier, and the waybill is checked; one that fails is rejected, one that cannot be read with
code 11, the heads of the queues behind one that passes are looked at. A head whose tickets are satisfied reads its parameters and
is ready; one whose ticket names a rejected or failed launch is rejected with code 7, one whose parameters cannot be read with code
10. A page that is not there holds the queue, or the launch; a count or a read that must wait for other cores is tried again. The
number of a launch's slot is its place in the ring, and a ticket that names the launch itself passes: the model's choices (log 21,
log 14). -/
def Obligations.TakingWaybills : Prop :=
  (∀ (s : State) (ctx q : Nat) (c : Context) (lq : LaunchQueue),
    s.context? ctx = some c → c.st = .running → tblGet? c.queues q = some lq → lq.take.toNat < lq.post.toNat →
      let route := s.sysRoute ctx lq.takeAddr 8 true lq.fatal
      let slot := lq.take.toNat % 2 ^ lq.k
      let read := sysRead ctx lq.fatal route.1 (piecesOf (lq.base.toNat + 128 * slot) 128)
      let taken : LaunchQueue := { lq with take := lq.take + 1, held := false }
      let put (s1 : State) := s1.putTake ctx q taken
      let moved (s1 : State) := (put s1).1.modContext ctx fun c =>
        { c with queues := tblMod (fun x => { x with take := taken.take, held := false, fatal := [] }) c.queues q }
      let more (s : State) : State := if taken.take.toNat < taken.post.toNat then s.due (.waybillTake ctx q) else s
      (∀ p, route.2 = .held p → exec (.waybillTake ctx q) s = .next (route.1.holdQueue ctx q lq.takeAddr p)) ∧
      ((∀ p, route.2 ≠ .held p) →
        (∀ s1 w, read = .ok s1 w → (put s1).2 = true →
          let launched := (moved s1).newLaunch ctx q slot w .taken false
          (launched.1.checkTake ctx w false 0 1 = none →
            exec (.waybillTake ctx q) s = .next (more (launched.1.readyHeads ctx))) ∧
          ∀ code, launched.1.checkTake ctx w false 0 1 = some code →
            exec (.waybillTake ctx q) s = .next (more (launched.1.rejectLaunch launched.2 code))) ∧
        (∀ s1 st va, read = .fail s1 st va → (put s1).2 = true →
          let launched := (moved s1).newLaunch ctx q slot [] .taken false
          exec (.waybillTake ctx q) s = .next (more (launched.1.rejectLaunch launched.2 11))) ∧
        (∀ s1 w, read = .ok s1 w → (put s1).2 = false →
          exec (.waybillTake ctx q) s = .next ((put s1).1.due (.waybillTake ctx q))) ∧
        (∀ s1, read = .later s1 → exec (.waybillTake ctx q) s = .next (s1.due (.waybillTake ctx q))) ∧
        ∀ s1 va p, read = .held s1 va p → exec (.waybillTake ctx q) s = .next (s1.holdQueue ctx q va p))) ∧
  ∀ (s : State) (key : Nat) (l : Launch), s.launch? key = some l → s.queueHead l.ctx l.queue = some key → s.running l.ctx = true →
    let first := s.ticketState l.ctx (fieldAt l.wb 0x50 8)
    let second := s.ticketState l.ctx (fieldAt l.wb 0x58 8)
    (first = some false ∨ second = some false → exec (.waybillReady key) s = .next (s.rejectLaunch key 7)) ∧
    (first = some true → second = some true →
      (∀ s1 p, s.readParams l = .ok s1 p → exec (.waybillReady key) s = .next
        (((s1.setLaunch key { l with st := .ready, params := p, fatal := [] }).readyHeads l.ctx).due (.openLaunch key))) ∧
      (∀ s1 st va, s.readParams l = .fail s1 st va → exec (.waybillReady key) s = .next (s1.rejectLaunch key 10)) ∧
      (∀ s1, s.readParams l = .later s1 → exec (.waybillReady key) s = .next (s1.due (.waybillReady key))) ∧
      ∀ s1 va p, s.readParams l = .held s1 va p →
        exec (.waybillReady key) s = .next ((s1.setLaunch key { l with st := .held }).requestPage l.ctx va p))

/-- R216, R217, R218, R219, R220, R224, R388, R394: the launch that the priorities and shares choose is opened and takes the next
place in the opening order; one whose placement set is empty is rejected with code 8. What waits first, and fits as the cores stand,
is what is placed next; a seat is a core of its set, one that comes back sits on its own core where that is present, and no core is
overfull with the crews that are seated on it. What is seated is placed: a crew, or the crews of a gated launch together with a
tree. The crews to be halted are resident ones of lower priority than something that waits, the lowest priority first, in it those
placed latest; their halts and the next placement are due at once. A step that places a crew may name any
core of its set that takes it; which core the dispatcher names by itself, and that what waits keeps the seats of its victims, is the
model's choice (logs 11 and 27). The earliest batch of a context closes 2 µs after it was
opened. -/
def Obligations.OpeningLaunches : Prop :=
  (∀ (s s1 : State) (k key : Nat) (l : Launch), s.choose = some (key, s1) → s1.launch? key = some l →
    (s1.placementSet l.wb = [] → exec (.openLaunch k) s = .next (s1.rejectLaunch key 8)) ∧
    (s1.placementSet l.wb ≠ [] →
      (wbGated l.wb = true → crewTotal l.wb ≤ ((s1.placementSet l.wb).map fun _ => roomFor (0, 0, 0) l.wb).sum) →
      let opened : Launch := { l with st := .opened, order := s1.nextOrder }
      exec (.openLaunch k) s = .next (State.setLaunch { s1 with nextOrder := s1.nextOrder + 1 } key opened).dispatch)) ∧
  (∀ (s : State) (key core : Nat) (seats : List (Nat × Nat × Nat × Nat)), s.seatsOn (.launch key) core = some seats →
      let placed := seats.foldl (fun t k => t.placeCrew key k.1) s
      (wbGated (s.wbOf key) = false → exec (.crewPlacement key core) s = .next placed.dispatch) ∧
      ∀ t r, wbGated (s.wbOf key) = true → s.freeTrees = t :: r →
        exec (.crewPlacement key core) s = .next (placed.giveTree key t).dispatch) ∧
  (∀ s : State,
    let asIs : Room := { gone := [], kept := [], pool := 0, trees := 0 }
    (∀ p r seats, s.pending = p :: r → s.places [asIs, { asIs with gone := s.halting }] p = some seats → s.plan = (some (p, seats), [])) ∧
    (∀ p core seats, s.seatsOn p core = some seats → ∃ k ∈ seats, k.1 = core) ∧
    (∀ key r seats core n, s.pending = .launch key :: r → s.places [asIs, { asIs with gone := s.halting }] (.launch key) = some seats →
      wbGated (s.wbOf key) = false → s.needs (.launch key) = [n] → core ∈ s.placementSet (s.wbOf key) → s.coreOpen core = true →
      loadFits (addLoad (s.coreLoad core []) n.2) = true → loadFits (addLoad (s.coreLoad core s.halting) n.2) = true →
        s.seatsOn (.launch key) core = some [(core, n.2)]) ∧
    (∀ p seats, (s.seatsFor p = some seats ∨ ∃ core, s.seatsOn p core = some seats) → p ∈ s.pending ∧ seats.length = (s.needs p).length ∧
      (∀ x ∈ (s.needs p).zip seats, x.2.1 ∈ x.1.1 ∧ x.2.2 = x.1.2) ∧
      ∀ k ∈ seats, s.coreOpen k.1 = true ∧
        loadFits ((seats.filter fun x => x.1 == k.1).foldl (fun a x => addLoad a x.2) (s.coreLoad k.1 [])) = true) ∧
    (∀ key n, n ∈ s.needs (.launch key) → n.1 = s.placementSet (s.wbOf key)) ∧
    (∀ id c, s.crew? id = some c → (s.physOf c.core).isSome = true → wbGated (s.wbOf c.launch) = false →
      s.needs (.crew id) = [([c.core], s.crewLoad c)]) ∧
    (∀ p x, x ∈ s.victims p ↔ x ∈ s.crews ∧ x.2.res = .resident ∧ (∃ n ∈ s.needs p, x.2.core ∈ n.1) ∧
      wbPriority (s.wbOf x.2.launch) < (s.pendingKey p).1) ∧
    (∀ p, (s.victims p).Pairwise fun a b =>
      let lower := wbPriority (s.wbOf a.2.launch)
      let upper := wbPriority (s.wbOf b.2.launch)
      lower ≤ upper ∧ (lower = upper → b.2.order ≤ a.2.order)) ∧
    (∀ id ∈ s.plan.2, .preemptionHalt id ∈ s.dispatch.agenda ∧ ∃ x ∈ s.crews, x.1 = id ∧ x.2.res = .resident ∧
      ∃ p ∈ s.pending, wbPriority (s.wbOf x.2.launch) < (s.pendingKey p).1) ∧
    (∀ key seats, s.plan.1 = some (.launch key, seats) →
      .crewPlacement key ((seats.head?.map fun k => k.1).getD 0) ∈ s.dispatch.agenda) ∧
    ∀ id seats, s.plan.1 = some (.crew id, seats) → .crewResume id ∈ s.dispatch.agenda) ∧
  ∀ (s : State) (ctx : Nat) (c : Context) (b : Batch) (r : List Batch), s.context? ctx = some c → c.batches = b :: r →
    c.st = .running → exec (.aggregatorBatchClose ctx) s = .next ((s.clockAt (b.openedAt + 2000)).closeBatch ctx b)

/-- R130, R161, R204, R215, R217, R222, R228, R287, R390, R399: a group without a present lane leaves the machine with its
registers, and with its private area but for one that is kept until a reset, whose lines have left the L1s; what it did counts as
progress of its context, and its place on the core may let another crew be placed; the last group of a crew frees the crew's place,
and the launch counts it. A launch whose crews have all ended drains its cores' weir additions until none is pending, waits for the
invalidations that the dispatcher caused, writes its completion word, and completes with the status of that write; without a
completion word the status is 1. -/
def Obligations.EndOfLaunches : Prop :=
  (∀ (s : State) (gid : Nat) (g0 : Group) (c : Crew), s.group? gid = some g0 → g0.present = 0 →
    let s0 := s.flushArea (s.ctxOf g0) g0.privBase.toNat (s.areaSize g0)
    let g := (s0.group? gid).getD g0
    let left := s0.leaveTollgate gid g
    let gone := State.modContext { left with groups := tblErase left.groups gid } (s.ctxOf g) fun c =>
      { c with kept := c.kept ++ s.keptOf gid g, progress := c.progress || g.active }
    gone.group? gid = none ∧
    (gone.crew? g.crew = some c →
      let ended : Crew := { c with ended := c.ended ++ [gid] }
      (ended.live ≠ [] → exec (.groupCompletion gid) s = .next ((gone.setCrew g.crew ended).recheckBars none g.crew).dispatch) ∧
      (ended.live = [] → exec (.groupCompletion gid) s = .next ((gone.setCrew g.crew ended).endCrew g.crew ended).dispatch))) ∧
  ∀ (s : State) (key : Nat) (l : Launch), s.launch? key = some l →
    (l.st = .ended →
      let drained : Launch := { l with draining := l.draining.filter fun c => s.weirPending l.ctx c }
      let s0 := s.setLaunch key drained
      (drained.draining ≠ [] → exec (.launchCompletion key) s = .next
        ((s0.dueAll (s.spillsDue l.ctx drained.draining)).due (.launchCompletion key))) ∧
      (drained.draining = [] →
        let word := fieldAt l.wb 0x40 8
        let write := s0.sysWrite l.ctx word (bytesAt l.wb 0x48 8) drained.fatal completionTag
        (word = 0 → exec (.launchCompletion key) s = .next (s0.finishLaunch key drained 1)) ∧
        (word ≠ 0 → s0.sysPending = true → exec (.launchCompletion key) s = .next (s0.due (.launchCompletion key))) ∧
        (word ≠ 0 → s0.sysPending = false →
          (∀ s1 x, write = .ok s1 x → s1.sysPending = false →
            exec (.launchCompletion key) s = .next (s1.finishLaunch key drained 0)) ∧
          (∀ s1 x, write = .ok s1 x → s1.sysPending = true → exec (.launchCompletion key) s = .next
            ((s1.setLaunch key { drained with st := .written, wordHeld := false }).due (.launchCompletion key))) ∧
          (∀ s1 st va, write = .fail s1 st va → exec (.launchCompletion key) s = .next (s1.finishLaunch key drained st)) ∧
          (∀ s1, write = .later s1 → exec (.launchCompletion key) s = .next (s1.due (.launchCompletion key))) ∧
          ∀ s1 va p, write = .held s1 va p → exec (.launchCompletion key) s = .next
            ((s1.setLaunch key { drained with wordHeld := true }).requestPage l.ctx va p)))) ∧
    (l.st = .written →
      (s.sysPending = true → exec (.launchCompletion key) s = .next (s.due (.launchCompletion key))) ∧
      (s.sysPending = false → exec (.launchCompletion key) s = .next (s.finishLaunch key l 0)))

/-! ## Steps of the cores -/

/-- R202, R209, R210: a split that has run 1,024 instructions and stands between two changes places with a spilled one that can run,
but for one in a frozen slot, and their waits count from the start; the group that a core chooses gives up its vector registers once
no load of it is outstanding, and takes them back where an allocation of their size is served. R212, R219, R387, R388, R395: a crew
that is pre-empted halts, with the crews of its gated launch, once no other pre-emption is under way on their cores, if it still has
to leave; once the loads, copy commands and restarts of all of them are settled they move to the shadow storage, their matrix
operations with them, and what stood there moves to HBM; a pre-emption that a fault has ended lets them go on. A saved crew is
resident again, with new residence indices (the model's choice: log 17), once its core, or where that number is absent another of
its set (R394) (which one is the model's choice: log 27), is its seat in the dispatcher's plan (R217). -/
def Obligations.SlotsAndCrews : Prop :=
  ((∀ (s : State) (gid : Nat) (g : Group) (slotB : Bool) (x y : Split) (r : List Split), s.group? gid = some g →
    g.slot slotB = some x → takePending g.spilled = some (y, r) →
      (1024 ≤ x.run → x.since = none → g.frozen slotB = false →
        ∃ t g1, exec (.splitRotation gid slotB) s = .next t ∧ t = { s with groups := t.groups } ∧ t.group? gid = some g1 ∧
          g1.slot slotB = some { y with run := 0, waitCount := 0 } ∧ g1.slot (!slotB) = g.slot (!slotB) ∧
          { x with entry := y.entry, waitCount := 0 } ∈ g1.spilled ∧
          g1.spilled.length = g.spilled.length ∧ ∀ k, k ≠ gid → t.group? k = s.group? k) ∧
      (x.run < 1024 ∨ x.since ≠ none ∨ g.frozen slotB = true → ∃ t, exec (.splitRotation gid slotB) s = .next t ∧ t = { s with groups := t.groups } ∧
        ∀ k, t.group? k = s.group? k)) ∧
  (∀ (s : State) (gid : Nat) (g : Group), s.group? gid = some g → g.swapped = false →
    g.leaving = true ∨ s.swapChoice (s.coreOf g) = some gid →
      (s.loadsOut gid g = false → exec (.swapOut gid) s =
        .next ((s.setGroup gid { g with swapped := true, leaving := false }).restore gid)) ∧
      (s.loadsOut gid g = true → exec (.swapOut gid) s =
        .next ((s.setGroup gid { g with leaving := true }).due (.swapOut gid)))) ∧
  ∀ (s : State) (gid : Nat) (g : Group) (c : Crew), s.group? gid = some g → g.swapped = true → s.crew? g.crew = some c →
    (c.res = .resident → s.allocServed (s.coreOf g) g.crew g.swappedRegs = true →
      exec (.swapIn gid) s = .next (s.setGroup gid g.restored)) ∧
    (c.res = .resident → s.allocServed (s.coreOf g) g.crew g.swappedRegs = false →
      exec (.swapIn gid) s = .next (s.due (.swapIn gid))) ∧
    (c.res ≠ .resident → exec (.swapIn gid) s = .next s)) ∧
  (∀ (s : State) (k : Nat) (c : Crew), s.crew? k = some c →
    let all := s.mates k c
    let gated := wbGated (s.wbOf c.launch)
    (gated = false → all = [(k, c)]) ∧ (∀ x ∈ all, gated = true → x.2.launch = c.launch ∧ x.2.res = c.res) ∧
    (s.toLeave k c = ((s.coreSt c.core).testing || s.plan.2.contains k)) ∧
    (c.res = .resident → s.toLeave k c = false → exec (.preemptionHalt k) s = .next s) ∧
    (c.res = .resident → s.toLeave k c = true →
      (s.preempting (all.map fun x => x.2.core) = true → exec (.preemptionHalt k) s = .next (s.due (.preemptionHalt k))) ∧
      (s.preempting (all.map fun x => x.2.core) = false → ∃ t, exec (.preemptionHalt k) s = .next t ∧
        t = { s with groups := t.groups, crews := t.crews, agenda := t.agenda } ∧
        t.agenda = s.agenda ++ all.map (fun x => .shadowSwap x.1) ∧
        (∀ x ∈ all, (t.crew? x.1).map Crew.res = some .halting ∧ ∀ gid ∈ x.2.groups, ∀ g, t.group? gid = some g → g.halt ≠ .running) ∧
        ∀ gid, (∀ x ∈ all, gid ∉ x.2.groups) → t.group? gid = s.group? gid)) ∧
    (c.res = .halting →
      ((∀ x ∈ all, s.crewSettled x.2 = true) →
        exec (.shadowSwap k) s = .next (all.foldl (fun t x => t.swapCrew x.1 x.2) s).dispatch) ∧
      ((∃ x ∈ all, s.crewSettled x.2 = false) → exec (.shadowSwap k) s = .next (s.due (.shadowSwap k)))) ∧
    (c.res = .ending → ∃ t, exec (.shadowSwap k) s = .next t ∧
      (t.crew? k).map Crew.res = some .resident ∧ ∀ gid ∈ c.groups, ∀ g, t.group? gid = some g → g.halt ≠ .preempted) ∧
    ∀ seats, s.seatsFor (.crew k) = some seats →
      let back := s.returning k c
      exec (.crewResume k) s = .next
        ((back.zip seats).foldl (fun t x => t.resumeCrew x.1.1 { x.1.2 with core := x.2.1 }) s).dispatch ∧
      (gated = false → back = [(k, c)]) ∧
      (∀ x ∈ back, gated = true → x.2.launch = c.launch ∧ (x.2.res = .shadow ∨ x.2.res = .hbm)) ∧
      ∀ x ∈ back.zip seats, (s.physOf x.1.2.core).isSome = true → x.2.1 = x.1.2.core)

/-! ## Steps of the caches -/

/-- R235, R295, R324, R340: a releaser drains its dirty lines and gives up its grants, and once more before it acknowledges; it
acknowledges once no invalidation that it caused is on its way: its record is removed and the group that waits looks again; an
invalidation drops its replica and clears its bit; a recall ends an exclusive grant. R241: a watch that fires or is lost ends
`mwait` with its reason, one that times out with 1 (2 for a split of the group that sleeps on the same watch with a later deadline:
the model's choice, log 9), and a remote line is read again. R221: the end of a tollgate phase reloads the counters and releases the
groups. -/
def Obligations.CoherenceTurns : Prop :=
  ∀ (s : State) (core ctx line gid ret reason : Nat),
    exec (.drainDemand core ctx line gid) s =
      .next ((s.drainDemanded core ctx).due (.drainAcknowledgement core ctx line gid)) ∧
    (let s0 := s.drainDemanded core ctx
     ((∃ x ∈ s0.invals, x.2.2 = core) →
       exec (.drainAcknowledgement core ctx line gid) s = .next (s0.due (.drainAcknowledgement core ctx line gid))) ∧
     ((∀ x ∈ s0.invals, x.2.2 ≠ core) → ∃ t, exec (.drainAcknowledgement core ctx line gid) s = .next t ∧
       t = { s0 with dir := t.dir, groups := t.groups, agenda := t.agenda } ∧
       (∀ e, t.entry? line = some e → (core, ctx) ∉ e.releasers) ∧ ∀ k, k ≠ gid → t.group? k = s0.group? k)) ∧
    (∃ t, exec (.replicaInvalidation line ret core) s = .next t ∧ tblGet? t.replicas (replicaKey line ret) = none ∧
      (∀ e, tblGet? t.dir line = some e → ret ∉ e.replicas) ∧ t.mem = s.mem ∧ t.invals = removeOne (line, ret, core) s.invals) ∧
    (let s1 := s.recallNow line
     ((∃ x ∈ s1.invals, x.1 = s1.dirLine line) → exec (.recall line gid) s = .next (s1.due (.recall line gid))) ∧
     ((∀ x ∈ s1.invals, x.1 ≠ s1.dirLine line) →
       exec (.recall line gid) s = .next ((s1.modGroup gid fun g => g.wake Wait.isAck).restore gid))) ∧
    (∀ g b x dl d, s.group? gid = some g → g.slot b = some x → x.wait = .monitor dl d →
      (∀ y ∈ g.allSplits, y.wait.isMonitor = true → y = x) → ∃ t g1, exec (.monitorWake gid reason) s = .next t ∧
        t = { s with groups := t.groups, agenda := t.agenda } ∧ t.group? gid = some g1 ∧ g1.watch = none ∧
        (d ≠ 0 → g1.sval d = BitVec.ofNat 64 reason) ∧ (∃ y ∈ g1.allSplits, y.pc = x.pc + 4 ∧ y.wait = .none) ∧
        ∀ k, k ≠ gid → t.group? k = s.group? k) ∧
    (∀ g t, s.group? gid = some g → (∃ x ∈ g.allSplits, x.deadline = some t) →
      (∀ x ∈ g.allSplits, ∀ u, x.deadline = some u → t.toNat ≤ u.toNat) → exec (.mwaitTimeout gid) s =
        .next ((s.clockAt t).wakeMonitor gid fun x => if x.deadline = some t then 1 else 2)) ∧
    (∀ g w d s1 p a, s.group? gid = some g → g.watch = some w → g.monitorDst = some d → w.remote = true →
      s.fateOf (s.coreOf g) (s.ctxOf g) (w.vline * 128) 1 .load [] = (s1, .remote p a) →
        exec (.remoteWatchPoll gid) s = .next (State.request { s1 with clock := s1.clock + 2000 }
          (peerMsg p 1 128 (a / 128 * 128) 0 []) (.poll gid))) ∧
    ∀ tree t, tblGet? s.trees tree = some t →
      (t.raised = false → exec (.tollgatePhaseCompletion tree) s = .next s) ∧
      (t.raised = true → ∃ u, exec (.tollgatePhaseCompletion tree) s = .next u ∧
        (∀ x ∈ s.launchGroups t.launch, ∃ y ∈ s.launchGroups t.launch, y.1 = x.1 ∧ u.group? x.1 = some y.2.1.endPhase.1) ∧
        (∀ k, (∀ x ∈ s.launchGroups t.launch, x.1 ≠ k) → u.group? k = s.group? k) ∧
        ((∀ x ∈ s.launchGroups t.launch, x.2.1.endPhase.2 = false) →
          tblGet? u.trees tree = some { t with counters := tblMap (fun _ c => (c.2, c.2)) t.counters, arrived := [] }) ∧
        u = { s with groups := u.groups, cores := u.cores, trees := u.trees, agenda := u.agenda })

/-- R247, R356 to R363: a core asks for a share of a line's crest and is granted the lesser of what is free and a quarter where that
is not 0; with a share it holds its additions, without one it sends them one by one; a run is added at the bank, once an exclusive
grant of the line has been recalled (R235); how a share is rounded is the model's choice (log 18); an addition that finds no delta
line makes one, which asks for a share; one that finds it waiting joins it; held, it goes into the delta, where what is
too large goes alone and what no longer fits is spilled first (the sums rounded up); a sluice or a drain makes the core spill, and
what waits for a way of the L1 takes one that has gone (log 9); a share that comes back is free again. The lines of a block have a
record each. -/
def Obligations.WeirTurns : Prop :=
  ∀ (s : State) (core ctx line gid : Nat) (share crest : Word),
    (let s1 := s.lodge line (some core) none
     let w := (s1.weirRec? line).getD (WeirRec.new crest)
     let some_ := shareOf (min w.free (magUnits w.crest))
     let fresh := w.holders.length < 8 ∧ ∀ h ∈ w.holders, ¬(h.1 = core ∧ h.2.1 = ctx)
     (w.service ≠ none → exec (.shareRequest core ctx line crest) s = .next (s1.due (.shareRequest core ctx line crest))) ∧
     (w.service = none → fresh → some_ ≠ 0 →
       let given : WeirRec := { w with free := w.free - shareUnits some_, holders := w.holders ++ [(core, ctx, some_, true)] }
       exec (.shareRequest core ctx line crest) s = .next
         ((s1.setWeir line (some given)).due (.shareGrant core ctx line some_))) ∧
     (w.service = none → ¬ fresh ∨ some_ = 0 →
       exec (.shareRequest core ctx line crest) s = .next ((s1.setWeir line w.kept).due (.shareGrant core ctx line 0)))) ∧
    (∀ d, s.delta? core ctx line = some d → d.st = .asking →
      (share ≠ 0 → exec (.shareGrant core ctx line share) s = .next
        (((s.applyAdds core { d with st := .holding, share := share, waiting := [] } d.waiting).retryAdds core).wakeAcks core)) ∧
      exec (.shareGrant core ctx line 0) s = .next
        ((((s.setDelta core { d with st := .direct, waiting := [], since := s.halvings }).dueAll
        (d.waiting.map fun a => .weirRun core ctx line a.2.2 [(a.1, a.2.1)] false)).retryAdds core).wakeAcks core)) ∧
    (∀ isFloat adds,
      let s1 := (s.lodge line (some core) none).recallNow line
      s1.bankBad (line * 128) 128 = false →
      exec (.weirRun core ctx line isFloat adds false) s = .next (State.wakeAcks ((runBytes (s1.bankLine line) isFloat adds).foldl
        (fun s a => s.bankWrite (line * 128 + 4 * a.1) core a.2 tagNone) s1) core)) ∧
    (∀ d, s.delta? core ctx line = some d → d.spilling = true → d.leaving = false →
      exec (.spillAcknowledgement core ctx line) s = .next
        (((s.applyAdds core { d.cleared with spilling := false, waiting := [] } d.waiting).retryAdds core).wakeAcks core)) ∧
    (∀ d, s.delta? core ctx line = some d →
      (d.st = .holding → d.spilling = false → d.touched = 0 →
        exec (.sluice core ctx line) s = .next (((s.dropDelta core ctx line).retryAdds core).due (.returnNotice core ctx line))) ∧
      (d.st = .holding → d.spilling = false → d.touched ≠ 0 →
        exec (.sluice core ctx line) s = .next (s.spill core { d with leaving := true })) ∧
      (d.waiting = [] → d.spilling = false → s.runsOut core ctx line = false →
        (d.touched = 0 → exec (.drainRequest core ctx line gid) s = .next (s.drainDone core line gid)) ∧
        (d.touched ≠ 0 → exec (.drainRequest core ctx line gid) s = .next
          ((s.due (.drainRequest core ctx line gid)).spill core { d with resume := true })))) ∧
    (s.delta? core ctx line = none ∨ (s.delta? core ctx line).map Delta.st = some .asking →
      exec (.sluice core ctx line) s = .next (s.due (.returnNotice core ctx line))) ∧
    (∀ w, s.weirRec? line = some w →
      (s.granted core ctx line = true → exec (.returnNotice core ctx line) s = .next s) ∧
      (s.granted core ctx line = false → ∃ t, exec (.returnNotice core ctx line) s = .next t ∧
        t = { s with dir := t.dir, groups := t.groups } ∧
        (∀ x, t.weirRec? line = some x → (∀ h ∈ x.holders, ¬(h.1 = core ∧ h.2.1 = ctx)) ∧ (core, ctx) ∉ x.sluicing ∧
          x.free = w.free + ((w.holders.filter fun h => h.1 == core && h.2.1 == ctx).map fun h => shareUnits h.2.2.1).sum) ∧
        ∀ l, l ≠ line → t.weirRec? l = s.weirRec? l) ∧
      ∃ t, exec (.resumeNotice core ctx line) s = .next t ∧ t = { s with dir := t.dir } ∧
        (∀ x, t.weirRec? line = some x → ∀ h ∈ x.holders, h.1 = core → h.2.1 = ctx → h.2.2.2 = true) ∧
        ∀ l, l ≠ line → t.weirRec? l = s.weirRec? l) ∧
    (∀ (vline : Nat) (adds : List (Nat × Word × Bool)),
      let first (u : State) : State :=
        (u.setDelta core { Delta.new ctx line vline with waiting := adds }).due (.shareRequest core ctx line (u.crestAt ctx vline))
      (∀ d, s.delta? core ctx line = some d →
        (d.st = .asking ∨ (d.st = .holding ∧ d.spilling = true) →
          s.weirAdd core ctx vline line adds = s.setDelta core { d with waiting := d.waiting ++ adds }) ∧
        (d.st = .holding → d.spilling = false → s.weirAdd core ctx vline line adds = s.applyAdds core d adds) ∧
        (d.st = .direct → s.halvings ≤ d.since → s.weirAdd core ctx vline line adds =
          s.dueAll (adds.map fun a => .weirRun core ctx line a.2.2 [(a.1, a.2.1)] false)) ∧
        (d.st = .direct → d.since < s.halvings → s.weirAdd core ctx vline line adds = first (s.dropDelta core ctx line))) ∧
      (s.delta? core ctx line = none →
        let u := (s.unalias core ctx lineEnd line).makeRoom core vline
        (u.roomlessAt core ctx line = false ∧ u.hasWay core vline = true → s.weirAdd core ctx vline line adds = first u) ∧
        (u.roomlessAt core ctx line = true ∨ u.hasWay core vline = false → s.weirAdd core ctx vline line adds =
          u.modCore core fun c => c.roomlessAdd ctx vline line adds))) ∧
    (∀ (d : Delta) (k : Nat) (x : Word) (isFloat : Bool) (r : List (Nat × Word × Bool)),
      let mag := if isFloat then mag32 x else x.toInt.natAbs * 2 ^ 149
      let kind := if isFloat then 1 else 2
      let big : Prop := (isFloat = true ∧ ¬ Fin32 x) ∨ mag32 d.share < mag
      let total := up32 (mag32 d.t + mag)
      let spills : Prop := s.applyAdds core d ((k, x, isFloat) :: r) = s.spill core { d with waiting := (k, x, isFloat) :: r }
      Fin32 d.share → Fin32 d.t → k < 32 →
        (big → d.touched ≠ 0 → spills) ∧
        (big → d.touched = 0 → s.applyAdds core d ((k, x, isFloat) :: r) =
          (s.due (.weirRun core d.ctx d.pline isFloat [(k, x)] false)).applyAdds core d r) ∧
        (¬ big → d.kind ≠ 0 → d.kind ≠ kind → spills) ∧
        (¬ big → d.kind = 0 ∨ d.kind = kind → (¬ Fin32 total ∨ mag32 d.share < mag32 total) → d.touched ≠ 0 → spills) ∧
        (¬ big → d.kind = 0 ∨ d.kind = kind → Fin32 total → mag32 total ≤ mag32 d.share →
          s.applyAdds core d ((k, x, isFloat) :: r) = (if d.resume then s.due (.resumeNotice core d.ctx d.pline) else s).applyAdds core
            { d with kind := kind, delta := tblSet d.delta k
                       (if isFloat then (f32Add 0 false (tblGet d.delta k 0) x).1 else tblGet d.delta k 0 + x),
                     touched := d.touched ||| ((1 : Word) <<< k), t := total, resume := false } r)) ∧
    ∀ n : Nat, (Fin32 (up32 n) → (up32 n).getLsbD 31 = false ∧ n ≤ mag32 (up32 n)) ∧
      ∀ w : Word, Fin32 w → n ≤ mag32 w → Fin32 (up32 n) ∧ mag32 (up32 n) ≤ mag32 w

/-- R292, R293, R296, R297, R298, R355: at each halving instant every requester count is halved; an anchor's decided moves are
carried out one at a time in the order of the decisions: the line leaves under a tombstone, then it is installed in its new reticle;
one that has become a weir line does not move, and the eviction of a moving line waits for its move; where lines compete for a set,
the wafer cache evicts a victim, a replica or a line; a bank retired in service is replaced by its substitute, its replicas are
dropped and what lodged there is due to leave. -/
def Obligations.DroverTurns : Prop :=
  ∀ s : State,
    (∃ t, exec .countHalving s = .next t ∧ t = { s with mesh := t.mesh, halvings := s.halvings + 1, dir := t.dir } ∧
      4096 * (s.halvings + 1) ≤ t.mesh ∧ s.mesh ≤ t.mesh ∧
      ∀ line, t.entry? line = (s.entry? line).map fun e =>
        { e with requesters := e.requesters.map fun x => (x.1, x.2 / 2) }) ∧
    (∀ line e, s.entry? line = some e →
      (∀ r b, e.moving = some (r, b) → exec (.droverMove line) s = .next (s.installMove line r)) ∧
      (∀ r order, e.moving = none → e.due = some (r, order) →
        (e.pin = true ∨ e.strm = true ∨ e.leaving = true ∨ e.weir ≠ [] →
          exec (.droverMove line) s = .next (s.setEntry line { e with due := none })) ∧
        (e.pin = false → e.strm = false → e.leaving = false → e.weir = [] →
          let unit := s.dirLine line
          (s.anchorMoving unit = true ∨ s.dueBefore unit order = true →
            exec (.droverMove line) s = .next (s.due (.droverMove line))) ∧
          (s.anchorMoving unit = false → s.dueBefore unit order = false →
            exec (.droverMove line) s = .next (((s.recallNow line).modEntry line fun e =>
              { e with due := none, moving := some (r, s.bankIn unit r) }).due (.droverMove line)))))) ∧
    (∀ line e, s.entry? line = some e → e.leaving = true →
      exec (.waferCacheEviction [line]) s = .next (s.evictUnit (s.dirLine line)) ∧
      (e.moving.isSome = true → s.evictUnit (s.dirLine line) =
        (s.modEntry (s.dirLine line) fun e => { e with leaving := true }).due (.waferCacheEviction [s.dirLine line]))) ∧
    (∀ lines unit r b, (∀ l, lines = [l] → ∀ e, s.entry? l = some e → e.leaving = false) → s.setOfLines lines = some (unit, r, b) →
      (∀ u, s.victim (s.setMates r b unit) = some (u, false) → exec (.waferCacheEviction lines) s = .next (s.evictUnit u)) ∧
      (∀ u, s.victim (s.setMates r b unit) = some (u, true) → exec (.waferCacheEviction lines) s = .next (s.dropReplica u r)) ∧
      (s.victim (s.setMates r b unit) = none → exec (.waferCacheEviction lines) s = .next s)) ∧
    ∀ bank, s.part.inMap bank = true → s.retired.contains bank = false → s.owner = none →
      State.substitute { s with retired := bank :: s.retired } (bank / 64) (bank % 64) ≠ bank % 64 →
        let lodged := (s.dir.filter fun x => x.2.ret == bank / 64 && x.2.bank == bank % 64).map fun x => x.1
        ∃ t, exec (.bankRetirement bank) s = .next t ∧ t.retired = bank :: s.retired ∧ t.mem = s.mem ∧
          t.agenda = s.agenda ++ lodged.map (fun u => .waferCacheEviction [u]) ∧
          (∀ u ∈ lodged, ∀ e, tblGet? t.dir u = some e → e.leaving = true ∧ e.due = none) ∧
          ∀ x ∈ t.replicas, ¬(x.1 % 64 = bank / 64 ∧ s.bankIn (x.1 / 64) (bank / 64) = bank % 64)

/-! ## Steps after an error -/

/-- R145, R178, R385, R389, R390, R391, R392: a consumed error in an idempotent region restarts its group at `%ire` once the
operations that the region issued are settled; a debug halt is settled once no engine operation of the group is left, and the
batches that have completed meanwhile go to the debugger with their status, through the context's event log, which is the model's
choice (log 19); a fault posts its event once the stores of the context are performed, the weir additions that it holds spilled
before (the model's choice, log 14); an event without acknowledgement halts its context, with the state halted (log 26) and the
bytes of the notice (log 21) as the model's choices; a context without progress, judged when its window ends (the model's choice,
log 14), or parked too long, faults; a reset ends with the context running, without windows, and with every posted waybill taken,
once the drain demands that name it are answered and the invalidations that its take counts have caused have arrived. -/
def Obligations.SettlingErrors : Prop :=
  (∀ (s : State) (gid : Nat) (g : Group) (r : Region), s.group? gid = some g → g.region = some r → g.restart = true →
    ((s.opsOf gid g fun o => decide (r.firstOp ≤ o.num)) = true →
      exec (.idempotentRestart gid) s = .next (s.due (.idempotentRestart gid))) ∧
    ((s.opsOf gid g fun o => decide (r.firstOp ≤ o.num)) = false → ∃ t g1, exec (.idempotentRestart gid) s = .next t ∧
      t.group? gid = some g1 ∧ (g1.slotA.map fun x => (x.pc, x.mask, x.fm)) = some (g.ire, r.mask &&& ~~~g.exited, r.fm) ∧
      g1.slotB = none ∧ g1.spilled = [] ∧ g1.records = [] ∧ g1.vregs = g.vregs ∧ g1.scalars = g.scalars ∧ g1.restart = false ∧
      ∀ k, k ≠ gid → t.group? k = s.group? k)) ∧
  (∀ (s : State) (gid : Nat) (g : Group) (b : Bool) (kept : Nat) (batches : List (Bool × Nat × Nat)), s.group? gid = some g →
    g.halt = .debug false b kept batches →
      ((s.opsOf gid g fun _ => true) = true → exec (.debugHaltSettled gid) s = .next (s.due (.debugHaltSettled gid))) ∧
      ((s.opsOf gid g fun _ => true) = false → ∃ t, exec (.debugHaltSettled gid) s = .next t ∧
        t.group? gid = some { g with halt := .debug true b kept [], failures := g.failures.take kept } ∧
        t = { s with groups := t.groups, contexts := t.contexts } ∧ (∀ k, k ≠ gid → t.group? k = s.group? k) ∧
        ∀ c, s.context? (s.ctxOf g) = some c → ∃ log, t.context? (s.ctxOf g) = some { c with log := c.log ++ log } ∧
          log.length = 17 * batches.length ∧ ∀ i mat num status, batches[i]? = some (mat, num, status) →
            bytesAt log (17 * i) 17 = leBytes (s.launchOf g % 4294967296) 4 ++ leBytes (s.coreOf g) 2 ++ leBytes g.index 1 ++
              leBytes (if mat then 0x11 else 0x10) 1 ++ leBytes num 8 ++ leBytes status 1)) ∧
  (∀ (s : State) (ctx core index cause : Nat) (c : Context), s.context? ctx = some c → c.fault = some (core, index, cause) →
    let s0 := s.modContext ctx fun c => { c with unhalted := [] }
    let s1 := s0.usedCores.foldl (fun s k => s.drain k ctx true 0 lineEnd) s0
    (s1.spillsDue ctx s1.usedCores = [] → s1.storesOut ctx = false → exec (.faultEventPost ctx) s = .next
      ((s1.postEvent ctx 5 (leBytes core 2 ++ leBytes index 2 ++ leBytes cause 2)).modContext ctx
        fun c => { c with fault := none })) ∧
    (s1.spillsDue ctx s1.usedCores ≠ [] ∨ s1.storesOut ctx = true →
      exec (.faultEventPost ctx) s = .next ((s1.dueAll (s1.spillsDue ctx s1.usedCores)).due (.faultEventPost ctx)))) ∧
  (∀ (s : State) (ctx : Nat) (c : Context) (r : EventRec) (l : List EventRec), s.context? ctx = some c → c.unacked = r :: l →
    c.channelHalted = false → c.st = .running →
      exec (.eventAckTimeout ctx) s = .next (((s.clockAt (r.sentAt + BitVec.ofNat 64 s.recoveryWindow)).setContext ctx
        { c with channelHalted := true, st := .halted }).notice ctx 3 (leBytes ctx 1 ++ leBytes r.seq 8))) ∧
  (∀ (s : State) (ctx : Nat) (c : Context), s.context? ctx = some c → c.st = .running → c.watchdog ≠ 0 →
    let s1 := s.clockAt (c.windowStart + BitVec.ofNat 64 c.watchdog)
    let progress := c.progress = true ∨ ∃ x ∈ s.groups, s.ctxOf x.2 = ctx ∧ x.2.active = true
    let waits := ∃ x ∈ s.residentGroups ctx, s.groupParked x.1 x.2 = false
    ∃ t, exec (.watchdogExpiry ctx) s = .next t ∧ t.clock = s1.clock ∧ t.mem = s.mem ∧
      (¬progress → waits → ∃ c1, t.context? ctx = some c1 ∧ c1.st = .faulted ∧ c1.fault = some (65535, 65535, 0)) ∧
      (progress ∨ ¬waits → t.context? ctx = some { c with windowStart := s1.clock, progress := false })) ∧
  (∀ (s : State) (ctx : Nat) (c : Context) (since : DWord), s.context? ctx = some c → c.st = .running → c.park ≠ 0 →
    c.parkedSince = some since → s.allParked ctx = true → exec (.parkLimitExpiry ctx) s =
      .next ((s.clockAt (since + BitVec.ofNat 64 c.park)).contextFault ctx 65535 65535 65535)) ∧
  (∀ (s : State) (ctx : Nat) (c : Context) (m : Msg), s.context? ctx = some c → c.st = .resetting → c.resetMsg = some m →
    let s1 := s.usedCores.foldl (fun s k => s.settleWrites ctx k) s
    let takes := s1.putTakes ctx c.queues
    let busy : Prop := (∃ l ∈ s1.launches, l.2.ctx = ctx ∧ l.2.st = .written) ∨ s1.demandsOut ctx = true ∨
      (∃ x ∈ s1.invals, x.2.2 ∈ s1.usedCores) ∨ takes.1.sysPending = true ∨ takes.2 = false
    (busy → exec (.quiesceTokenReturn ctx) s = .next (takes.1.due (.quiesceTokenReturn ctx))) ∧
    (¬ busy → ∃ t, exec (.quiesceTokenReturn ctx) s = .next t ∧
      ∃ c1, t.context? ctx = some c1 ∧ c1.st = .running ∧ c1.windows = [] ∧ c1.kept = [] ∧ c1.resetMsg = none ∧ c1.discarded = 0 ∧
        ∀ q x, tblGet? c.queues q = some x → ∃ y, tblGet? c1.queues q = some y ∧ y.take = x.post))

/-! ## Steps of the machine -/

/-- R15, R16, R195, R197, R198: a step in which a core issues a split executes the instruction that the halfwords at its pc decode
to: the first halfword alone where its bit 0 is clear, else both; what is no instruction executes as the ILLEGAL trap. A split that
the core packs behind one with the same word executes that word's instruction too. A step of another agent executes that agent's
step. What step adds is the core's bookkeeping and the end of the turn (log 1). -/
def Obligations.StepRunsDecoded : Prop :=
  ∀ (s t : State),
    (∀ t0 i, s.nextMove = (t0, .run t i) → step s = onNext s.endTurn (exec i t)) ∧
    (∀ (core : Nat) (e : RingEntry) (g : Group) (x : Split), s.nextMove = (t, .issue core e) → t.group? e.group = some g →
      g.slot e.slotB = some x →
        let turn (u : State) (word : Word) (i : Instr) :=
          onNext s.endTurn (onNext (fun y => y.settleIssue core e (u.slotFor e word)) (exec i (u.at e word)))
        ∀ u h0, t.fetchHalf core (t.ctxOf g) e.group e.slotB x.pc x.pc.toNat x.verdicts = .half u h0 →
          (h0.getLsbD 0 = false →
            step s = turn (u.modGroup e.group Group.fetchedAll) (h0.zeroExtend 32) (decodeShort h0.toNat)) ∧
          ∀ u2 h1, h0.getLsbD 0 = true → u.fetchHalf core (t.ctxOf g) e.group e.slotB x.pc (x.pc + 2).toNat x.verdicts = .half u2 h1 →
            let word : Word := h1 ++ h0
            (∀ i, decodeLong word.toNat = some i →
              wellFormed i = true ∧ step s = turn (u2.modGroup e.group Group.fetchedAll) word i) ∧
            (decodeLong word.toNat = none →
              step s = turn (u2.modGroup e.group Group.fetchedAll) word (.illegalEncoding word))) ∧
    ∀ (core : Nat) (e : RingEntry) (u : State) (word : Word) (i : Instr), s.nextMove = (t, .pack core e) →
      t.fetchFor core e = .run u word i → ((t.coreSt core).slot.map fun y => y.word) = some word →
        step s = onNext s.endTurn
          (onNext (fun y => y.settlePack core e (u.slotFor e word).lanes) (exec i (u.at e word)))

/-- R383, R386: what a kernel, a host or a link does never stops the machine, whatever state it is in: every step answers a next
state, no fault and no refusal. In what order the agents step is the model's choice (log 1). -/
def Obligations.StepAnswers : Prop :=
  ∀ s : State, Goes (step s)

/-- R11, R98, R109: memory keeps its canonical form: whatever a step does, the bytes of HBM, of the crews' scratch, of the groups'
private areas and of the areas that contexts keep stay listed by rising addresses, without the value that an unlisted byte reads as.
That an unlisted byte reads as 0 is the model's choice (log 3). -/
def Obligations.StepKeepsCanonical : Prop :=
  ∀ s t : State, s.Canonical → step s = .next t → t.Canonical

/-- R390: after every step no split executes, and the time since which a context with a park limit is parked is noted exactly while
the context runs and every resident group of it is externally parked. -/
def Obligations.StepKeepsRest : Prop :=
  ∀ s t : State, s.AtRest → step s = .next t → t.AtRest

/-- R133, R170, R173, R181, R182: at device reset nothing is resident and no context exists, the wafer has no owner and is not
brought up, `%clock` is 0, the recovery window is 2 s and the clock 2.5 GHz; the state is at rest, its memory canonical, and its
first step brings the wafer up, which rests on the model's own order of events (logs 1 and 28). -/
def Obligations.ResetState : Prop :=
  let s := State.reset
  s.groups = [] ∧ s.crews = [] ∧ s.contexts = [] ∧ s.owner = none ∧ s.successor = none ∧ s.broughtUp = false ∧ s.clock = 0 ∧
    s.recoveryWindow = 2000000000 ∧ s.mhz = 2500 ∧ s.AtRest ∧ s.Canonical ∧
    step s = onNext s.endTurn (exec .bringUp s)
end

