-- ==== Sys2Proof/Laws/Pack.lean ====
section
/-! SUPPORT. Reading the fields of a packed word back, and a word's bytes. -/

namespace Sys2Proof.Laws

/-- A field above the first entry is a field of the rest. -/
@[simp] theorem bits_pack_skip (n v hi lo : Nat) (r : List (Nat × Nat)) (h : n ≤ lo) (h' : n ≤ hi) :
    bits (pack ((n, v) :: r)) hi lo = bits (pack r) (hi - n) (lo - n) := by
  obtain ⟨k, rfl⟩ := Nat.exists_eq_add_of_le h
  have h0 : 0 < 2 ^ n := Nat.two_pow_pos n
  have : hi - n + 1 - (n + k - n) = hi + 1 - (n + k) := by omega
  rw [bits, bits, pack, this, Nat.pow_add, ← Nat.div_div_eq_div_mul, Nat.add_mul_div_left _ _ h0,
    Nat.div_eq_of_lt (Nat.mod_lt _ h0), Nat.zero_add, Nat.add_sub_cancel_left]

/-- The first entry, as bits. -/
@[simp] theorem bits_pack_here (n v hi : Nat) (r : List (Nat × Nat)) (h : hi + 1 = n) :
    bits (pack ((n, v) :: r)) hi 0 = v % 2 ^ n := by
  subst h
  simp [bits, pack, Nat.add_mul_mod_self_left]

/-- A field above the first entry is a field of the rest. -/
@[simp] theorem fld_pack_skip (n v lo m : Nat) (r : List (Nat × Nat)) (h : n ≤ lo) :
    fld (pack ((n, v) :: r)) lo m = fld (pack r) (lo - n) m := by
  obtain ⟨k, rfl⟩ := Nat.exists_eq_add_of_le h
  have h0 : 0 < 2 ^ n := Nat.two_pow_pos n
  rw [fld, fld, pack, Nat.pow_add, ← Nat.div_div_eq_div_mul, Nat.add_mul_div_left _ _ h0,
    Nat.div_eq_of_lt (Nat.mod_lt _ h0), Nat.zero_add, Nat.add_sub_cancel_left]

/-- The first entry, as a field. -/
@[simp] theorem fld_pack_here (n : Nat) (x : BitVec n) (r : List (Nat × Nat)) : fld (pack ((n, x.toNat) :: r)) 0 n = x := by
  apply BitVec.eq_of_toNat_eq
  simp [fld, pack, Nat.add_mul_mod_self_left, Nat.mod_eq_of_lt x.isLt]

/-- A packed word has as many bits as its entries. -/
theorem pack_lt (l : List (Nat × Nat)) : pack l < 2 ^ (l.map fun e => e.1).sum := by
  induction l with
  | nil => simp [pack]
  | cons e r ih =>
    have h := Nat.mod_lt e.2 (Nat.two_pow_pos e.1)
    simp only [pack, List.map_cons, List.sum_cons, Nat.pow_add]
    calc e.2 % 2 ^ e.1 + 2 ^ e.1 * pack r < 2 ^ e.1 * (pack r + 1) := by rw [Nat.mul_add]; omega
      _ ≤ _ := Nat.mul_le_mul_left _ ih

/-- The value of a word's bytes is the word. -/
theorem wordOfBytes_bytesOfWord (n : Nat) : ∀ w : Nat, w < 256 ^ n → wordOfBytes (bytesOfWord w n) = w := by
  induction n with
  | zero => intro w h; simp at h; simp [bytesOfWord, wordOfBytes, h]
  | succ n ih =>
    intro w h
    have hq : w / 256 < 256 ^ n := by rw [Nat.div_lt_iff_lt_mul (by decide)]; rw [Nat.pow_succ] at h; exact h
    simp only [bytesOfWord, wordOfBytes, ih _ hq, BitVec.toNat_ofNat]
    omega

end Sys2Proof.Laws
end

