-- ==== Sys2Proof/Laws/PerInstr.lean ====
section
/-! SUPPORT. For every instruction: the decoder reads the words that the encoder writes, every operand at every value. -/

namespace Sys2Proof.Laws

/-- Decoding the words of a well-formed instruction gives it back; a step of another agent has no words. -/
def Encoded.Statement (i : Instr) : Prop := wellFormed i = true → ∀ n w, encode i = some (n, w) → decodeWord n w = some i

/-- The statement from the fields that the encoder lists. -/
theorem encoded_of_fields {i : Instr} {n : Nat} {l : List (Nat × Nat)} (h : encodeFields i = some (n, l))
    (k : wellFormed i = true → decodeWord n (pack l) = some i) : Encoded.Statement i := by
  intro hw m w e
  rw [encode, h] at e
  cases e
  exact k hw

/-- The statement of a step that has no words. -/
theorem encoded_of_none {i : Instr} (h : encodeFields i = none) : Encoded.Statement i := by
  intro _ n w e
  rw [encode, h] at e
  cases e

/-- A well-formed instruction is kept. -/
theorem keep_some (i : Instr) (h : wellFormed i = true) : keepWellFormed (some i) = some i := by rw [keepWellFormed, if_pos h]

theorem Encoded.shortMov (d b) : Encoded.Statement (.shortMov d b) :=
  encoded_of_fields rfl fun _ => by simp [decodeWord, decodeShort]

theorem Encoded.shortAddI32 (d b) : Encoded.Statement (.shortAddI32 d b) :=
  encoded_of_fields rfl fun _ => by simp [decodeWord, decodeShort]

theorem Encoded.shortSubI32 (d b) : Encoded.Statement (.shortSubI32 d b) :=
  encoded_of_fields rfl fun _ => by simp [decodeWord, decodeShort]

theorem Encoded.shortAnd (d b) : Encoded.Statement (.shortAnd d b) :=
  encoded_of_fields rfl fun _ => by simp [decodeWord, decodeShort]

theorem Encoded.shortOr (d b) : Encoded.Statement (.shortOr d b) :=
  encoded_of_fields rfl fun _ => by simp [decodeWord, decodeShort]

theorem Encoded.shortXor (d b) : Encoded.Statement (.shortXor d b) :=
  encoded_of_fields rfl fun _ => by simp [decodeWord, decodeShort]

theorem Encoded.shortShl (d b) : Encoded.Statement (.shortShl d b) :=
  encoded_of_fields rfl fun _ => by simp [decodeWord, decodeShort]

theorem Encoded.shortShrN32 (d b) : Encoded.Statement (.shortShrN32 d b) :=
  encoded_of_fields rfl fun _ => by simp [decodeWord, decodeShort]

theorem Encoded.shortShrS32 (d b) : Encoded.Statement (.shortShrS32 d b) :=
  encoded_of_fields rfl fun _ => by simp [decodeWord, decodeShort]

theorem Encoded.movi (d i) : Encoded.Statement (.movi d i) :=
  encoded_of_fields rfl fun _ => by simp [decodeWord, decodeShort]

theorem Encoded.shortAddi (d i) : Encoded.Statement (.shortAddi d i) :=
  encoded_of_fields rfl fun _ => by simp [decodeWord, decodeShort]

theorem Encoded.shortShli (d i) : Encoded.Statement (.shortShli d i) :=
  encoded_of_fields rfl fun _ => by simp [decodeWord, decodeShort]

theorem Encoded.shortFaddF32 (d b) : Encoded.Statement (.shortFaddF32 d b) :=
  encoded_of_fields rfl fun _ => by simp [decodeWord, decodeShort]

theorem Encoded.shortFmulF32 (d b) : Encoded.Statement (.shortFmulF32 d b) :=
  encoded_of_fields rfl fun _ => by simp [decodeWord, decodeShort]

theorem Encoded.shortFmaxF32 (d b) : Encoded.Statement (.shortFmaxF32 d b) :=
  encoded_of_fields rfl fun _ => by simp [decodeWord, decodeShort]

theorem Encoded.shortFminF32 (d b) : Encoded.Statement (.shortFminF32 d b) :=
  encoded_of_fields rfl fun _ => by simp [decodeWord, decodeShort]

theorem Encoded.addI32 (g d a b x y) : Encoded.Statement (.addI32 g d a b x y) :=
  encoded_of_fields rfl fun hw => by simp [decodeWord, decodeLong, decodeClass, decodeIA, keep_some _ hw]

theorem Encoded.subI32 (g d a b x y) : Encoded.Statement (.subI32 g d a b x y) :=
  encoded_of_fields rfl fun hw => by simp [decodeWord, decodeLong, decodeClass, decodeIA, keep_some _ hw]

theorem Encoded.mulI32 (g d a b x y) : Encoded.Statement (.mulI32 g d a b x y) :=
  encoded_of_fields rfl fun hw => by simp [decodeWord, decodeLong, decodeClass, decodeIA, keep_some _ hw]

theorem Encoded.mulhS32 (g d a b x y) : Encoded.Statement (.mulhS32 g d a b x y) :=
  encoded_of_fields rfl fun hw => by simp [decodeWord, decodeLong, decodeClass, decodeIA, keep_some _ hw]

theorem Encoded.mulhN32 (g d a b x y) : Encoded.Statement (.mulhN32 g d a b x y) :=
  encoded_of_fields rfl fun hw => by simp [decodeWord, decodeLong, decodeClass, decodeIA, keep_some _ hw]

theorem Encoded.minS32 (g d a b x y) : Encoded.Statement (.minS32 g d a b x y) :=
  encoded_of_fields rfl fun hw => by simp [decodeWord, decodeLong, decodeClass, decodeIA, keep_some _ hw]

theorem Encoded.maxS32 (g d a b x y) : Encoded.Statement (.maxS32 g d a b x y) :=
  encoded_of_fields rfl fun hw => by simp [decodeWord, decodeLong, decodeClass, decodeIA, keep_some _ hw]

theorem Encoded.madI32 (g d a b x y) : Encoded.Statement (.madI32 g d a b x y) :=
  encoded_of_fields rfl fun hw => by simp [decodeWord, decodeLong, decodeClass, decodeIA, keep_some _ hw]

theorem Encoded.and (g d a b x y) : Encoded.Statement (.and g d a b x y) :=
  encoded_of_fields rfl fun hw => by simp [decodeWord, decodeLong, decodeClass, decodeIB, keep_some _ hw]

theorem Encoded.or (g d a b x y) : Encoded.Statement (.or g d a b x y) :=
  encoded_of_fields rfl fun hw => by simp [decodeWord, decodeLong, decodeClass, decodeIB, keep_some _ hw]

theorem Encoded.xor (g d a b x y) : Encoded.Statement (.xor g d a b x y) :=
  encoded_of_fields rfl fun hw => by simp [decodeWord, decodeLong, decodeClass, decodeIB, keep_some _ hw]

theorem Encoded.shl (g d a b x y) : Encoded.Statement (.shl g d a b x y) :=
  encoded_of_fields rfl fun hw => by simp [decodeWord, decodeLong, decodeClass, decodeIB, keep_some _ hw]

theorem Encoded.shrN32 (g d a b x y) : Encoded.Statement (.shrN32 g d a b x y) :=
  encoded_of_fields rfl fun hw => by simp [decodeWord, decodeLong, decodeClass, decodeIB, keep_some _ hw]

theorem Encoded.shrS32 (g d a b x y) : Encoded.Statement (.shrS32 g d a b x y) :=
  encoded_of_fields rfl fun hw => by simp [decodeWord, decodeLong, decodeClass, decodeIB, keep_some _ hw]

theorem Encoded.minN32 (g d a b x y) : Encoded.Statement (.minN32 g d a b x y) :=
  encoded_of_fields rfl fun hw => by simp [decodeWord, decodeLong, decodeClass, decodeIB, keep_some _ hw]

theorem Encoded.maxN32 (g d a b x y) : Encoded.Statement (.maxN32 g d a b x y) :=
  encoded_of_fields rfl fun hw => by simp [decodeWord, decodeLong, decodeClass, decodeIB, keep_some _ hw]

theorem Encoded.addI32Ic (g d a b x) : Encoded.Statement (.addI32Ic g d a b x) :=
  encoded_of_fields rfl fun hw => by simp [decodeWord, decodeLong, decodeClass, decodeIC, keep_some _ hw]

theorem Encoded.subI32Ic (g d a b x) : Encoded.Statement (.subI32Ic g d a b x) :=
  encoded_of_fields rfl fun hw => by simp [decodeWord, decodeLong, decodeClass, decodeIC, keep_some _ hw]

theorem Encoded.mulI32Ic (g d a b x) : Encoded.Statement (.mulI32Ic g d a b x) :=
  encoded_of_fields rfl fun hw => by simp [decodeWord, decodeLong, decodeClass, decodeIC, keep_some _ hw]

theorem Encoded.andIc (g d a b x) : Encoded.Statement (.andIc g d a b x) :=
  encoded_of_fields rfl fun hw => by simp [decodeWord, decodeLong, decodeClass, decodeIC, keep_some _ hw]

theorem Encoded.orIc (g d a b x) : Encoded.Statement (.orIc g d a b x) :=
  encoded_of_fields rfl fun hw => by simp [decodeWord, decodeLong, decodeClass, decodeIC, keep_some _ hw]

theorem Encoded.shlIc (g d a b x) : Encoded.Statement (.shlIc g d a b x) :=
  encoded_of_fields rfl fun hw => by simp [decodeWord, decodeLong, decodeClass, decodeIC, keep_some _ hw]

theorem Encoded.madI32Ic (g d a b x) : Encoded.Statement (.madI32Ic g d a b x) :=
  encoded_of_fields rfl fun hw => by simp [decodeWord, decodeLong, decodeClass, decodeIC, keep_some _ hw]

theorem Encoded.addw (g d a b x) : Encoded.Statement (.addw g d a b x) :=
  encoded_of_fields rfl fun hw => by simp [decodeWord, decodeLong, decodeClass, decodeIC, keep_some _ hw]

theorem Encoded.faddF32 (g d a b x y) : Encoded.Statement (.faddF32 g d a b x y) :=
  encoded_of_fields rfl fun hw => by simp [decodeWord, decodeLong, decodeClass, decodeFA, keep_some _ hw]

theorem Encoded.fsubF32 (g d a b x y) : Encoded.Statement (.fsubF32 g d a b x y) :=
  encoded_of_fields rfl fun hw => by simp [decodeWord, decodeLong, decodeClass, decodeFA, keep_some _ hw]

theorem Encoded.fmulF32 (g d a b x y) : Encoded.Statement (.fmulF32 g d a b x y) :=
  encoded_of_fields rfl fun hw => by simp [decodeWord, decodeLong, decodeClass, decodeFA, keep_some _ hw]

theorem Encoded.ffmaF32 (g d a b x y) : Encoded.Statement (.ffmaF32 g d a b x y) :=
  encoded_of_fields rfl fun hw => by simp [decodeWord, decodeLong, decodeClass, decodeFA, keep_some _ hw]

theorem Encoded.ffmsF32 (g d a b x y) : Encoded.Statement (.ffmsF32 g d a b x y) :=
  encoded_of_fields rfl fun hw => by simp [decodeWord, decodeLong, decodeClass, decodeFA, keep_some _ hw]

theorem Encoded.fminF32 (g d a b x y) : Encoded.Statement (.fminF32 g d a b x y) :=
  encoded_of_fields rfl fun hw => by simp [decodeWord, decodeLong, decodeClass, decodeFA, keep_some _ hw]

theorem Encoded.fmaxF32 (g d a b x y) : Encoded.Statement (.fmaxF32 g d a b x y) :=
  encoded_of_fields rfl fun hw => by simp [decodeWord, decodeLong, decodeClass, decodeFA, keep_some _ hw]

theorem Encoded.packBf16x2 (g d a b x y) : Encoded.Statement (.packBf16x2 g d a b x y) :=
  encoded_of_fields rfl fun hw => by simp [decodeWord, decodeLong, decodeClass, decodeFA, keep_some _ hw]

theorem Encoded.faddF32Fb (g d a b x) : Encoded.Statement (.faddF32Fb g d a b x) :=
  encoded_of_fields rfl fun hw => by simp [decodeWord, decodeLong, decodeClass, decodeFB, keep_some _ hw]

theorem Encoded.fsubF32Fb (g d a b x) : Encoded.Statement (.fsubF32Fb g d a b x) :=
  encoded_of_fields rfl fun hw => by simp [decodeWord, decodeLong, decodeClass, decodeFB, keep_some _ hw]

theorem Encoded.fmulF32Fb (g d a b x) : Encoded.Statement (.fmulF32Fb g d a b x) :=
  encoded_of_fields rfl fun hw => by simp [decodeWord, decodeLong, decodeClass, decodeFB, keep_some _ hw]

theorem Encoded.ffmaF32Fb (g d a b x) : Encoded.Statement (.ffmaF32Fb g d a b x) :=
  encoded_of_fields rfl fun hw => by simp [decodeWord, decodeLong, decodeClass, decodeFB, keep_some _ hw]

theorem Encoded.ffmsF32Fb (g d a b x) : Encoded.Statement (.ffmsF32Fb g d a b x) :=
  encoded_of_fields rfl fun hw => by simp [decodeWord, decodeLong, decodeClass, decodeFB, keep_some _ hw]

theorem Encoded.fminF32Fb (g d a b x) : Encoded.Statement (.fminF32Fb g d a b x) :=
  encoded_of_fields rfl fun hw => by simp [decodeWord, decodeLong, decodeClass, decodeFB, keep_some _ hw]

theorem Encoded.fmaxF32Fb (g d a b x) : Encoded.Statement (.fmaxF32Fb g d a b x) :=
  encoded_of_fields rfl fun hw => by simp [decodeWord, decodeLong, decodeClass, decodeFB, keep_some _ hw]

theorem Encoded.fscaleF32 (g d a b x) : Encoded.Statement (.fscaleF32 g d a b x) :=
  encoded_of_fields rfl fun hw => by simp [decodeWord, decodeLong, decodeClass, decodeFB, keep_some _ hw]

theorem Encoded.mov (g d a x) : Encoded.Statement (.mov g d a x) :=
  encoded_of_fields rfl fun hw => by simp [decodeWord, decodeLong, decodeClass, decodeVU, keep_some _ hw]

theorem Encoded.not (g d a x) : Encoded.Statement (.not g d a x) :=
  encoded_of_fields rfl fun hw => by simp [decodeWord, decodeLong, decodeClass, decodeVU, keep_some _ hw]

theorem Encoded.negI32 (g d a x) : Encoded.Statement (.negI32 g d a x) :=
  encoded_of_fields rfl fun hw => by simp [decodeWord, decodeLong, decodeClass, decodeVU, keep_some _ hw]

theorem Encoded.absI32 (g d a x) : Encoded.Statement (.absI32 g d a x) :=
  encoded_of_fields rfl fun hw => by simp [decodeWord, decodeLong, decodeClass, decodeVU, keep_some _ hw]

theorem Encoded.popc (g d a x) : Encoded.Statement (.popc g d a x) :=
  encoded_of_fields rfl fun hw => by simp [decodeWord, decodeLong, decodeClass, decodeVU, keep_some _ hw]

theorem Encoded.clz (g d a x) : Encoded.Statement (.clz g d a x) :=
  encoded_of_fields rfl fun hw => by simp [decodeWord, decodeLong, decodeClass, decodeVU, keep_some _ hw]

theorem Encoded.brev (g d a x) : Encoded.Statement (.brev g d a x) :=
  encoded_of_fields rfl fun hw => by simp [decodeWord, decodeLong, decodeClass, decodeVU, keep_some _ hw]

theorem Encoded.sext8 (g d a x) : Encoded.Statement (.sext8 g d a x) :=
  encoded_of_fields rfl fun hw => by simp [decodeWord, decodeLong, decodeClass, decodeVU, keep_some _ hw]

theorem Encoded.sext16 (g d a x) : Encoded.Statement (.sext16 g d a x) :=
  encoded_of_fields rfl fun hw => by simp [decodeWord, decodeLong, decodeClass, decodeVU, keep_some _ hw]

theorem Encoded.fabs (g d a x) : Encoded.Statement (.fabs g d a x) :=
  encoded_of_fields rfl fun hw => by simp [decodeWord, decodeLong, decodeClass, decodeVU, keep_some _ hw]

theorem Encoded.fneg (g d a x) : Encoded.Statement (.fneg g d a x) :=
  encoded_of_fields rfl fun hw => by simp [decodeWord, decodeLong, decodeClass, decodeVU, keep_some _ hw]

theorem Encoded.frcp (g d a x) : Encoded.Statement (.frcp g d a x) :=
  encoded_of_fields rfl fun hw => by simp [decodeWord, decodeLong, decodeClass, decodeVU, keep_some _ hw]

theorem Encoded.frsq (g d a x) : Encoded.Statement (.frsq g d a x) :=
  encoded_of_fields rfl fun hw => by simp [decodeWord, decodeLong, decodeClass, decodeVU, keep_some _ hw]

theorem Encoded.fsqrt (g d a x) : Encoded.Statement (.fsqrt g d a x) :=
  encoded_of_fields rfl fun hw => by simp [decodeWord, decodeLong, decodeClass, decodeVU, keep_some _ hw]

theorem Encoded.fexp2 (g d a x) : Encoded.Statement (.fexp2 g d a x) :=
  encoded_of_fields rfl fun hw => by simp [decodeWord, decodeLong, decodeClass, decodeVU, keep_some _ hw]

theorem Encoded.flog2 (g d a x) : Encoded.Statement (.flog2 g d a x) :=
  encoded_of_fields rfl fun hw => by simp [decodeWord, decodeLong, decodeClass, decodeVU, keep_some _ hw]

theorem Encoded.fsin (g d a x) : Encoded.Statement (.fsin g d a x) :=
  encoded_of_fields rfl fun hw => by simp [decodeWord, decodeLong, decodeClass, decodeVU, keep_some _ hw]

theorem Encoded.fcos (g d a x) : Encoded.Statement (.fcos g d a x) :=
  encoded_of_fields rfl fun hw => by simp [decodeWord, decodeLong, decodeClass, decodeVU, keep_some _ hw]

theorem Encoded.ftanh (g d a x) : Encoded.Statement (.ftanh g d a x) :=
  encoded_of_fields rfl fun hw => by simp [decodeWord, decodeLong, decodeClass, decodeVU, keep_some _ hw]

theorem Encoded.ffloor (g d a x) : Encoded.Statement (.ffloor g d a x) :=
  encoded_of_fields rfl fun hw => by simp [decodeWord, decodeLong, decodeClass, decodeVU, keep_some _ hw]

theorem Encoded.fceil (g d a x) : Encoded.Statement (.fceil g d a x) :=
  encoded_of_fields rfl fun hw => by simp [decodeWord, decodeLong, decodeClass, decodeVU, keep_some _ hw]

theorem Encoded.ftrunc (g d a x) : Encoded.Statement (.ftrunc g d a x) :=
  encoded_of_fields rfl fun hw => by simp [decodeWord, decodeLong, decodeClass, decodeVU, keep_some _ hw]

theorem Encoded.frint (g d a x) : Encoded.Statement (.frint g d a x) :=
  encoded_of_fields rfl fun hw => by simp [decodeWord, decodeLong, decodeClass, decodeVU, keep_some _ hw]

theorem Encoded.ffract (g d a x) : Encoded.Statement (.ffract g d a x) :=
  encoded_of_fields rfl fun hw => by simp [decodeWord, decodeLong, decodeClass, decodeVU, keep_some _ hw]

theorem Encoded.cvtF32S32 (g d a x) : Encoded.Statement (.cvtF32S32 g d a x) :=
  encoded_of_fields rfl fun hw => by simp [decodeWord, decodeLong, decodeClass, decodeVU, keep_some _ hw]

theorem Encoded.cvtF32N32 (g d a x) : Encoded.Statement (.cvtF32N32 g d a x) :=
  encoded_of_fields rfl fun hw => by simp [decodeWord, decodeLong, decodeClass, decodeVU, keep_some _ hw]

theorem Encoded.cvtS32F32Rz (g d a x) : Encoded.Statement (.cvtS32F32Rz g d a x) :=
  encoded_of_fields rfl fun hw => by simp [decodeWord, decodeLong, decodeClass, decodeVU, keep_some _ hw]

theorem Encoded.cvtS32F32Rn (g d a x) : Encoded.Statement (.cvtS32F32Rn g d a x) :=
  encoded_of_fields rfl fun hw => by simp [decodeWord, decodeLong, decodeClass, decodeVU, keep_some _ hw]

theorem Encoded.cvtN32F32Rz (g d a x) : Encoded.Statement (.cvtN32F32Rz g d a x) :=
  encoded_of_fields rfl fun hw => by simp [decodeWord, decodeLong, decodeClass, decodeVU, keep_some _ hw]

theorem Encoded.cvtBf16F32 (g d a x) : Encoded.Statement (.cvtBf16F32 g d a x) :=
  encoded_of_fields rfl fun hw => by simp [decodeWord, decodeLong, decodeClass, decodeVU, keep_some _ hw]

theorem Encoded.cvtF32Bf16Lo (g d a x) : Encoded.Statement (.cvtF32Bf16Lo g d a x) :=
  encoded_of_fields rfl fun hw => by simp [decodeWord, decodeLong, decodeClass, decodeVU, keep_some _ hw]

theorem Encoded.cvtF32Bf16Hi (g d a x) : Encoded.Statement (.cvtF32Bf16Hi g d a x) :=
  encoded_of_fields rfl fun hw => by simp [decodeWord, decodeLong, decodeClass, decodeVU, keep_some _ hw]

theorem Encoded.cvtF16F32 (g d a x) : Encoded.Statement (.cvtF16F32 g d a x) :=
  encoded_of_fields rfl fun hw => by simp [decodeWord, decodeLong, decodeClass, decodeVU, keep_some _ hw]

theorem Encoded.cvtF32F16Lo (g d a x) : Encoded.Statement (.cvtF32F16Lo g d a x) :=
  encoded_of_fields rfl fun hw => by simp [decodeWord, decodeLong, decodeClass, decodeVU, keep_some _ hw]

theorem Encoded.cvtF32F16Hi (g d a x) : Encoded.Statement (.cvtF32F16Hi g d a x) :=
  encoded_of_fields rfl fun hw => by simp [decodeWord, decodeLong, decodeClass, decodeVU, keep_some _ hw]

theorem Encoded.cvtE4m3F32 (g d a x) : Encoded.Statement (.cvtE4m3F32 g d a x) :=
  encoded_of_fields rfl fun hw => by simp [decodeWord, decodeLong, decodeClass, decodeVU, keep_some _ hw]

theorem Encoded.cvtF32E4m3 (g d a x) : Encoded.Statement (.cvtF32E4m3 g d a x) :=
  encoded_of_fields rfl fun hw => by simp [decodeWord, decodeLong, decodeClass, decodeVU, keep_some _ hw]

theorem Encoded.cvtE5m2F32 (g d a x) : Encoded.Statement (.cvtE5m2F32 g d a x) :=
  encoded_of_fields rfl fun hw => by simp [decodeWord, decodeLong, decodeClass, decodeVU, keep_some _ hw]

theorem Encoded.cvtF32E5m2 (g d a x) : Encoded.Statement (.cvtF32E5m2 g d a x) :=
  encoded_of_fields rfl fun hw => by simp [decodeWord, decodeLong, decodeClass, decodeVU, keep_some _ hw]

theorem Encoded.fsat (g d a x) : Encoded.Statement (.fsat g d a x) :=
  encoded_of_fields rfl fun hw => by simp [decodeWord, decodeLong, decodeClass, decodeVU, keep_some _ hw]

theorem Encoded.cmps (g p q a b t c) : Encoded.Statement (.cmps g p q a b t c) :=
  encoded_of_fields rfl fun hw => by simp [decodeWord, decodeLong, decodeClass, decodeCMPS, keep_some _ hw]

theorem Encoded.cmpn (g p q a b t c) : Encoded.Statement (.cmpn g p q a b t c) :=
  encoded_of_fields rfl fun hw => by simp [decodeWord, decodeLong, decodeClass, decodeCMPN, keep_some _ hw]

theorem Encoded.cmpf (g p q a b t c) : Encoded.Statement (.cmpf g p q a b t c) :=
  encoded_of_fields rfl fun hw => by simp [decodeWord, decodeLong, decodeClass, decodeCMPF, keep_some _ hw]

theorem Encoded.cmpq (g p q a b t c) : Encoded.Statement (.cmpq g p q a b t c) :=
  encoded_of_fields rfl fun hw => by simp [decodeWord, decodeLong, decodeClass, decodeCMPQ, keep_some _ hw]

theorem Encoded.addi (g d a i) : Encoded.Statement (.addi g d a i) :=
  encoded_of_fields rfl fun hw => by simp [decodeWord, decodeLong, decodeClass, decodeVI, keep_some _ hw]

theorem Encoded.andi (g d a i) : Encoded.Statement (.andi g d a i) :=
  encoded_of_fields rfl fun hw => by simp [decodeWord, decodeLong, decodeClass, decodeVI, keep_some _ hw]

theorem Encoded.ori (g d a i) : Encoded.Statement (.ori g d a i) :=
  encoded_of_fields rfl fun hw => by simp [decodeWord, decodeLong, decodeClass, decodeVI, keep_some _ hw]

theorem Encoded.xori (g d a i) : Encoded.Statement (.xori g d a i) :=
  encoded_of_fields rfl fun hw => by simp [decodeWord, decodeLong, decodeClass, decodeVI, keep_some _ hw]

theorem Encoded.shli (g d a i) : Encoded.Statement (.shli g d a i) :=
  encoded_of_fields rfl fun hw => by simp [decodeWord, decodeLong, decodeClass, decodeVI, keep_some _ hw]

theorem Encoded.shriN32 (g d a i) : Encoded.Statement (.shriN32 g d a i) :=
  encoded_of_fields rfl fun hw => by simp [decodeWord, decodeLong, decodeClass, decodeVI, keep_some _ hw]

theorem Encoded.shriS32 (g d a i) : Encoded.Statement (.shriS32 g d a i) :=
  encoded_of_fields rfl fun hw => by simp [decodeWord, decodeLong, decodeClass, decodeVI, keep_some _ hw]

theorem Encoded.muli (g d a i) : Encoded.Statement (.muli g d a i) :=
  encoded_of_fields rfl fun hw => by simp [decodeWord, decodeLong, decodeClass, decodeVI, keep_some _ hw]

theorem Encoded.addSr (g d a b) : Encoded.Statement (.addSr g d a b) :=
  encoded_of_fields rfl fun hw => by simp [decodeWord, decodeLong, decodeClass, decodeSR, keep_some _ hw]

theorem Encoded.subSr (g d a b) : Encoded.Statement (.subSr g d a b) :=
  encoded_of_fields rfl fun hw => by simp [decodeWord, decodeLong, decodeClass, decodeSR, keep_some _ hw]

theorem Encoded.mulSr (g d a b) : Encoded.Statement (.mulSr g d a b) :=
  encoded_of_fields rfl fun hw => by simp [decodeWord, decodeLong, decodeClass, decodeSR, keep_some _ hw]

theorem Encoded.mulhSSr (g d a b) : Encoded.Statement (.mulhSSr g d a b) :=
  encoded_of_fields rfl fun hw => by simp [decodeWord, decodeLong, decodeClass, decodeSR, keep_some _ hw]

theorem Encoded.mulhNSr (g d a b) : Encoded.Statement (.mulhNSr g d a b) :=
  encoded_of_fields rfl fun hw => by simp [decodeWord, decodeLong, decodeClass, decodeSR, keep_some _ hw]

theorem Encoded.andSr (g d a b) : Encoded.Statement (.andSr g d a b) :=
  encoded_of_fields rfl fun hw => by simp [decodeWord, decodeLong, decodeClass, decodeSR, keep_some _ hw]

theorem Encoded.orSr (g d a b) : Encoded.Statement (.orSr g d a b) :=
  encoded_of_fields rfl fun hw => by simp [decodeWord, decodeLong, decodeClass, decodeSR, keep_some _ hw]

theorem Encoded.xorSr (g d a b) : Encoded.Statement (.xorSr g d a b) :=
  encoded_of_fields rfl fun hw => by simp [decodeWord, decodeLong, decodeClass, decodeSR, keep_some _ hw]

theorem Encoded.andnSr (g d a b) : Encoded.Statement (.andnSr g d a b) :=
  encoded_of_fields rfl fun hw => by simp [decodeWord, decodeLong, decodeClass, decodeSR, keep_some _ hw]

theorem Encoded.shlSr (g d a b) : Encoded.Statement (.shlSr g d a b) :=
  encoded_of_fields rfl fun hw => by simp [decodeWord, decodeLong, decodeClass, decodeSR, keep_some _ hw]

theorem Encoded.shrNSr (g d a b) : Encoded.Statement (.shrNSr g d a b) :=
  encoded_of_fields rfl fun hw => by simp [decodeWord, decodeLong, decodeClass, decodeSR, keep_some _ hw]

theorem Encoded.shrSSr (g d a b) : Encoded.Statement (.shrSSr g d a b) :=
  encoded_of_fields rfl fun hw => by simp [decodeWord, decodeLong, decodeClass, decodeSR, keep_some _ hw]

theorem Encoded.minSSr (g d a b) : Encoded.Statement (.minSSr g d a b) :=
  encoded_of_fields rfl fun hw => by simp [decodeWord, decodeLong, decodeClass, decodeSR, keep_some _ hw]

theorem Encoded.maxSSr (g d a b) : Encoded.Statement (.maxSSr g d a b) :=
  encoded_of_fields rfl fun hw => by simp [decodeWord, decodeLong, decodeClass, decodeSR, keep_some _ hw]

theorem Encoded.minNSr (g d a b) : Encoded.Statement (.minNSr g d a b) :=
  encoded_of_fields rfl fun hw => by simp [decodeWord, decodeLong, decodeClass, decodeSR, keep_some _ hw]

theorem Encoded.maxNSr (g d a b) : Encoded.Statement (.maxNSr g d a b) :=
  encoded_of_fields rfl fun hw => by simp [decodeWord, decodeLong, decodeClass, decodeSR, keep_some _ hw]

theorem Encoded.divSSr (g d a b) : Encoded.Statement (.divSSr g d a b) :=
  encoded_of_fields rfl fun hw => by simp [decodeWord, decodeLong, decodeClass, decodeSR, keep_some _ hw]

theorem Encoded.divNSr (g d a b) : Encoded.Statement (.divNSr g d a b) :=
  encoded_of_fields rfl fun hw => by simp [decodeWord, decodeLong, decodeClass, decodeSR, keep_some _ hw]

theorem Encoded.remSSr (g d a b) : Encoded.Statement (.remSSr g d a b) :=
  encoded_of_fields rfl fun hw => by simp [decodeWord, decodeLong, decodeClass, decodeSR, keep_some _ hw]

theorem Encoded.remNSr (g d a b) : Encoded.Statement (.remNSr g d a b) :=
  encoded_of_fields rfl fun hw => by simp [decodeWord, decodeLong, decodeClass, decodeSR, keep_some _ hw]

theorem Encoded.clzSr (g d a) : Encoded.Statement (.clzSr g d a) :=
  encoded_of_fields rfl fun hw => by simp [decodeWord, decodeLong, decodeClass, decodeSR, keep_some _ hw]

theorem Encoded.popcSr (g d a) : Encoded.Statement (.popcSr g d a) :=
  encoded_of_fields rfl fun hw => by simp [decodeWord, decodeLong, decodeClass, decodeSR, keep_some _ hw]

theorem Encoded.movSr (g d a) : Encoded.Statement (.movSr g d a) :=
  encoded_of_fields rfl fun hw => by simp [decodeWord, decodeLong, decodeClass, decodeSR, keep_some _ hw]

theorem Encoded.bfx (g d a b) : Encoded.Statement (.bfx g d a b) :=
  encoded_of_fields rfl fun hw => by simp [decodeWord, decodeLong, decodeClass, decodeSR, keep_some _ hw]

theorem Encoded.addiSi (g d a i) : Encoded.Statement (.addiSi g d a i) :=
  encoded_of_fields rfl fun hw => by simp [decodeWord, decodeLong, decodeClass, decodeSI, keep_some _ hw]

theorem Encoded.andiSi (g d a i) : Encoded.Statement (.andiSi g d a i) :=
  encoded_of_fields rfl fun hw => by simp [decodeWord, decodeLong, decodeClass, decodeSI, keep_some _ hw]

theorem Encoded.oriSi (g d a i) : Encoded.Statement (.oriSi g d a i) :=
  encoded_of_fields rfl fun hw => by simp [decodeWord, decodeLong, decodeClass, decodeSI, keep_some _ hw]

theorem Encoded.xoriSi (g d a i) : Encoded.Statement (.xoriSi g d a i) :=
  encoded_of_fields rfl fun hw => by simp [decodeWord, decodeLong, decodeClass, decodeSI, keep_some _ hw]

theorem Encoded.shliSi (g d a i) : Encoded.Statement (.shliSi g d a i) :=
  encoded_of_fields rfl fun hw => by simp [decodeWord, decodeLong, decodeClass, decodeSI, keep_some _ hw]

theorem Encoded.shriNSi (g d a i) : Encoded.Statement (.shriNSi g d a i) :=
  encoded_of_fields rfl fun hw => by simp [decodeWord, decodeLong, decodeClass, decodeSI, keep_some _ hw]

theorem Encoded.shriSSi (g d a i) : Encoded.Statement (.shriSSi g d a i) :=
  encoded_of_fields rfl fun hw => by simp [decodeWord, decodeLong, decodeClass, decodeSI, keep_some _ hw]

theorem Encoded.muliSi (g d a i) : Encoded.Statement (.muliSi g d a i) :=
  encoded_of_fields rfl fun hw => by simp [decodeWord, decodeLong, decodeClass, decodeSI, keep_some _ hw]

theorem Encoded.li (g d i) : Encoded.Statement (.li g d i) :=
  encoded_of_fields rfl fun hw => by simp [decodeWord, decodeLong, decodeClass, decodeSLI, keep_some _ hw]

theorem Encoded.lis (g d i) : Encoded.Statement (.lis g d i) :=
  encoded_of_fields rfl fun hw => by simp [decodeWord, decodeLong, decodeClass, decodeSLI, keep_some _ hw]

theorem Encoded.addis (g d i) : Encoded.Statement (.addis g d i) :=
  encoded_of_fields rfl fun hw => by simp [decodeWord, decodeLong, decodeClass, decodeSLI, keep_some _ hw]

theorem Encoded.bcast (g d a) : Encoded.Statement (.bcast g d a) :=
  encoded_of_fields rfl fun hw => by simp [decodeWord, decodeLong, decodeClass, decodeXS, keep_some _ hw]

theorem Encoded.rdlane (g d a b x) : Encoded.Statement (.rdlane g d a b x) :=
  encoded_of_fields rfl fun hw => by simp [decodeWord, decodeLong, decodeClass, decodeXS, keep_some _ hw]

theorem Encoded.wrlane (g d a b) : Encoded.Statement (.wrlane g d a b) :=
  encoded_of_fields rfl fun hw => by simp [decodeWord, decodeLong, decodeClass, decodeXS, keep_some _ hw]

theorem Encoded.shfl (g d a b x y) : Encoded.Statement (.shfl g d a b x y) :=
  encoded_of_fields rfl fun hw => by simp [decodeWord, decodeLong, decodeClass, decodeXS, keep_some _ hw]

theorem Encoded.shflX (g d a b x y) : Encoded.Statement (.shflX g d a b x y) :=
  encoded_of_fields rfl fun hw => by simp [decodeWord, decodeLong, decodeClass, decodeXS, keep_some _ hw]

theorem Encoded.ballot (g d a) : Encoded.Statement (.ballot g d a) :=
  encoded_of_fields rfl fun hw => by simp [decodeWord, decodeLong, decodeClass, decodeXS, keep_some _ hw]

theorem Encoded.redi (g d a x) : Encoded.Statement (.redi g d a x) :=
  encoded_of_fields rfl fun hw => by simp [decodeWord, decodeLong, decodeClass, decodeXS, keep_some _ hw]

theorem Encoded.redf (g d a x) : Encoded.Statement (.redf g d a x) :=
  encoded_of_fields rfl fun hw => by simp [decodeWord, decodeLong, decodeClass, decodeXS, keep_some _ hw]

theorem Encoded.sel (g d a b x y s) : Encoded.Statement (.sel g d a b x y s) :=
  encoded_of_fields rfl fun hw => by simp [decodeWord, decodeLong, decodeClass, decodeSEL, keep_some _ hw]

theorem Encoded.braP (g o) : Encoded.Statement (.braP g o) :=
  encoded_of_fields rfl fun hw => by simp [decodeWord, decodeLong, decodeClass, decodeBRA, keep_some _ hw]

theorem Encoded.braC (g o) : Encoded.Statement (.braC g o) :=
  encoded_of_fields rfl fun hw => by simp [decodeWord, decodeLong, decodeClass, decodeBRA, keep_some _ hw]

theorem Encoded.brx (g o j) : Encoded.Statement (.brx g o j) :=
  encoded_of_fields rfl fun hw => by simp [decodeWord, decodeLong, decodeClass, decodeBRX, keep_some _ hw]

theorem Encoded.join : Encoded.Statement .join :=
  encoded_of_fields rfl fun hw => by simp [decodeWord, decodeLong, decodeClass, decodeJR, keep_some _ hw]

theorem Encoded.jmpr (g a) : Encoded.Statement (.jmpr g a) :=
  encoded_of_fields rfl fun hw => by simp [decodeWord, decodeLong, decodeClass, decodeJR, keep_some _ hw]

theorem Encoded.callr (g a) : Encoded.Statement (.callr g a) :=
  encoded_of_fields rfl fun hw => by simp [decodeWord, decodeLong, decodeClass, decodeJR, keep_some _ hw]

theorem Encoded.ret (g) : Encoded.Statement (.ret g) :=
  encoded_of_fields rfl fun hw => by simp [decodeWord, decodeLong, decodeClass, decodeJR, keep_some _ hw]

theorem Encoded.brxr (g a b) : Encoded.Statement (.brxr g a b) :=
  encoded_of_fields rfl fun hw => by simp [decodeWord, decodeLong, decodeClass, decodeJR, keep_some _ hw]

theorem Encoded.exit (g s) : Encoded.Statement (.exit g s) :=
  encoded_of_fields rfl fun hw => by simp [decodeWord, decodeLong, decodeClass, decodeJR, keep_some _ hw]

theorem Encoded.trap (g i) : Encoded.Statement (.trap g i) :=
  encoded_of_fields rfl fun hw => by simp [decodeWord, decodeLong, decodeClass, decodeJR, keep_some _ hw]

theorem Encoded.yield (g i) : Encoded.Statement (.yield g i) :=
  encoded_of_fields rfl fun hw => by simp [decodeWord, decodeLong, decodeClass, decodeJR, keep_some _ hw]

theorem Encoded.call (g o) : Encoded.Statement (.call g o) :=
  encoded_of_fields rfl fun hw => by simp [decodeWord, decodeLong, decodeClass, decodeCALL, keep_some _ hw]

theorem Encoded.ldgN8 (g p d o s r) : Encoded.Statement (.ldgN8 g p d o s r) :=
  encoded_of_fields rfl fun hw => by simp [decodeWord, decodeLong, decodeClass, decodeLDG, keep_some _ hw]

theorem Encoded.ldgS8 (g p d o s r) : Encoded.Statement (.ldgS8 g p d o s r) :=
  encoded_of_fields rfl fun hw => by simp [decodeWord, decodeLong, decodeClass, decodeLDG, keep_some _ hw]

theorem Encoded.ldgN16 (g p d o s r) : Encoded.Statement (.ldgN16 g p d o s r) :=
  encoded_of_fields rfl fun hw => by simp [decodeWord, decodeLong, decodeClass, decodeLDG, keep_some _ hw]

theorem Encoded.ldgS16 (g p d o s r) : Encoded.Statement (.ldgS16 g p d o s r) :=
  encoded_of_fields rfl fun hw => by simp [decodeWord, decodeLong, decodeClass, decodeLDG, keep_some _ hw]

theorem Encoded.ldgB32 (g p d o s r) : Encoded.Statement (.ldgB32 g p d o s r) :=
  encoded_of_fields rfl fun hw => by simp [decodeWord, decodeLong, decodeClass, decodeLDG, keep_some _ hw]

theorem Encoded.ldgB64 (g p d o s r) : Encoded.Statement (.ldgB64 g p d o s r) :=
  encoded_of_fields rfl fun hw => by simp [decodeWord, decodeLong, decodeClass, decodeLDG, keep_some _ hw]

theorem Encoded.ldgB128 (g p d o s r) : Encoded.Statement (.ldgB128 g p d o s r) :=
  encoded_of_fields rfl fun hw => by simp [decodeWord, decodeLong, decodeClass, decodeLDG, keep_some _ hw]

theorem Encoded.stgB8 (g p d o s r) : Encoded.Statement (.stgB8 g p d o s r) :=
  encoded_of_fields rfl fun hw => by simp [decodeWord, decodeLong, decodeClass, decodeSTG, keep_some _ hw]

theorem Encoded.stgB16 (g p d o s r) : Encoded.Statement (.stgB16 g p d o s r) :=
  encoded_of_fields rfl fun hw => by simp [decodeWord, decodeLong, decodeClass, decodeSTG, keep_some _ hw]

theorem Encoded.stgB32 (g p d o s r) : Encoded.Statement (.stgB32 g p d o s r) :=
  encoded_of_fields rfl fun hw => by simp [decodeWord, decodeLong, decodeClass, decodeSTG, keep_some _ hw]

theorem Encoded.stgB64 (g p d o s r) : Encoded.Statement (.stgB64 g p d o s r) :=
  encoded_of_fields rfl fun hw => by simp [decodeWord, decodeLong, decodeClass, decodeSTG, keep_some _ hw]

theorem Encoded.stgB128 (g p d o s r) : Encoded.Statement (.stgB128 g p d o s r) :=
  encoded_of_fields rfl fun hw => by simp [decodeWord, decodeLong, decodeClass, decodeSTG, keep_some _ hw]

theorem Encoded.ldsN8 (g d a i) : Encoded.Statement (.ldsN8 g d a i) :=
  encoded_of_fields rfl fun hw => by simp [decodeWord, decodeLong, decodeClass, decodeLDS, keep_some _ hw]

theorem Encoded.ldsS8 (g d a i) : Encoded.Statement (.ldsS8 g d a i) :=
  encoded_of_fields rfl fun hw => by simp [decodeWord, decodeLong, decodeClass, decodeLDS, keep_some _ hw]

theorem Encoded.ldsN16 (g d a i) : Encoded.Statement (.ldsN16 g d a i) :=
  encoded_of_fields rfl fun hw => by simp [decodeWord, decodeLong, decodeClass, decodeLDS, keep_some _ hw]

theorem Encoded.ldsS16 (g d a i) : Encoded.Statement (.ldsS16 g d a i) :=
  encoded_of_fields rfl fun hw => by simp [decodeWord, decodeLong, decodeClass, decodeLDS, keep_some _ hw]

theorem Encoded.ldsB32 (g d a i) : Encoded.Statement (.ldsB32 g d a i) :=
  encoded_of_fields rfl fun hw => by simp [decodeWord, decodeLong, decodeClass, decodeLDS, keep_some _ hw]

theorem Encoded.ldsB64 (g d a i) : Encoded.Statement (.ldsB64 g d a i) :=
  encoded_of_fields rfl fun hw => by simp [decodeWord, decodeLong, decodeClass, decodeLDS, keep_some _ hw]

theorem Encoded.ldsB128 (g d a i) : Encoded.Statement (.ldsB128 g d a i) :=
  encoded_of_fields rfl fun hw => by simp [decodeWord, decodeLong, decodeClass, decodeLDS, keep_some _ hw]

theorem Encoded.stsB8 (g d a i) : Encoded.Statement (.stsB8 g d a i) :=
  encoded_of_fields rfl fun hw => by simp [decodeWord, decodeLong, decodeClass, decodeSTS, keep_some _ hw]

theorem Encoded.stsB16 (g d a i) : Encoded.Statement (.stsB16 g d a i) :=
  encoded_of_fields rfl fun hw => by simp [decodeWord, decodeLong, decodeClass, decodeSTS, keep_some _ hw]

theorem Encoded.stsB32 (g d a i) : Encoded.Statement (.stsB32 g d a i) :=
  encoded_of_fields rfl fun hw => by simp [decodeWord, decodeLong, decodeClass, decodeSTS, keep_some _ hw]

theorem Encoded.stsB64 (g d a i) : Encoded.Statement (.stsB64 g d a i) :=
  encoded_of_fields rfl fun hw => by simp [decodeWord, decodeLong, decodeClass, decodeSTS, keep_some _ hw]

theorem Encoded.stsB128 (g d a i) : Encoded.Statement (.stsB128 g d a i) :=
  encoded_of_fields rfl fun hw => by simp [decodeWord, decodeLong, decodeClass, decodeSTS, keep_some _ hw]

theorem Encoded.ldpB32 (g d a i) : Encoded.Statement (.ldpB32 g d a i) :=
  encoded_of_fields rfl fun hw => by simp [decodeWord, decodeLong, decodeClass, decodePRV, keep_some _ hw]

theorem Encoded.ldpB64 (g d a i) : Encoded.Statement (.ldpB64 g d a i) :=
  encoded_of_fields rfl fun hw => by simp [decodeWord, decodeLong, decodeClass, decodePRV, keep_some _ hw]

theorem Encoded.ldpB128 (g d a i) : Encoded.Statement (.ldpB128 g d a i) :=
  encoded_of_fields rfl fun hw => by simp [decodeWord, decodeLong, decodeClass, decodePRV, keep_some _ hw]

theorem Encoded.stpB32 (g d a i) : Encoded.Statement (.stpB32 g d a i) :=
  encoded_of_fields rfl fun hw => by simp [decodeWord, decodeLong, decodeClass, decodePRV, keep_some _ hw]

theorem Encoded.stpB64 (g d a i) : Encoded.Statement (.stpB64 g d a i) :=
  encoded_of_fields rfl fun hw => by simp [decodeWord, decodeLong, decodeClass, decodePRV, keep_some _ hw]

theorem Encoded.stpB128 (g d a i) : Encoded.Statement (.stpB128 g d a i) :=
  encoded_of_fields rfl fun hw => by simp [decodeWord, decodeLong, decodeClass, decodePRV, keep_some _ hw]

theorem Encoded.atomAdd (g d a o s n w) : Encoded.Statement (.atomAdd g d a o s n w) :=
  encoded_of_fields rfl fun hw => by simp [decodeWord, decodeLong, decodeClass, decodeATOM, keep_some _ hw]

theorem Encoded.atomMinS (g d a o s n w) : Encoded.Statement (.atomMinS g d a o s n w) :=
  encoded_of_fields rfl fun hw => by simp [decodeWord, decodeLong, decodeClass, decodeATOM, keep_some _ hw]

theorem Encoded.atomMaxS (g d a o s n w) : Encoded.Statement (.atomMaxS g d a o s n w) :=
  encoded_of_fields rfl fun hw => by simp [decodeWord, decodeLong, decodeClass, decodeATOM, keep_some _ hw]

theorem Encoded.atomMinN (g d a o s n w) : Encoded.Statement (.atomMinN g d a o s n w) :=
  encoded_of_fields rfl fun hw => by simp [decodeWord, decodeLong, decodeClass, decodeATOM, keep_some _ hw]

theorem Encoded.atomMaxN (g d a o s n w) : Encoded.Statement (.atomMaxN g d a o s n w) :=
  encoded_of_fields rfl fun hw => by simp [decodeWord, decodeLong, decodeClass, decodeATOM, keep_some _ hw]

theorem Encoded.atomAnd (g d a o s n w) : Encoded.Statement (.atomAnd g d a o s n w) :=
  encoded_of_fields rfl fun hw => by simp [decodeWord, decodeLong, decodeClass, decodeATOM, keep_some _ hw]

theorem Encoded.atomOr (g d a o s n w) : Encoded.Statement (.atomOr g d a o s n w) :=
  encoded_of_fields rfl fun hw => by simp [decodeWord, decodeLong, decodeClass, decodeATOM, keep_some _ hw]

theorem Encoded.atomXor (g d a o s n w) : Encoded.Statement (.atomXor g d a o s n w) :=
  encoded_of_fields rfl fun hw => by simp [decodeWord, decodeLong, decodeClass, decodeATOM, keep_some _ hw]

theorem Encoded.atomXchg (g d a o s n w) : Encoded.Statement (.atomXchg g d a o s n w) :=
  encoded_of_fields rfl fun hw => by simp [decodeWord, decodeLong, decodeClass, decodeATOM, keep_some _ hw]

theorem Encoded.atomCas (g d a o s n w) : Encoded.Statement (.atomCas g d a o s n w) :=
  encoded_of_fields rfl fun hw => by simp [decodeWord, decodeLong, decodeClass, decodeATOM, keep_some _ hw]

theorem Encoded.atomFaddF32 (g d a o s n) : Encoded.Statement (.atomFaddF32 g d a o s n) :=
  encoded_of_fields rfl fun hw => by simp [decodeWord, decodeLong, decodeClass, decodeATOM, keep_some _ hw]

theorem Encoded.atomFminF32 (g d a o s n) : Encoded.Statement (.atomFminF32 g d a o s n) :=
  encoded_of_fields rfl fun hw => by simp [decodeWord, decodeLong, decodeClass, decodeATOM, keep_some _ hw]

theorem Encoded.atomFmaxF32 (g d a o s n) : Encoded.Statement (.atomFmaxF32 g d a o s n) :=
  encoded_of_fields rfl fun hw => by simp [decodeWord, decodeLong, decodeClass, decodeATOM, keep_some _ hw]

theorem Encoded.atomLd (g d a o s w) : Encoded.Statement (.atomLd g d a o s w) :=
  encoded_of_fields rfl fun hw => by simp [decodeWord, decodeLong, decodeClass, decodeATOM, keep_some _ hw]

theorem Encoded.atomSt (g d a o s n w) : Encoded.Statement (.atomSt g d a o s n w) :=
  encoded_of_fields rfl fun hw => by simp [decodeWord, decodeLong, decodeClass, decodeATOM, keep_some _ hw]

theorem Encoded.atomsAdd (g d a o s n w) : Encoded.Statement (.atomsAdd g d a o s n w) :=
  encoded_of_fields rfl fun hw => by simp [decodeWord, decodeLong, decodeClass, decodeATOMS, keep_some _ hw]

theorem Encoded.atomsMinS (g d a o s n w) : Encoded.Statement (.atomsMinS g d a o s n w) :=
  encoded_of_fields rfl fun hw => by simp [decodeWord, decodeLong, decodeClass, decodeATOMS, keep_some _ hw]

theorem Encoded.atomsMaxS (g d a o s n w) : Encoded.Statement (.atomsMaxS g d a o s n w) :=
  encoded_of_fields rfl fun hw => by simp [decodeWord, decodeLong, decodeClass, decodeATOMS, keep_some _ hw]

theorem Encoded.atomsMinN (g d a o s n w) : Encoded.Statement (.atomsMinN g d a o s n w) :=
  encoded_of_fields rfl fun hw => by simp [decodeWord, decodeLong, decodeClass, decodeATOMS, keep_some _ hw]

theorem Encoded.atomsMaxN (g d a o s n w) : Encoded.Statement (.atomsMaxN g d a o s n w) :=
  encoded_of_fields rfl fun hw => by simp [decodeWord, decodeLong, decodeClass, decodeATOMS, keep_some _ hw]

theorem Encoded.atomsAnd (g d a o s n w) : Encoded.Statement (.atomsAnd g d a o s n w) :=
  encoded_of_fields rfl fun hw => by simp [decodeWord, decodeLong, decodeClass, decodeATOMS, keep_some _ hw]

theorem Encoded.atomsOr (g d a o s n w) : Encoded.Statement (.atomsOr g d a o s n w) :=
  encoded_of_fields rfl fun hw => by simp [decodeWord, decodeLong, decodeClass, decodeATOMS, keep_some _ hw]

theorem Encoded.atomsXor (g d a o s n w) : Encoded.Statement (.atomsXor g d a o s n w) :=
  encoded_of_fields rfl fun hw => by simp [decodeWord, decodeLong, decodeClass, decodeATOMS, keep_some _ hw]

theorem Encoded.atomsXchg (g d a o s n w) : Encoded.Statement (.atomsXchg g d a o s n w) :=
  encoded_of_fields rfl fun hw => by simp [decodeWord, decodeLong, decodeClass, decodeATOMS, keep_some _ hw]

theorem Encoded.atomsCas (g d a o s n w) : Encoded.Statement (.atomsCas g d a o s n w) :=
  encoded_of_fields rfl fun hw => by simp [decodeWord, decodeLong, decodeClass, decodeATOMS, keep_some _ hw]

theorem Encoded.atomsFaddF32 (g d a o s n) : Encoded.Statement (.atomsFaddF32 g d a o s n) :=
  encoded_of_fields rfl fun hw => by simp [decodeWord, decodeLong, decodeClass, decodeATOMS, keep_some _ hw]

theorem Encoded.atomsFminF32 (g d a o s n) : Encoded.Statement (.atomsFminF32 g d a o s n) :=
  encoded_of_fields rfl fun hw => by simp [decodeWord, decodeLong, decodeClass, decodeATOMS, keep_some _ hw]

theorem Encoded.atomsFmaxF32 (g d a o s n) : Encoded.Statement (.atomsFmaxF32 g d a o s n) :=
  encoded_of_fields rfl fun hw => by simp [decodeWord, decodeLong, decodeClass, decodeATOMS, keep_some _ hw]

theorem Encoded.atomsLd (g d a o s w) : Encoded.Statement (.atomsLd g d a o s w) :=
  encoded_of_fields rfl fun hw => by simp [decodeWord, decodeLong, decodeClass, decodeATOMS, keep_some _ hw]

theorem Encoded.atomsSt (g d a o s n w) : Encoded.Statement (.atomsSt g d a o s n w) :=
  encoded_of_fields rfl fun hw => by simp [decodeWord, decodeLong, decodeClass, decodeATOMS, keep_some _ hw]

theorem Encoded.fence (g a b o s k) : Encoded.Statement (.fence g a b o s k) :=
  encoded_of_fields rfl fun hw => by simp [decodeWord, decodeLong, decodeClass, decodeSYNC, keep_some _ hw]

theorem Encoded.marm (g a) : Encoded.Statement (.marm g a) :=
  encoded_of_fields rfl fun hw => by simp [decodeWord, decodeLong, decodeClass, decodeSYNC, keep_some _ hw]

theorem Encoded.mwait (g a b) : Encoded.Statement (.mwait g a b) :=
  encoded_of_fields rfl fun hw => by simp [decodeWord, decodeLong, decodeClass, decodeSYNC, keep_some _ hw]

theorem Encoded.bsealCopy (g a) : Encoded.Statement (.bsealCopy g a) :=
  encoded_of_fields rfl fun hw => by simp [decodeWord, decodeLong, decodeClass, decodeSYNC, keep_some _ hw]

theorem Encoded.bsealMat (g a) : Encoded.Statement (.bsealMat g a) :=
  encoded_of_fields rfl fun hw => by simp [decodeWord, decodeLong, decodeClass, decodeSYNC, keep_some _ hw]

theorem Encoded.bwaitCopy (g a) : Encoded.Statement (.bwaitCopy g a) :=
  encoded_of_fields rfl fun hw => by simp [decodeWord, decodeLong, decodeClass, decodeSYNC, keep_some _ hw]

theorem Encoded.bwaitMat (g a) : Encoded.Statement (.bwaitMat g a) :=
  encoded_of_fields rfl fun hw => by simp [decodeWord, decodeLong, decodeClass, decodeSYNC, keep_some _ hw]

theorem Encoded.bar (g b k) : Encoded.Statement (.bar g b k) :=
  encoded_of_fields rfl fun hw => by
    have hk : k.toNat ≠ 7 := by
      intro h
      have : k = 7 := BitVec.eq_of_toNat_eq h
      subst this
      exact absurd hw (by simp [wellFormed])
    have hl : k.toNat % 8 = k.toNat := Nat.mod_eq_of_lt k.isLt
    simp [decodeWord, decodeLong, decodeClass, decodeSYNC, keep_some _ hw, hk, hl]

theorem Encoded.barLanes (g a) : Encoded.Statement (.barLanes g a) :=
  encoded_of_fields rfl fun hw => by simp [decodeWord, decodeLong, decodeClass, decodeSYNC, keep_some _ hw]

theorem Encoded.tgateArriveWait (g) : Encoded.Statement (.tgateArriveWait g) :=
  encoded_of_fields rfl fun hw => by simp [decodeWord, decodeLong, decodeClass, decodeSYNC, keep_some _ hw]

theorem Encoded.tgateArrive (g) : Encoded.Statement (.tgateArrive g) :=
  encoded_of_fields rfl fun hw => by simp [decodeWord, decodeLong, decodeClass, decodeSYNC, keep_some _ hw]

theorem Encoded.tgateWait (g) : Encoded.Statement (.tgateWait g) :=
  encoded_of_fields rfl fun hw => by simp [decodeWord, decodeLong, decodeClass, decodeSYNC, keep_some _ hw]

theorem Encoded.wdrain (g a b s) : Encoded.Statement (.wdrain g a b s) :=
  encoded_of_fields rfl fun hw => by simp [decodeWord, decodeLong, decodeClass, decodeSYNC, keep_some _ hw]

theorem Encoded.qpush (g q d) : Encoded.Statement (.qpush g q d) :=
  encoded_of_fields rfl fun hw => by simp [decodeWord, decodeLong, decodeClass, decodeQUE, keep_some _ hw]

theorem Encoded.qpop (g q d) : Encoded.Statement (.qpop g q d) :=
  encoded_of_fields rfl fun hw => by simp [decodeWord, decodeLong, decodeClass, decodeQUE, keep_some _ hw]

theorem Encoded.qtpush (g q d c) : Encoded.Statement (.qtpush g q d c) :=
  encoded_of_fields rfl fun hw => by simp [decodeWord, decodeLong, decodeClass, decodeQUE, keep_some _ hw]

theorem Encoded.qtpop (g q d c) : Encoded.Statement (.qtpop g q d c) :=
  encoded_of_fields rfl fun hw => by simp [decodeWord, decodeLong, decodeClass, decodeQUE, keep_some _ hw]

theorem Encoded.qinit (g q d i) : Encoded.Statement (.qinit g q d i) :=
  encoded_of_fields rfl fun hw => by simp [decodeWord, decodeLong, decodeClass, decodeQUE, keep_some _ hw]

theorem Encoded.qstat (g q d) : Encoded.Statement (.qstat g q d) :=
  encoded_of_fields rfl fun hw => by simp [decodeWord, decodeLong, decodeClass, decodeQUE, keep_some _ hw]

theorem Encoded.xcpCopy (g a b e r) : Encoded.Statement (.xcpCopy g a b e r) :=
  encoded_of_fields rfl fun hw => by simp [decodeWord, decodeLong, decodeClass, decodeXCP, keep_some _ hw]

theorem Encoded.xcpStrided (g a b e r) : Encoded.Statement (.xcpStrided g a b e r) :=
  encoded_of_fields rfl fun hw => by simp [decodeWord, decodeLong, decodeClass, decodeXCP, keep_some _ hw]

theorem Encoded.xcpSwizzle (g a b e r) : Encoded.Statement (.xcpSwizzle g a b e r) :=
  encoded_of_fields rfl fun hw => by simp [decodeWord, decodeLong, decodeClass, decodeXCP, keep_some _ hw]

theorem Encoded.xcpCbexp (g a b e r) : Encoded.Statement (.xcpCbexp g a b e r) :=
  encoded_of_fields rfl fun hw => by simp [decodeWord, decodeLong, decodeClass, decodeXCP, keep_some _ hw]

theorem Encoded.xcpTxb4c (g a b e r) : Encoded.Statement (.xcpTxb4c g a b e r) :=
  encoded_of_fields rfl fun hw => by simp [decodeWord, decodeLong, decodeClass, decodeXCP, keep_some _ hw]

theorem Encoded.xcpTxb4x (g a b e r) : Encoded.Statement (.xcpTxb4x g a b e r) :=
  encoded_of_fields rfl fun hw => by simp [decodeWord, decodeLong, decodeClass, decodeXCP, keep_some _ hw]

theorem Encoded.xcpSgnpk (g a b e r) : Encoded.Statement (.xcpSgnpk g a b e r) :=
  encoded_of_fields rfl fun hw => by simp [decodeWord, decodeLong, decodeClass, decodeXCP, keep_some _ hw]

theorem Encoded.xcpSgnun (g a b e r) : Encoded.Statement (.xcpSgnun g a b e r) :=
  encoded_of_fields rfl fun hw => by simp [decodeWord, decodeLong, decodeClass, decodeXCP, keep_some _ hw]

theorem Encoded.xcpShenc (g a b e r) : Encoded.Statement (.xcpShenc g a b e r) :=
  encoded_of_fields rfl fun hw => by simp [decodeWord, decodeLong, decodeClass, decodeXCP, keep_some _ hw]

theorem Encoded.xcpShdec (g a b e r) : Encoded.Statement (.xcpShdec g a b e r) :=
  encoded_of_fields rfl fun hw => by simp [decodeWord, decodeLong, decodeClass, decodeXCP, keep_some _ hw]

theorem Encoded.xcpGather (g a b e r) : Encoded.Statement (.xcpGather g a b e r) :=
  encoded_of_fields rfl fun hw => by simp [decodeWord, decodeLong, decodeClass, decodeXCP, keep_some _ hw]

theorem Encoded.xcpFill (g a b e r) : Encoded.Statement (.xcpFill g a b e r) :=
  encoded_of_fields rfl fun hw => by simp [decodeWord, decodeLong, decodeClass, decodeXCP, keep_some _ hw]

theorem Encoded.mma (g z a b r) : Encoded.Statement (.mma g z a b r) :=
  encoded_of_fields rfl fun hw => by simp [decodeWord, decodeLong, decodeClass, decodeMMA, keep_some _ hw]

theorem Encoded.mmaBt (g z a b r) : Encoded.Statement (.mmaBt g z a b r) :=
  encoded_of_fields rfl fun hw => by simp [decodeWord, decodeLong, decodeClass, decodeMMA, keep_some _ hw]

theorem Encoded.mmaRs (g z a b r) : Encoded.Statement (.mmaRs g z a b r) :=
  encoded_of_fields rfl fun hw => by simp [decodeWord, decodeLong, decodeClass, decodeMMA, keep_some _ hw]

theorem Encoded.mdf (g z a b r) : Encoded.Statement (.mdf g z a b r) :=
  encoded_of_fields rfl fun hw => by simp [decodeWord, decodeLong, decodeClass, decodeMMA, keep_some _ hw]

theorem Encoded.mdfSp (g z a b r) : Encoded.Statement (.mdfSp g z a b r) :=
  encoded_of_fields rfl fun hw => by simp [decodeWord, decodeLong, decodeClass, decodeMMA, keep_some _ hw]

theorem Encoded.msmx (g z a b) : Encoded.Statement (.msmx g z a b) :=
  encoded_of_fields rfl fun hw => by simp [decodeWord, decodeLong, decodeClass, decodeMMA, keep_some _ hw]

theorem Encoded.mzero (g z) : Encoded.Statement (.mzero g z) :=
  encoded_of_fields rfl fun hw => by simp [decodeWord, decodeLong, decodeClass, decodeMMA, keep_some _ hw]

theorem Encoded.mld (g z a) : Encoded.Statement (.mld g z a) :=
  encoded_of_fields rfl fun hw => by simp [decodeWord, decodeLong, decodeClass, decodeMMA, keep_some _ hw]

theorem Encoded.mst (g z a r) : Encoded.Statement (.mst g z a r) :=
  encoded_of_fields rfl fun hw => by simp [decodeWord, decodeLong, decodeClass, decodeMMA, keep_some _ hw]

theorem Encoded.mside (g z a) : Encoded.Statement (.mside g z a) :=
  encoded_of_fields rfl fun hw => by simp [decodeWord, decodeLong, decodeClass, decodeMMA, keep_some _ hw]

theorem Encoded.gsr (g d i) : Encoded.Statement (.gsr g d i) :=
  encoded_of_fields rfl fun hw => by simp [decodeWord, decodeLong, decodeClass, decodeSYS, keep_some _ hw]

theorem Encoded.ssrGstat (g b) : Encoded.Statement (.ssrGstat g b) :=
  encoded_of_fields rfl fun hw => by simp [decodeWord, decodeLong, decodeClass, decodeSYS, keep_some _ hw]

theorem Encoded.ssrGc (g b) : Encoded.Statement (.ssrGc g b) :=
  encoded_of_fields rfl fun hw => by simp [decodeWord, decodeLong, decodeClass, decodeSYS, keep_some _ hw]

theorem Encoded.ssrFm (g b) : Encoded.Statement (.ssrFm g b) :=
  encoded_of_fields rfl fun hw => by simp [decodeWord, decodeLong, decodeClass, decodeSYS, keep_some _ hw]

theorem Encoded.ssrMst (g b) : Encoded.Statement (.ssrMst g b) :=
  encoded_of_fields rfl fun hw => by simp [decodeWord, decodeLong, decodeClass, decodeSYS, keep_some _ hw]

theorem Encoded.wid (g d k) : Encoded.Statement (.wid g d k) :=
  encoded_of_fields rfl fun hw => by simp [decodeWord, decodeLong, decodeClass, decodeSYS, keep_some _ hw]

theorem Encoded.topo (g d k) : Encoded.Statement (.topo g d k) :=
  encoded_of_fields rfl fun hw => by simp [decodeWord, decodeLong, decodeClass, decodeSYS, keep_some _ hw]

theorem Encoded.chk (g p a) : Encoded.Statement (.chk g p a) :=
  encoded_of_fields rfl fun hw => by simp [decodeWord, decodeLong, decodeClass, decodeSYS, keep_some _ hw]

theorem Encoded.idem (g) : Encoded.Statement (.idem g) :=
  encoded_of_fields rfl fun hw => by simp [decodeWord, decodeLong, decodeClass, decodeSYS, keep_some _ hw]

theorem Encoded.idemx (g) : Encoded.Statement (.idemx g) :=
  encoded_of_fields rfl fun hw => by simp [decodeWord, decodeLong, decodeClass, decodeSYS, keep_some _ hw]

theorem Encoded.brk (g h l) : Encoded.Statement (.brk g h l) :=
  encoded_of_fields rfl fun hw => by simp [decodeWord, decodeLong, decodeClass, decodeSYS, keep_some _ hw]

theorem Encoded.launch (g d a b) : Encoded.Statement (.launch g d a b) :=
  encoded_of_fields rfl fun hw => by simp [decodeWord, decodeLong, decodeClass, decodeSYS, keep_some _ hw]

theorem Encoded.evpost (g a) : Encoded.Statement (.evpost g a) :=
  encoded_of_fields rfl fun hw => by simp [decodeWord, decodeLong, decodeClass, decodeSYS, keep_some _ hw]

theorem Encoded.ldw (g d a b) : Encoded.Statement (.ldw g d a b) :=
  encoded_of_fields rfl fun hw => by simp [decodeWord, decodeLong, decodeClass, decodeSYS, keep_some _ hw]

theorem Encoded.lodge (g d a) : Encoded.Statement (.lodge g d a) :=
  encoded_of_fields rfl fun hw => by simp [decodeWord, decodeLong, decodeClass, decodeSYS, keep_some _ hw]

theorem Encoded.pfg (g a) : Encoded.Statement (.pfg g a) :=
  encoded_of_fields rfl fun hw => by simp [decodeWord, decodeLong, decodeClass, decodeSYS, keep_some _ hw]

theorem Encoded.lq (g d a b) : Encoded.Statement (.lq g d a b) :=
  encoded_of_fields rfl fun hw => by simp [decodeWord, decodeLong, decodeClass, decodeSYS, keep_some _ hw]

theorem Encoded.dzwRead (a) : Encoded.Statement (.dzwRead a) := encoded_of_none rfl

theorem Encoded.dzwWrite (a) : Encoded.Statement (.dzwWrite a) := encoded_of_none rfl

theorem Encoded.dzwAtomicAdd (a) : Encoded.Statement (.dzwAtomicAdd a) := encoded_of_none rfl

theorem Encoded.dzwCas (a) : Encoded.Statement (.dzwCas a) := encoded_of_none rfl

theorem Encoded.dzwCompletion (a) : Encoded.Statement (.dzwCompletion a) := encoded_of_none rfl

theorem Encoded.malformedMessage (a) : Encoded.Statement (.malformedMessage a) := encoded_of_none rfl

theorem Encoded.postWord (a) : Encoded.Statement (.postWord a) := encoded_of_none rfl

theorem Encoded.dzwAcknowledgement (a b) : Encoded.Statement (.dzwAcknowledgement a b) := encoded_of_none rfl

theorem Encoded.retransmission (a b) : Encoded.Statement (.retransmission a b) := encoded_of_none rfl

theorem Encoded.recoveryWindowExpiry (a b) : Encoded.Statement (.recoveryWindowExpiry a b) := encoded_of_none rfl

theorem Encoded.pauseFrame (a b) : Encoded.Statement (.pauseFrame a b) := encoded_of_none rfl

theorem Encoded.linkStateChange (a b) : Encoded.Statement (.linkStateChange a b) := encoded_of_none rfl

theorem Encoded.claim (a) : Encoded.Statement (.claim a) := encoded_of_none rfl

theorem Encoded.renew (a) : Encoded.Statement (.renew a) := encoded_of_none rfl

theorem Encoded.releaseOwnership (a) : Encoded.Statement (.releaseOwnership a) := encoded_of_none rfl

theorem Encoded.nameSuccessor (a) : Encoded.Statement (.nameSuccessor a) := encoded_of_none rfl

theorem Encoded.createContext (a) : Encoded.Statement (.createContext a) := encoded_of_none rfl

theorem Encoded.resetContext (a) : Encoded.Statement (.resetContext a) := encoded_of_none rfl

theorem Encoded.resumeContext (a) : Encoded.Statement (.resumeContext a) := encoded_of_none rfl

theorem Encoded.haltContext (a) : Encoded.Statement (.haltContext a) := encoded_of_none rfl

theorem Encoded.resumeGroup (a) : Encoded.Statement (.resumeGroup a) := encoded_of_none rfl

theorem Encoded.setShare (a) : Encoded.Statement (.setShare a) := encoded_of_none rfl

theorem Encoded.setWindow (a) : Encoded.Statement (.setWindow a) := encoded_of_none rfl

theorem Encoded.admitHost (a) : Encoded.Statement (.admitHost a) := encoded_of_none rfl

theorem Encoded.setQueue (a) : Encoded.Statement (.setQueue a) := encoded_of_none rfl

theorem Encoded.setRegion (a) : Encoded.Statement (.setRegion a) := encoded_of_none rfl

theorem Encoded.setPeer (a) : Encoded.Statement (.setPeer a) := encoded_of_none rfl

theorem Encoded.shootdown (a) : Encoded.Statement (.shootdown a) := encoded_of_none rfl

theorem Encoded.writePhysical (a) : Encoded.Statement (.writePhysical a) := encoded_of_none rfl

theorem Encoded.readPhysical (a) : Encoded.Statement (.readPhysical a) := encoded_of_none rfl

theorem Encoded.loadObject (a) : Encoded.Statement (.loadObject a) := encoded_of_none rfl

theorem Encoded.pageReply (a) : Encoded.Statement (.pageReply a) := encoded_of_none rfl

theorem Encoded.setWatchdog (a) : Encoded.Statement (.setWatchdog a) := encoded_of_none rfl

theorem Encoded.setRecoveryWindow (a) : Encoded.Statement (.setRecoveryWindow a) := encoded_of_none rfl

theorem Encoded.setPort (a) : Encoded.Statement (.setPort a) := encoded_of_none rfl

theorem Encoded.updateFirmware (a) : Encoded.Statement (.updateFirmware a) := encoded_of_none rfl

theorem Encoded.readState (a) : Encoded.Statement (.readState a) := encoded_of_none rfl

theorem Encoded.readViolations (a) : Encoded.Statement (.readViolations a) := encoded_of_none rfl

theorem Encoded.attest (a) : Encoded.Statement (.attest a) := encoded_of_none rfl

theorem Encoded.readEventLog (a) : Encoded.Statement (.readEventLog a) := encoded_of_none rfl

theorem Encoded.leaseLapse : Encoded.Statement .leaseLapse := encoded_of_none rfl

theorem Encoded.successorGraceExpiry : Encoded.Statement .successorGraceExpiry := encoded_of_none rfl

theorem Encoded.bringUp : Encoded.Statement .bringUp := encoded_of_none rfl

theorem Encoded.clockChange (a) : Encoded.Statement (.clockChange a) := encoded_of_none rfl

theorem Encoded.waybillTake (a b) : Encoded.Statement (.waybillTake a b) := encoded_of_none rfl

theorem Encoded.waybillReady (a) : Encoded.Statement (.waybillReady a) := encoded_of_none rfl

theorem Encoded.openLaunch (a) : Encoded.Statement (.openLaunch a) := encoded_of_none rfl

theorem Encoded.crewPlacement (a b) : Encoded.Statement (.crewPlacement a b) := encoded_of_none rfl

theorem Encoded.preemptionHalt (a) : Encoded.Statement (.preemptionHalt a) := encoded_of_none rfl

theorem Encoded.shadowSwap (a) : Encoded.Statement (.shadowSwap a) := encoded_of_none rfl

theorem Encoded.crewResume (a) : Encoded.Statement (.crewResume a) := encoded_of_none rfl

theorem Encoded.aggregatorBatchClose (a) : Encoded.Statement (.aggregatorBatchClose a) := encoded_of_none rfl

theorem Encoded.tollgatePhaseCompletion (a) : Encoded.Statement (.tollgatePhaseCompletion a) := encoded_of_none rfl

theorem Encoded.groupCompletion (a) : Encoded.Statement (.groupCompletion a) := encoded_of_none rfl

theorem Encoded.launchCompletion (a) : Encoded.Statement (.launchCompletion a) := encoded_of_none rfl

theorem Encoded.splitRotation (a b) : Encoded.Statement (.splitRotation a b) := encoded_of_none rfl

theorem Encoded.swapOut (a) : Encoded.Statement (.swapOut a) := encoded_of_none rfl

theorem Encoded.swapIn (a) : Encoded.Statement (.swapIn a) := encoded_of_none rfl

theorem Encoded.loadDataArrival (a b) : Encoded.Statement (.loadDataArrival a b) := encoded_of_none rfl

theorem Encoded.countHalving : Encoded.Statement .countHalving := encoded_of_none rfl

theorem Encoded.droverMove (a) : Encoded.Statement (.droverMove a) := encoded_of_none rfl

theorem Encoded.replicaInvalidation (a b c) : Encoded.Statement (.replicaInvalidation a b c) := encoded_of_none rfl

theorem Encoded.waferCacheEviction (a) : Encoded.Statement (.waferCacheEviction a) := encoded_of_none rfl

theorem Encoded.drainDemand (a b c d) : Encoded.Statement (.drainDemand a b c d) := encoded_of_none rfl

theorem Encoded.drainAcknowledgement (a b c d) : Encoded.Statement (.drainAcknowledgement a b c d) := encoded_of_none rfl

theorem Encoded.recall (a b) : Encoded.Statement (.recall a b) := encoded_of_none rfl

theorem Encoded.bankRetirement (a) : Encoded.Statement (.bankRetirement a) := encoded_of_none rfl

theorem Encoded.shareRequest (a b c d) : Encoded.Statement (.shareRequest a b c d) := encoded_of_none rfl

theorem Encoded.shareGrant (a b c d) : Encoded.Statement (.shareGrant a b c d) := encoded_of_none rfl

theorem Encoded.weirRun (a b c d e f) : Encoded.Statement (.weirRun a b c d e f) := encoded_of_none rfl

theorem Encoded.spillAcknowledgement (a b c) : Encoded.Statement (.spillAcknowledgement a b c) := encoded_of_none rfl

theorem Encoded.sluice (a b c) : Encoded.Statement (.sluice a b c) := encoded_of_none rfl

theorem Encoded.returnNotice (a b c) : Encoded.Statement (.returnNotice a b c) := encoded_of_none rfl

theorem Encoded.resumeNotice (a b c) : Encoded.Statement (.resumeNotice a b c) := encoded_of_none rfl

theorem Encoded.drainRequest (a b c d) : Encoded.Statement (.drainRequest a b c d) := encoded_of_none rfl

theorem Encoded.copyCommandExecute (a) : Encoded.Statement (.copyCommandExecute a) := encoded_of_none rfl

theorem Encoded.matrixOperationExecute (a) : Encoded.Statement (.matrixOperationExecute a) := encoded_of_none rfl

theorem Encoded.monitorWake (a b) : Encoded.Statement (.monitorWake a b) := encoded_of_none rfl

theorem Encoded.mwaitTimeout (a) : Encoded.Statement (.mwaitTimeout a) := encoded_of_none rfl

theorem Encoded.remoteWatchPoll (a) : Encoded.Statement (.remoteWatchPoll a) := encoded_of_none rfl

theorem Encoded.eventAckTimeout (a) : Encoded.Statement (.eventAckTimeout a) := encoded_of_none rfl

theorem Encoded.watchdogExpiry (a) : Encoded.Statement (.watchdogExpiry a) := encoded_of_none rfl

theorem Encoded.parkLimitExpiry (a) : Encoded.Statement (.parkLimitExpiry a) := encoded_of_none rfl

theorem Encoded.faultEventPost (a) : Encoded.Statement (.faultEventPost a) := encoded_of_none rfl

theorem Encoded.idempotentRestart (a) : Encoded.Statement (.idempotentRestart a) := encoded_of_none rfl

theorem Encoded.debugHaltSettled (a) : Encoded.Statement (.debugHaltSettled a) := encoded_of_none rfl

theorem Encoded.quiesceTokenReturn (a) : Encoded.Statement (.quiesceTokenReturn a) := encoded_of_none rfl

theorem Encoded.dressingPass (a) : Encoded.Statement (.dressingPass a) := encoded_of_none rfl

theorem Encoded.dressingResult (a b) : Encoded.Statement (.dressingResult a b) := encoded_of_none rfl

theorem Encoded.illegalEncoding (a) : Encoded.Statement (.illegalEncoding a) := encoded_of_none rfl

theorem Encoded.instructionFetchFault (a b c) : Encoded.Statement (.instructionFetchFault a b c) := encoded_of_none rfl

end Sys2Proof.Laws
end

