-- ==== Sys2Proof/Laws/Tables.lean ====
section
/-! SUPPORT. The laws of tables and byte memories: a read after a write, and the canonical form that every operation keeps. -/

namespace Sys2Proof.Machine

/-! ## Reading -/

variable {α : Type}

theorem tblGet?_tblSet_same (t : Tbl α) (k : Nat) (a : α) : tblGet? (tblSet t k a) k = some a := by
  induction t with
  | nil => simp [tblSet, tblGet?]
  | cons e r ih =>
    obtain ⟨i, b⟩ := e
    rw [tblSet]
    split
    · simp [tblGet?]
    · split
      · simp [tblGet?]
      · rw [tblGet?, if_neg ‹_›, ih]

theorem tblGet?_tblSet_other (t : Tbl α) {k j : Nat} (a : α) (h : j ≠ k) : tblGet? (tblSet t k a) j = tblGet? t j := by
  induction t with
  | nil => simp [tblSet, tblGet?, h]
  | cons e r ih =>
    obtain ⟨i, b⟩ := e
    rw [tblSet]
    split
    · rw [tblGet?, if_neg h]
    · split
      · rename_i _ hk
        subst hk
        simp only [tblGet?, if_neg h]
      · simp only [tblGet?, ih]

/-- A read after a write. -/
@[simp] theorem tblGet?_tblSet (t : Tbl α) (k j : Nat) (a : α) :
    tblGet? (tblSet t k a) j = if j = k then some a else tblGet? t j := by
  split
  · subst_vars; exact tblGet?_tblSet_same _ _ _
  · exact tblGet?_tblSet_other _ _ ‹_›

@[simp] theorem tblGet_tblSet (t : Tbl α) (k j : Nat) (a d : α) :
    tblGet (tblSet t k a) j d = if j = k then a else tblGet t j d := by
  simp only [tblGet, tblGet?_tblSet]
  split <;> rfl

@[simp] theorem tblGet?_tblMod (f : α → α) (t : Tbl α) (k j : Nat) :
    tblGet? (tblMod f t k) j = if j = k then (tblGet? t j).map f else tblGet? t j := by
  induction t with
  | nil => simp [tblMod, tblGet?]
  | cons e r ih =>
    obtain ⟨i, b⟩ := e
    rw [tblMod]
    split
    · rename_i hk
      subst hk
      simp only [tblGet?]
      split <;> rfl
    · rename_i hk
      simp only [tblGet?, ih]
      split
      · split
        · subst_vars; exact absurd rfl hk
        · rfl
      · rfl

@[simp] theorem tblGet?_tblErase (t : Tbl α) (k j : Nat) :
    tblGet? (tblErase t k) j = if j = k then none else tblGet? t j := by
  induction t with
  | nil => simp [tblErase, tblGet?]
  | cons e r ih =>
    obtain ⟨i, b⟩ := e
    rw [tblErase]
    split
    · rename_i hk
      subst hk
      rw [ih]
      split
      · rfl
      · rename_i hj
        rw [tblGet?, if_neg hj]
    · rename_i hk
      simp only [tblGet?, ih]
      split
      · split
        · subst_vars; exact absurd rfl hk
        · rfl
      · rfl

/-! ## The canonical form -/

theorem tblSortedFrom_mono (t : Tbl α) : ∀ {lo lo' : Nat}, lo' ≤ lo → tblSortedFrom lo t = true → tblSortedFrom lo' t = true := by
  cases t with
  | nil => intros; rfl
  | cons e r =>
    obtain ⟨i, a⟩ := e
    intro lo lo' h
    simp only [tblSortedFrom, Bool.and_eq_true, decide_eq_true_eq]
    exact fun ⟨h1, h2⟩ => ⟨by omega, h2⟩

theorem tblSortedFrom_tblSet (t : Tbl α) : ∀ (lo k : Nat) (a : α), tblSortedFrom lo t = true → lo ≤ k →
    tblSortedFrom lo (tblSet t k a) = true := by
  induction t with
  | nil => intro lo k a _ h; simp [tblSet, tblSortedFrom, h]
  | cons e r ih =>
    obtain ⟨i, b⟩ := e
    intro lo k a h hk
    simp only [tblSortedFrom, Bool.and_eq_true, decide_eq_true_eq] at h
    rw [tblSet]
    split
    · simp only [tblSortedFrom, Bool.and_eq_true, decide_eq_true_eq]
      exact ⟨hk, by omega, h.2⟩
    · split
      · rename_i _ hi
        subst hi
        simp only [tblSortedFrom, Bool.and_eq_true, decide_eq_true_eq]
        exact ⟨hk, h.2⟩
      · simp only [tblSortedFrom, Bool.and_eq_true, decide_eq_true_eq]
        exact ⟨h.1, ih _ _ _ h.2 (by omega)⟩

theorem tblSortedFrom_tblErase (t : Tbl α) : ∀ (lo k : Nat), tblSortedFrom lo t = true →
    tblSortedFrom lo (tblErase t k) = true := by
  induction t with
  | nil => intros; rfl
  | cons e r ih =>
    obtain ⟨i, b⟩ := e
    intro lo k h
    simp only [tblSortedFrom, Bool.and_eq_true, decide_eq_true_eq] at h
    rw [tblErase]
    split
    · exact tblSortedFrom_mono _ (by omega) (ih _ k h.2)
    · simp only [tblSortedFrom, Bool.and_eq_true, decide_eq_true_eq]
      exact ⟨h.1, ih _ _ h.2⟩

/-- Writing an entry keeps the form of a table. -/
theorem tblSorted_tblSet (t : Tbl α) (k : Nat) (a : α) (h : tblSorted t = true) : tblSorted (tblSet t k a) = true :=
  tblSortedFrom_tblSet t 0 k a h (Nat.zero_le k)

/-- Removing an entry keeps the form of a table. -/
theorem tblSorted_tblErase (t : Tbl α) (k : Nat) (h : tblSorted t = true) : tblSorted (tblErase t k) = true :=
  tblSortedFrom_tblErase t 0 k h

theorem tblSortedFrom_tblMod (f : α → α) (t : Tbl α) : ∀ (lo k : Nat), tblSortedFrom lo t = true →
    tblSortedFrom lo (tblMod f t k) = true := by
  induction t with
  | nil => intros; rfl
  | cons e r ih =>
    obtain ⟨i, b⟩ := e
    intro lo k h
    have h' := h
    simp only [tblSortedFrom, Bool.and_eq_true, decide_eq_true_eq] at h
    rw [tblMod]
    split
    · exact h'
    · simp only [tblSortedFrom, Bool.and_eq_true, decide_eq_true_eq]
      exact ⟨h.1, ih _ _ h.2⟩

/-- Changing an entry keeps the form of a table. -/
theorem tblSorted_tblMod (f : α → α) (t : Tbl α) (k : Nat) (h : tblSorted t = true) : tblSorted (tblMod f t k) = true :=
  tblSortedFrom_tblMod f t 0 k h

/-! ## Byte memories -/

/-- The entries of a memory other than a written one. -/
theorem mem_tblSet (t : Tbl α) (k : Nat) (a : α) : ∀ c ∈ tblSet t k a, c = (k, a) ∨ c ∈ t := by
  induction t with
  | nil => simp [tblSet]
  | cons e r ih =>
    obtain ⟨i, b⟩ := e
    intro c hc
    rw [tblSet] at hc
    split at hc
    · simpa using hc
    · split at hc
      · rcases List.mem_cons.mp hc with h | h <;> simp [h]
      · rcases List.mem_cons.mp hc with h | h
        · simp [h]
        · rcases ih c h with h | h <;> simp [h]

theorem mem_tblErase (t : Tbl α) (k : Nat) : ∀ c ∈ tblErase t k, c ∈ t := by
  induction t with
  | nil => simp [tblErase]
  | cons e r ih =>
    obtain ⟨i, b⟩ := e
    intro c hc
    rw [tblErase] at hc
    split at hc
    · exact List.mem_cons_of_mem _ (ih c hc)
    · rcases List.mem_cons.mp hc with h | h
      · simp [h]
      · exact List.mem_cons_of_mem _ (ih c h)

/-- A write keeps the canonical form of a memory. -/
theorem memWf_memWrite (m : Memory) (a : Nat) (v : Byte) (h : memWf m = true) : memWf (memWrite m a v) = true := by
  simp only [memWf, Bool.and_eq_true, List.all_eq_true, decide_eq_true_eq] at h ⊢
  rw [memWrite]
  split
  · exact ⟨tblSorted_tblErase _ _ h.1, fun c hc => h.2 c (mem_tblErase _ _ c hc)⟩
  · refine ⟨tblSorted_tblSet _ _ _ h.1, fun c hc => ?_⟩
    rcases mem_tblSet _ _ _ c hc with hc | hc
    · subst hc; assumption
    · exact h.2 c hc

/-- Writing bytes keeps the canonical form of a memory. -/
theorem memWf_memWriteBytes (l : List Byte) : ∀ (m : Memory) (a : Nat), memWf m = true → memWf (memWriteBytes m a l) = true := by
  induction l with
  | nil => intro m a h; exact h
  | cons b r ih => intro m a h; exact ih _ _ (memWf_memWrite m a b h)

/-- A byte after a write: the written byte at its address, every other byte as before. -/
theorem memRead_memWrite (m : Memory) (a b : Nat) (v : Byte) : memRead (memWrite m a v) b = if b = a then v else memRead m b := by
  simp only [memRead, memWrite]
  split
  · simp only [tblGet, tblGet?_tblErase]
    split
    · simp_all
    · rfl
  · rw [tblGet_tblSet]

/-- A byte outside the written bytes reads as before. -/
theorem memRead_memWriteBytes_other (l : List Byte) : ∀ (m : Memory) (a b : Nat), (b < a ∨ a + l.length ≤ b) →
    memRead (memWriteBytes m a l) b = memRead m b := by
  induction l with
  | nil => intros; rfl
  | cons x r ih =>
    intro m a b hb
    simp only [List.length_cons] at hb
    rw [memWriteBytes, ih _ _ _ (by omega), memRead_memWrite, if_neg (by omega)]

/-- A byte among the written bytes reads as written. -/
theorem memRead_memWriteBytes_same (l : List Byte) : ∀ (m : Memory) (a i : Nat), i < l.length →
    memRead (memWriteBytes m a l) (a + i) = l.getD i 0 := by
  induction l with
  | nil => intro m a i h; simp at h
  | cons x r ih =>
    intro m a i hi
    rw [memWriteBytes]
    cases i with
    | zero =>
      rw [memRead_memWriteBytes_other r _ _ _ (by omega), memRead_memWrite]
      simp
    | succ i =>
      simp only [List.length_cons] at hi
      have := ih (memWrite m a x) (a + 1) i (by omega)
      rw [show a + (i + 1) = a + 1 + i by omega, this]
      simp

end Sys2Proof.Machine
end

