-- ==== Sys2Proof/Laws/State.lean ====
section
/-! SUPPORT. What each named update of the state and of a group leaves as it was, field by field, and what it changes. -/

namespace Sys2Proof.Machine

/-! ## The updates of one table of the state -/

@[simp] theorem State.setGroup_part (s : State) (g : Nat) (x : Group) : (s.setGroup g x).part = s.part := rfl
@[simp] theorem State.setGroup_crews (s : State) (g : Nat) (x : Group) : (s.setGroup g x).crews = s.crews := rfl
@[simp] theorem State.setGroup_launches (s : State) (g : Nat) (x : Group) : (s.setGroup g x).launches = s.launches := rfl
@[simp] theorem State.setGroup_contexts (s : State) (g : Nat) (x : Group) : (s.setGroup g x).contexts = s.contexts := rfl
@[simp] theorem State.setGroup_cores (s : State) (g : Nat) (x : Group) : (s.setGroup g x).cores = s.cores := rfl
@[simp] theorem State.setGroup_renumbered (s : State) (g : Nat) (x : Group) : (s.setGroup g x).renumbered = s.renumbered := rfl
@[simp] theorem State.setGroup_usedSpares (s : State) (g : Nat) (x : Group) : (s.setGroup g x).usedSpares = s.usedSpares := rfl
@[simp] theorem State.setGroup_mem (s : State) (g : Nat) (x : Group) : (s.setGroup g x).mem = s.mem := rfl
@[simp] theorem State.setGroup_bad (s : State) (g : Nat) (x : Group) : (s.setGroup g x).bad = s.bad := rfl
@[simp] theorem State.setGroup_dir (s : State) (g : Nat) (x : Group) : (s.setGroup g x).dir = s.dir := rfl
@[simp] theorem State.setGroup_blocks (s : State) (g : Nat) (x : Group) : (s.setGroup g x).blocks = s.blocks := rfl
@[simp] theorem State.setGroup_replicas (s : State) (g : Nat) (x : Group) : (s.setGroup g x).replicas = s.replicas := rfl
@[simp] theorem State.setGroup_invals (s : State) (g : Nat) (x : Group) : (s.setGroup g x).invals = s.invals := rfl
@[simp] theorem State.setGroup_retired (s : State) (g : Nat) (x : Group) : (s.setGroup g x).retired = s.retired := rfl
@[simp] theorem State.setGroup_halvings (s : State) (g : Nat) (x : Group) : (s.setGroup g x).halvings = s.halvings := rfl
@[simp] theorem State.setGroup_trees (s : State) (g : Nat) (x : Group) : (s.setGroup g x).trees = s.trees := rfl
@[simp] theorem State.setGroup_credits (s : State) (g : Nat) (x : Group) : (s.setGroup g x).credits = s.credits := rfl
@[simp] theorem State.setGroup_lastServed (s : State) (g : Nat) (x : Group) : (s.setGroup g x).lastServed = s.lastServed := rfl
@[simp] theorem State.setGroup_lastQueue (s : State) (g : Nat) (x : Group) : (s.setGroup g x).lastQueue = s.lastQueue := rfl
@[simp] theorem State.setGroup_ports (s : State) (g : Nat) (x : Group) : (s.setGroup g x).ports = s.ports := rfl
@[simp] theorem State.setGroup_links (s : State) (g : Nat) (x : Group) : (s.setGroup g x).links = s.links := rfl
@[simp] theorem State.setGroup_outstanding (s : State) (g : Nat) (x : Group) : (s.setGroup g x).outstanding = s.outstanding := rfl
@[simp] theorem State.setGroup_unsent (s : State) (g : Nat) (x : Group) : (s.setGroup g x).unsent = s.unsent := rfl
@[simp] theorem State.setGroup_owed (s : State) (g : Nat) (x : Group) : (s.setGroup g x).owed = s.owed := rfl
@[simp] theorem State.setGroup_recoveryWindow (s : State) (g : Nat) (x : Group) : (s.setGroup g x).recoveryWindow = s.recoveryWindow := rfl
@[simp] theorem State.setGroup_owner (s : State) (g : Nat) (x : Group) : (s.setGroup g x).owner = s.owner := rfl
@[simp] theorem State.setGroup_successor (s : State) (g : Nat) (x : Group) : (s.setGroup g x).successor = s.successor := rfl
@[simp] theorem State.setGroup_broughtUp (s : State) (g : Nat) (x : Group) : (s.setGroup g x).broughtUp = s.broughtUp := rfl
@[simp] theorem State.setGroup_firmware (s : State) (g : Nat) (x : Group) : (s.setGroup g x).firmware = s.firmware := rfl
@[simp] theorem State.setGroup_mhz (s : State) (g : Nat) (x : Group) : (s.setGroup g x).mhz = s.mhz := rfl
@[simp] theorem State.setGroup_clock (s : State) (g : Nat) (x : Group) : (s.setGroup g x).clock = s.clock := rfl
@[simp] theorem State.setGroup_mesh (s : State) (g : Nat) (x : Group) : (s.setGroup g x).mesh = s.mesh := rfl
@[simp] theorem State.setGroup_dressNext (s : State) (g : Nat) (x : Group) : (s.setGroup g x).dressNext = s.dressNext := rfl
@[simp] theorem State.setGroup_skipped (s : State) (g : Nat) (x : Group) : (s.setGroup g x).skipped = s.skipped := rfl
@[simp] theorem State.setGroup_overrides (s : State) (g : Nat) (x : Group) : (s.setGroup g x).overrides = s.overrides := rfl
@[simp] theorem State.setGroup_inbox (s : State) (g : Nat) (x : Group) : (s.setGroup g x).inbox = s.inbox := rfl
@[simp] theorem State.setGroup_outbox (s : State) (g : Nat) (x : Group) : (s.setGroup g x).outbox = s.outbox := rfl
@[simp] theorem State.setGroup_cur (s : State) (g : Nat) (x : Group) : (s.setGroup g x).cur = s.cur := rfl
@[simp] theorem State.setGroup_agenda (s : State) (g : Nat) (x : Group) : (s.setGroup g x).agenda = s.agenda := rfl
@[simp] theorem State.setGroup_turns (s : State) (g : Nat) (x : Group) : (s.setGroup g x).turns = s.turns := rfl
@[simp] theorem State.setGroup_tick (s : State) (g : Nat) (x : Group) : (s.setGroup g x).tick = s.tick := rfl
@[simp] theorem State.setGroup_nextGroup (s : State) (g : Nat) (x : Group) : (s.setGroup g x).nextGroup = s.nextGroup := rfl
@[simp] theorem State.setGroup_nextCrew (s : State) (g : Nat) (x : Group) : (s.setGroup g x).nextCrew = s.nextCrew := rfl
@[simp] theorem State.setGroup_nextTag (s : State) (g : Nat) (x : Group) : (s.setGroup g x).nextTag = s.nextTag := rfl
@[simp] theorem State.setGroup_nextOrder (s : State) (g : Nat) (x : Group) : (s.setGroup g x).nextOrder = s.nextOrder := rfl
@[simp] theorem State.setGroup_lastCore (s : State) (g : Nat) (x : Group) : (s.setGroup g x).lastCore = s.lastCore := rfl

@[simp] theorem State.modGroup_part (s : State) (g : Nat) (f : Group → Group) : (s.modGroup g f).part = s.part := rfl
@[simp] theorem State.modGroup_crews (s : State) (g : Nat) (f : Group → Group) : (s.modGroup g f).crews = s.crews := rfl
@[simp] theorem State.modGroup_launches (s : State) (g : Nat) (f : Group → Group) : (s.modGroup g f).launches = s.launches := rfl
@[simp] theorem State.modGroup_contexts (s : State) (g : Nat) (f : Group → Group) : (s.modGroup g f).contexts = s.contexts := rfl
@[simp] theorem State.modGroup_cores (s : State) (g : Nat) (f : Group → Group) : (s.modGroup g f).cores = s.cores := rfl
@[simp] theorem State.modGroup_renumbered (s : State) (g : Nat) (f : Group → Group) : (s.modGroup g f).renumbered = s.renumbered := rfl
@[simp] theorem State.modGroup_usedSpares (s : State) (g : Nat) (f : Group → Group) : (s.modGroup g f).usedSpares = s.usedSpares := rfl
@[simp] theorem State.modGroup_mem (s : State) (g : Nat) (f : Group → Group) : (s.modGroup g f).mem = s.mem := rfl
@[simp] theorem State.modGroup_bad (s : State) (g : Nat) (f : Group → Group) : (s.modGroup g f).bad = s.bad := rfl
@[simp] theorem State.modGroup_dir (s : State) (g : Nat) (f : Group → Group) : (s.modGroup g f).dir = s.dir := rfl
@[simp] theorem State.modGroup_blocks (s : State) (g : Nat) (f : Group → Group) : (s.modGroup g f).blocks = s.blocks := rfl
@[simp] theorem State.modGroup_replicas (s : State) (g : Nat) (f : Group → Group) : (s.modGroup g f).replicas = s.replicas := rfl
@[simp] theorem State.modGroup_invals (s : State) (g : Nat) (f : Group → Group) : (s.modGroup g f).invals = s.invals := rfl
@[simp] theorem State.modGroup_retired (s : State) (g : Nat) (f : Group → Group) : (s.modGroup g f).retired = s.retired := rfl
@[simp] theorem State.modGroup_halvings (s : State) (g : Nat) (f : Group → Group) : (s.modGroup g f).halvings = s.halvings := rfl
@[simp] theorem State.modGroup_trees (s : State) (g : Nat) (f : Group → Group) : (s.modGroup g f).trees = s.trees := rfl
@[simp] theorem State.modGroup_credits (s : State) (g : Nat) (f : Group → Group) : (s.modGroup g f).credits = s.credits := rfl
@[simp] theorem State.modGroup_lastServed (s : State) (g : Nat) (f : Group → Group) : (s.modGroup g f).lastServed = s.lastServed := rfl
@[simp] theorem State.modGroup_lastQueue (s : State) (g : Nat) (f : Group → Group) : (s.modGroup g f).lastQueue = s.lastQueue := rfl
@[simp] theorem State.modGroup_ports (s : State) (g : Nat) (f : Group → Group) : (s.modGroup g f).ports = s.ports := rfl
@[simp] theorem State.modGroup_links (s : State) (g : Nat) (f : Group → Group) : (s.modGroup g f).links = s.links := rfl
@[simp] theorem State.modGroup_outstanding (s : State) (g : Nat) (f : Group → Group) : (s.modGroup g f).outstanding = s.outstanding := rfl
@[simp] theorem State.modGroup_unsent (s : State) (g : Nat) (f : Group → Group) : (s.modGroup g f).unsent = s.unsent := rfl
@[simp] theorem State.modGroup_owed (s : State) (g : Nat) (f : Group → Group) : (s.modGroup g f).owed = s.owed := rfl
@[simp] theorem State.modGroup_recoveryWindow (s : State) (g : Nat) (f : Group → Group) : (s.modGroup g f).recoveryWindow = s.recoveryWindow := rfl
@[simp] theorem State.modGroup_owner (s : State) (g : Nat) (f : Group → Group) : (s.modGroup g f).owner = s.owner := rfl
@[simp] theorem State.modGroup_successor (s : State) (g : Nat) (f : Group → Group) : (s.modGroup g f).successor = s.successor := rfl
@[simp] theorem State.modGroup_broughtUp (s : State) (g : Nat) (f : Group → Group) : (s.modGroup g f).broughtUp = s.broughtUp := rfl
@[simp] theorem State.modGroup_firmware (s : State) (g : Nat) (f : Group → Group) : (s.modGroup g f).firmware = s.firmware := rfl
@[simp] theorem State.modGroup_mhz (s : State) (g : Nat) (f : Group → Group) : (s.modGroup g f).mhz = s.mhz := rfl
@[simp] theorem State.modGroup_clock (s : State) (g : Nat) (f : Group → Group) : (s.modGroup g f).clock = s.clock := rfl
@[simp] theorem State.modGroup_mesh (s : State) (g : Nat) (f : Group → Group) : (s.modGroup g f).mesh = s.mesh := rfl
@[simp] theorem State.modGroup_dressNext (s : State) (g : Nat) (f : Group → Group) : (s.modGroup g f).dressNext = s.dressNext := rfl
@[simp] theorem State.modGroup_skipped (s : State) (g : Nat) (f : Group → Group) : (s.modGroup g f).skipped = s.skipped := rfl
@[simp] theorem State.modGroup_overrides (s : State) (g : Nat) (f : Group → Group) : (s.modGroup g f).overrides = s.overrides := rfl
@[simp] theorem State.modGroup_inbox (s : State) (g : Nat) (f : Group → Group) : (s.modGroup g f).inbox = s.inbox := rfl
@[simp] theorem State.modGroup_outbox (s : State) (g : Nat) (f : Group → Group) : (s.modGroup g f).outbox = s.outbox := rfl
@[simp] theorem State.modGroup_cur (s : State) (g : Nat) (f : Group → Group) : (s.modGroup g f).cur = s.cur := rfl
@[simp] theorem State.modGroup_agenda (s : State) (g : Nat) (f : Group → Group) : (s.modGroup g f).agenda = s.agenda := rfl
@[simp] theorem State.modGroup_turns (s : State) (g : Nat) (f : Group → Group) : (s.modGroup g f).turns = s.turns := rfl
@[simp] theorem State.modGroup_tick (s : State) (g : Nat) (f : Group → Group) : (s.modGroup g f).tick = s.tick := rfl
@[simp] theorem State.modGroup_nextGroup (s : State) (g : Nat) (f : Group → Group) : (s.modGroup g f).nextGroup = s.nextGroup := rfl
@[simp] theorem State.modGroup_nextCrew (s : State) (g : Nat) (f : Group → Group) : (s.modGroup g f).nextCrew = s.nextCrew := rfl
@[simp] theorem State.modGroup_nextTag (s : State) (g : Nat) (f : Group → Group) : (s.modGroup g f).nextTag = s.nextTag := rfl
@[simp] theorem State.modGroup_nextOrder (s : State) (g : Nat) (f : Group → Group) : (s.modGroup g f).nextOrder = s.nextOrder := rfl
@[simp] theorem State.modGroup_lastCore (s : State) (g : Nat) (f : Group → Group) : (s.modGroup g f).lastCore = s.lastCore := rfl

@[simp] theorem State.setCrew_part (s : State) (c : Nat) (x : Crew) : (s.setCrew c x).part = s.part := rfl
@[simp] theorem State.setCrew_groups (s : State) (c : Nat) (x : Crew) : (s.setCrew c x).groups = s.groups := rfl
@[simp] theorem State.setCrew_launches (s : State) (c : Nat) (x : Crew) : (s.setCrew c x).launches = s.launches := rfl
@[simp] theorem State.setCrew_contexts (s : State) (c : Nat) (x : Crew) : (s.setCrew c x).contexts = s.contexts := rfl
@[simp] theorem State.setCrew_cores (s : State) (c : Nat) (x : Crew) : (s.setCrew c x).cores = s.cores := rfl
@[simp] theorem State.setCrew_renumbered (s : State) (c : Nat) (x : Crew) : (s.setCrew c x).renumbered = s.renumbered := rfl
@[simp] theorem State.setCrew_usedSpares (s : State) (c : Nat) (x : Crew) : (s.setCrew c x).usedSpares = s.usedSpares := rfl
@[simp] theorem State.setCrew_mem (s : State) (c : Nat) (x : Crew) : (s.setCrew c x).mem = s.mem := rfl
@[simp] theorem State.setCrew_bad (s : State) (c : Nat) (x : Crew) : (s.setCrew c x).bad = s.bad := rfl
@[simp] theorem State.setCrew_dir (s : State) (c : Nat) (x : Crew) : (s.setCrew c x).dir = s.dir := rfl
@[simp] theorem State.setCrew_blocks (s : State) (c : Nat) (x : Crew) : (s.setCrew c x).blocks = s.blocks := rfl
@[simp] theorem State.setCrew_replicas (s : State) (c : Nat) (x : Crew) : (s.setCrew c x).replicas = s.replicas := rfl
@[simp] theorem State.setCrew_invals (s : State) (c : Nat) (x : Crew) : (s.setCrew c x).invals = s.invals := rfl
@[simp] theorem State.setCrew_retired (s : State) (c : Nat) (x : Crew) : (s.setCrew c x).retired = s.retired := rfl
@[simp] theorem State.setCrew_halvings (s : State) (c : Nat) (x : Crew) : (s.setCrew c x).halvings = s.halvings := rfl
@[simp] theorem State.setCrew_trees (s : State) (c : Nat) (x : Crew) : (s.setCrew c x).trees = s.trees := rfl
@[simp] theorem State.setCrew_credits (s : State) (c : Nat) (x : Crew) : (s.setCrew c x).credits = s.credits := rfl
@[simp] theorem State.setCrew_lastServed (s : State) (c : Nat) (x : Crew) : (s.setCrew c x).lastServed = s.lastServed := rfl
@[simp] theorem State.setCrew_lastQueue (s : State) (c : Nat) (x : Crew) : (s.setCrew c x).lastQueue = s.lastQueue := rfl
@[simp] theorem State.setCrew_ports (s : State) (c : Nat) (x : Crew) : (s.setCrew c x).ports = s.ports := rfl
@[simp] theorem State.setCrew_links (s : State) (c : Nat) (x : Crew) : (s.setCrew c x).links = s.links := rfl
@[simp] theorem State.setCrew_outstanding (s : State) (c : Nat) (x : Crew) : (s.setCrew c x).outstanding = s.outstanding := rfl
@[simp] theorem State.setCrew_unsent (s : State) (c : Nat) (x : Crew) : (s.setCrew c x).unsent = s.unsent := rfl
@[simp] theorem State.setCrew_owed (s : State) (c : Nat) (x : Crew) : (s.setCrew c x).owed = s.owed := rfl
@[simp] theorem State.setCrew_recoveryWindow (s : State) (c : Nat) (x : Crew) : (s.setCrew c x).recoveryWindow = s.recoveryWindow := rfl
@[simp] theorem State.setCrew_owner (s : State) (c : Nat) (x : Crew) : (s.setCrew c x).owner = s.owner := rfl
@[simp] theorem State.setCrew_successor (s : State) (c : Nat) (x : Crew) : (s.setCrew c x).successor = s.successor := rfl
@[simp] theorem State.setCrew_broughtUp (s : State) (c : Nat) (x : Crew) : (s.setCrew c x).broughtUp = s.broughtUp := rfl
@[simp] theorem State.setCrew_firmware (s : State) (c : Nat) (x : Crew) : (s.setCrew c x).firmware = s.firmware := rfl
@[simp] theorem State.setCrew_mhz (s : State) (c : Nat) (x : Crew) : (s.setCrew c x).mhz = s.mhz := rfl
@[simp] theorem State.setCrew_clock (s : State) (c : Nat) (x : Crew) : (s.setCrew c x).clock = s.clock := rfl
@[simp] theorem State.setCrew_mesh (s : State) (c : Nat) (x : Crew) : (s.setCrew c x).mesh = s.mesh := rfl
@[simp] theorem State.setCrew_dressNext (s : State) (c : Nat) (x : Crew) : (s.setCrew c x).dressNext = s.dressNext := rfl
@[simp] theorem State.setCrew_skipped (s : State) (c : Nat) (x : Crew) : (s.setCrew c x).skipped = s.skipped := rfl
@[simp] theorem State.setCrew_overrides (s : State) (c : Nat) (x : Crew) : (s.setCrew c x).overrides = s.overrides := rfl
@[simp] theorem State.setCrew_inbox (s : State) (c : Nat) (x : Crew) : (s.setCrew c x).inbox = s.inbox := rfl
@[simp] theorem State.setCrew_outbox (s : State) (c : Nat) (x : Crew) : (s.setCrew c x).outbox = s.outbox := rfl
@[simp] theorem State.setCrew_cur (s : State) (c : Nat) (x : Crew) : (s.setCrew c x).cur = s.cur := rfl
@[simp] theorem State.setCrew_agenda (s : State) (c : Nat) (x : Crew) : (s.setCrew c x).agenda = s.agenda := rfl
@[simp] theorem State.setCrew_turns (s : State) (c : Nat) (x : Crew) : (s.setCrew c x).turns = s.turns := rfl
@[simp] theorem State.setCrew_tick (s : State) (c : Nat) (x : Crew) : (s.setCrew c x).tick = s.tick := rfl
@[simp] theorem State.setCrew_nextGroup (s : State) (c : Nat) (x : Crew) : (s.setCrew c x).nextGroup = s.nextGroup := rfl
@[simp] theorem State.setCrew_nextCrew (s : State) (c : Nat) (x : Crew) : (s.setCrew c x).nextCrew = s.nextCrew := rfl
@[simp] theorem State.setCrew_nextTag (s : State) (c : Nat) (x : Crew) : (s.setCrew c x).nextTag = s.nextTag := rfl
@[simp] theorem State.setCrew_nextOrder (s : State) (c : Nat) (x : Crew) : (s.setCrew c x).nextOrder = s.nextOrder := rfl
@[simp] theorem State.setCrew_lastCore (s : State) (c : Nat) (x : Crew) : (s.setCrew c x).lastCore = s.lastCore := rfl

@[simp] theorem State.modCrew_part (s : State) (c : Nat) (f : Crew → Crew) : (s.modCrew c f).part = s.part := rfl
@[simp] theorem State.modCrew_groups (s : State) (c : Nat) (f : Crew → Crew) : (s.modCrew c f).groups = s.groups := rfl
@[simp] theorem State.modCrew_launches (s : State) (c : Nat) (f : Crew → Crew) : (s.modCrew c f).launches = s.launches := rfl
@[simp] theorem State.modCrew_contexts (s : State) (c : Nat) (f : Crew → Crew) : (s.modCrew c f).contexts = s.contexts := rfl
@[simp] theorem State.modCrew_cores (s : State) (c : Nat) (f : Crew → Crew) : (s.modCrew c f).cores = s.cores := rfl
@[simp] theorem State.modCrew_renumbered (s : State) (c : Nat) (f : Crew → Crew) : (s.modCrew c f).renumbered = s.renumbered := rfl
@[simp] theorem State.modCrew_usedSpares (s : State) (c : Nat) (f : Crew → Crew) : (s.modCrew c f).usedSpares = s.usedSpares := rfl
@[simp] theorem State.modCrew_mem (s : State) (c : Nat) (f : Crew → Crew) : (s.modCrew c f).mem = s.mem := rfl
@[simp] theorem State.modCrew_bad (s : State) (c : Nat) (f : Crew → Crew) : (s.modCrew c f).bad = s.bad := rfl
@[simp] theorem State.modCrew_dir (s : State) (c : Nat) (f : Crew → Crew) : (s.modCrew c f).dir = s.dir := rfl
@[simp] theorem State.modCrew_blocks (s : State) (c : Nat) (f : Crew → Crew) : (s.modCrew c f).blocks = s.blocks := rfl
@[simp] theorem State.modCrew_replicas (s : State) (c : Nat) (f : Crew → Crew) : (s.modCrew c f).replicas = s.replicas := rfl
@[simp] theorem State.modCrew_invals (s : State) (c : Nat) (f : Crew → Crew) : (s.modCrew c f).invals = s.invals := rfl
@[simp] theorem State.modCrew_retired (s : State) (c : Nat) (f : Crew → Crew) : (s.modCrew c f).retired = s.retired := rfl
@[simp] theorem State.modCrew_halvings (s : State) (c : Nat) (f : Crew → Crew) : (s.modCrew c f).halvings = s.halvings := rfl
@[simp] theorem State.modCrew_trees (s : State) (c : Nat) (f : Crew → Crew) : (s.modCrew c f).trees = s.trees := rfl
@[simp] theorem State.modCrew_credits (s : State) (c : Nat) (f : Crew → Crew) : (s.modCrew c f).credits = s.credits := rfl
@[simp] theorem State.modCrew_lastServed (s : State) (c : Nat) (f : Crew → Crew) : (s.modCrew c f).lastServed = s.lastServed := rfl
@[simp] theorem State.modCrew_lastQueue (s : State) (c : Nat) (f : Crew → Crew) : (s.modCrew c f).lastQueue = s.lastQueue := rfl
@[simp] theorem State.modCrew_ports (s : State) (c : Nat) (f : Crew → Crew) : (s.modCrew c f).ports = s.ports := rfl
@[simp] theorem State.modCrew_links (s : State) (c : Nat) (f : Crew → Crew) : (s.modCrew c f).links = s.links := rfl
@[simp] theorem State.modCrew_outstanding (s : State) (c : Nat) (f : Crew → Crew) : (s.modCrew c f).outstanding = s.outstanding := rfl
@[simp] theorem State.modCrew_unsent (s : State) (c : Nat) (f : Crew → Crew) : (s.modCrew c f).unsent = s.unsent := rfl
@[simp] theorem State.modCrew_owed (s : State) (c : Nat) (f : Crew → Crew) : (s.modCrew c f).owed = s.owed := rfl
@[simp] theorem State.modCrew_recoveryWindow (s : State) (c : Nat) (f : Crew → Crew) : (s.modCrew c f).recoveryWindow = s.recoveryWindow := rfl
@[simp] theorem State.modCrew_owner (s : State) (c : Nat) (f : Crew → Crew) : (s.modCrew c f).owner = s.owner := rfl
@[simp] theorem State.modCrew_successor (s : State) (c : Nat) (f : Crew → Crew) : (s.modCrew c f).successor = s.successor := rfl
@[simp] theorem State.modCrew_broughtUp (s : State) (c : Nat) (f : Crew → Crew) : (s.modCrew c f).broughtUp = s.broughtUp := rfl
@[simp] theorem State.modCrew_firmware (s : State) (c : Nat) (f : Crew → Crew) : (s.modCrew c f).firmware = s.firmware := rfl
@[simp] theorem State.modCrew_mhz (s : State) (c : Nat) (f : Crew → Crew) : (s.modCrew c f).mhz = s.mhz := rfl
@[simp] theorem State.modCrew_clock (s : State) (c : Nat) (f : Crew → Crew) : (s.modCrew c f).clock = s.clock := rfl
@[simp] theorem State.modCrew_mesh (s : State) (c : Nat) (f : Crew → Crew) : (s.modCrew c f).mesh = s.mesh := rfl
@[simp] theorem State.modCrew_dressNext (s : State) (c : Nat) (f : Crew → Crew) : (s.modCrew c f).dressNext = s.dressNext := rfl
@[simp] theorem State.modCrew_skipped (s : State) (c : Nat) (f : Crew → Crew) : (s.modCrew c f).skipped = s.skipped := rfl
@[simp] theorem State.modCrew_overrides (s : State) (c : Nat) (f : Crew → Crew) : (s.modCrew c f).overrides = s.overrides := rfl
@[simp] theorem State.modCrew_inbox (s : State) (c : Nat) (f : Crew → Crew) : (s.modCrew c f).inbox = s.inbox := rfl
@[simp] theorem State.modCrew_outbox (s : State) (c : Nat) (f : Crew → Crew) : (s.modCrew c f).outbox = s.outbox := rfl
@[simp] theorem State.modCrew_cur (s : State) (c : Nat) (f : Crew → Crew) : (s.modCrew c f).cur = s.cur := rfl
@[simp] theorem State.modCrew_agenda (s : State) (c : Nat) (f : Crew → Crew) : (s.modCrew c f).agenda = s.agenda := rfl
@[simp] theorem State.modCrew_turns (s : State) (c : Nat) (f : Crew → Crew) : (s.modCrew c f).turns = s.turns := rfl
@[simp] theorem State.modCrew_tick (s : State) (c : Nat) (f : Crew → Crew) : (s.modCrew c f).tick = s.tick := rfl
@[simp] theorem State.modCrew_nextGroup (s : State) (c : Nat) (f : Crew → Crew) : (s.modCrew c f).nextGroup = s.nextGroup := rfl
@[simp] theorem State.modCrew_nextCrew (s : State) (c : Nat) (f : Crew → Crew) : (s.modCrew c f).nextCrew = s.nextCrew := rfl
@[simp] theorem State.modCrew_nextTag (s : State) (c : Nat) (f : Crew → Crew) : (s.modCrew c f).nextTag = s.nextTag := rfl
@[simp] theorem State.modCrew_nextOrder (s : State) (c : Nat) (f : Crew → Crew) : (s.modCrew c f).nextOrder = s.nextOrder := rfl
@[simp] theorem State.modCrew_lastCore (s : State) (c : Nat) (f : Crew → Crew) : (s.modCrew c f).lastCore = s.lastCore := rfl

@[simp] theorem State.setLaunch_part (s : State) (l : Nat) (x : Launch) : (s.setLaunch l x).part = s.part := rfl
@[simp] theorem State.setLaunch_groups (s : State) (l : Nat) (x : Launch) : (s.setLaunch l x).groups = s.groups := rfl
@[simp] theorem State.setLaunch_crews (s : State) (l : Nat) (x : Launch) : (s.setLaunch l x).crews = s.crews := rfl
@[simp] theorem State.setLaunch_contexts (s : State) (l : Nat) (x : Launch) : (s.setLaunch l x).contexts = s.contexts := rfl
@[simp] theorem State.setLaunch_cores (s : State) (l : Nat) (x : Launch) : (s.setLaunch l x).cores = s.cores := rfl
@[simp] theorem State.setLaunch_renumbered (s : State) (l : Nat) (x : Launch) : (s.setLaunch l x).renumbered = s.renumbered := rfl
@[simp] theorem State.setLaunch_usedSpares (s : State) (l : Nat) (x : Launch) : (s.setLaunch l x).usedSpares = s.usedSpares := rfl
@[simp] theorem State.setLaunch_mem (s : State) (l : Nat) (x : Launch) : (s.setLaunch l x).mem = s.mem := rfl
@[simp] theorem State.setLaunch_bad (s : State) (l : Nat) (x : Launch) : (s.setLaunch l x).bad = s.bad := rfl
@[simp] theorem State.setLaunch_dir (s : State) (l : Nat) (x : Launch) : (s.setLaunch l x).dir = s.dir := rfl
@[simp] theorem State.setLaunch_blocks (s : State) (l : Nat) (x : Launch) : (s.setLaunch l x).blocks = s.blocks := rfl
@[simp] theorem State.setLaunch_replicas (s : State) (l : Nat) (x : Launch) : (s.setLaunch l x).replicas = s.replicas := rfl
@[simp] theorem State.setLaunch_invals (s : State) (l : Nat) (x : Launch) : (s.setLaunch l x).invals = s.invals := rfl
@[simp] theorem State.setLaunch_retired (s : State) (l : Nat) (x : Launch) : (s.setLaunch l x).retired = s.retired := rfl
@[simp] theorem State.setLaunch_halvings (s : State) (l : Nat) (x : Launch) : (s.setLaunch l x).halvings = s.halvings := rfl
@[simp] theorem State.setLaunch_trees (s : State) (l : Nat) (x : Launch) : (s.setLaunch l x).trees = s.trees := rfl
@[simp] theorem State.setLaunch_credits (s : State) (l : Nat) (x : Launch) : (s.setLaunch l x).credits = s.credits := rfl
@[simp] theorem State.setLaunch_lastServed (s : State) (l : Nat) (x : Launch) : (s.setLaunch l x).lastServed = s.lastServed := rfl
@[simp] theorem State.setLaunch_lastQueue (s : State) (l : Nat) (x : Launch) : (s.setLaunch l x).lastQueue = s.lastQueue := rfl
@[simp] theorem State.setLaunch_ports (s : State) (l : Nat) (x : Launch) : (s.setLaunch l x).ports = s.ports := rfl
@[simp] theorem State.setLaunch_links (s : State) (l : Nat) (x : Launch) : (s.setLaunch l x).links = s.links := rfl
@[simp] theorem State.setLaunch_outstanding (s : State) (l : Nat) (x : Launch) : (s.setLaunch l x).outstanding = s.outstanding := rfl
@[simp] theorem State.setLaunch_unsent (s : State) (l : Nat) (x : Launch) : (s.setLaunch l x).unsent = s.unsent := rfl
@[simp] theorem State.setLaunch_owed (s : State) (l : Nat) (x : Launch) : (s.setLaunch l x).owed = s.owed := rfl
@[simp] theorem State.setLaunch_recoveryWindow (s : State) (l : Nat) (x : Launch) : (s.setLaunch l x).recoveryWindow = s.recoveryWindow := rfl
@[simp] theorem State.setLaunch_owner (s : State) (l : Nat) (x : Launch) : (s.setLaunch l x).owner = s.owner := rfl
@[simp] theorem State.setLaunch_successor (s : State) (l : Nat) (x : Launch) : (s.setLaunch l x).successor = s.successor := rfl
@[simp] theorem State.setLaunch_broughtUp (s : State) (l : Nat) (x : Launch) : (s.setLaunch l x).broughtUp = s.broughtUp := rfl
@[simp] theorem State.setLaunch_firmware (s : State) (l : Nat) (x : Launch) : (s.setLaunch l x).firmware = s.firmware := rfl
@[simp] theorem State.setLaunch_mhz (s : State) (l : Nat) (x : Launch) : (s.setLaunch l x).mhz = s.mhz := rfl
@[simp] theorem State.setLaunch_clock (s : State) (l : Nat) (x : Launch) : (s.setLaunch l x).clock = s.clock := rfl
@[simp] theorem State.setLaunch_mesh (s : State) (l : Nat) (x : Launch) : (s.setLaunch l x).mesh = s.mesh := rfl
@[simp] theorem State.setLaunch_dressNext (s : State) (l : Nat) (x : Launch) : (s.setLaunch l x).dressNext = s.dressNext := rfl
@[simp] theorem State.setLaunch_skipped (s : State) (l : Nat) (x : Launch) : (s.setLaunch l x).skipped = s.skipped := rfl
@[simp] theorem State.setLaunch_overrides (s : State) (l : Nat) (x : Launch) : (s.setLaunch l x).overrides = s.overrides := rfl
@[simp] theorem State.setLaunch_inbox (s : State) (l : Nat) (x : Launch) : (s.setLaunch l x).inbox = s.inbox := rfl
@[simp] theorem State.setLaunch_outbox (s : State) (l : Nat) (x : Launch) : (s.setLaunch l x).outbox = s.outbox := rfl
@[simp] theorem State.setLaunch_cur (s : State) (l : Nat) (x : Launch) : (s.setLaunch l x).cur = s.cur := rfl
@[simp] theorem State.setLaunch_agenda (s : State) (l : Nat) (x : Launch) : (s.setLaunch l x).agenda = s.agenda := rfl
@[simp] theorem State.setLaunch_turns (s : State) (l : Nat) (x : Launch) : (s.setLaunch l x).turns = s.turns := rfl
@[simp] theorem State.setLaunch_tick (s : State) (l : Nat) (x : Launch) : (s.setLaunch l x).tick = s.tick := rfl
@[simp] theorem State.setLaunch_nextGroup (s : State) (l : Nat) (x : Launch) : (s.setLaunch l x).nextGroup = s.nextGroup := rfl
@[simp] theorem State.setLaunch_nextCrew (s : State) (l : Nat) (x : Launch) : (s.setLaunch l x).nextCrew = s.nextCrew := rfl
@[simp] theorem State.setLaunch_nextTag (s : State) (l : Nat) (x : Launch) : (s.setLaunch l x).nextTag = s.nextTag := rfl
@[simp] theorem State.setLaunch_nextOrder (s : State) (l : Nat) (x : Launch) : (s.setLaunch l x).nextOrder = s.nextOrder := rfl
@[simp] theorem State.setLaunch_lastCore (s : State) (l : Nat) (x : Launch) : (s.setLaunch l x).lastCore = s.lastCore := rfl

@[simp] theorem State.modLaunch_part (s : State) (l : Nat) (f : Launch → Launch) : (s.modLaunch l f).part = s.part := rfl
@[simp] theorem State.modLaunch_groups (s : State) (l : Nat) (f : Launch → Launch) : (s.modLaunch l f).groups = s.groups := rfl
@[simp] theorem State.modLaunch_crews (s : State) (l : Nat) (f : Launch → Launch) : (s.modLaunch l f).crews = s.crews := rfl
@[simp] theorem State.modLaunch_contexts (s : State) (l : Nat) (f : Launch → Launch) : (s.modLaunch l f).contexts = s.contexts := rfl
@[simp] theorem State.modLaunch_cores (s : State) (l : Nat) (f : Launch → Launch) : (s.modLaunch l f).cores = s.cores := rfl
@[simp] theorem State.modLaunch_renumbered (s : State) (l : Nat) (f : Launch → Launch) : (s.modLaunch l f).renumbered = s.renumbered := rfl
@[simp] theorem State.modLaunch_usedSpares (s : State) (l : Nat) (f : Launch → Launch) : (s.modLaunch l f).usedSpares = s.usedSpares := rfl
@[simp] theorem State.modLaunch_mem (s : State) (l : Nat) (f : Launch → Launch) : (s.modLaunch l f).mem = s.mem := rfl
@[simp] theorem State.modLaunch_bad (s : State) (l : Nat) (f : Launch → Launch) : (s.modLaunch l f).bad = s.bad := rfl
@[simp] theorem State.modLaunch_dir (s : State) (l : Nat) (f : Launch → Launch) : (s.modLaunch l f).dir = s.dir := rfl
@[simp] theorem State.modLaunch_blocks (s : State) (l : Nat) (f : Launch → Launch) : (s.modLaunch l f).blocks = s.blocks := rfl
@[simp] theorem State.modLaunch_replicas (s : State) (l : Nat) (f : Launch → Launch) : (s.modLaunch l f).replicas = s.replicas := rfl
@[simp] theorem State.modLaunch_invals (s : State) (l : Nat) (f : Launch → Launch) : (s.modLaunch l f).invals = s.invals := rfl
@[simp] theorem State.modLaunch_retired (s : State) (l : Nat) (f : Launch → Launch) : (s.modLaunch l f).retired = s.retired := rfl
@[simp] theorem State.modLaunch_halvings (s : State) (l : Nat) (f : Launch → Launch) : (s.modLaunch l f).halvings = s.halvings := rfl
@[simp] theorem State.modLaunch_trees (s : State) (l : Nat) (f : Launch → Launch) : (s.modLaunch l f).trees = s.trees := rfl
@[simp] theorem State.modLaunch_credits (s : State) (l : Nat) (f : Launch → Launch) : (s.modLaunch l f).credits = s.credits := rfl
@[simp] theorem State.modLaunch_lastServed (s : State) (l : Nat) (f : Launch → Launch) : (s.modLaunch l f).lastServed = s.lastServed := rfl
@[simp] theorem State.modLaunch_lastQueue (s : State) (l : Nat) (f : Launch → Launch) : (s.modLaunch l f).lastQueue = s.lastQueue := rfl
@[simp] theorem State.modLaunch_ports (s : State) (l : Nat) (f : Launch → Launch) : (s.modLaunch l f).ports = s.ports := rfl
@[simp] theorem State.modLaunch_links (s : State) (l : Nat) (f : Launch → Launch) : (s.modLaunch l f).links = s.links := rfl
@[simp] theorem State.modLaunch_outstanding (s : State) (l : Nat) (f : Launch → Launch) : (s.modLaunch l f).outstanding = s.outstanding := rfl
@[simp] theorem State.modLaunch_unsent (s : State) (l : Nat) (f : Launch → Launch) : (s.modLaunch l f).unsent = s.unsent := rfl
@[simp] theorem State.modLaunch_owed (s : State) (l : Nat) (f : Launch → Launch) : (s.modLaunch l f).owed = s.owed := rfl
@[simp] theorem State.modLaunch_recoveryWindow (s : State) (l : Nat) (f : Launch → Launch) : (s.modLaunch l f).recoveryWindow = s.recoveryWindow := rfl
@[simp] theorem State.modLaunch_owner (s : State) (l : Nat) (f : Launch → Launch) : (s.modLaunch l f).owner = s.owner := rfl
@[simp] theorem State.modLaunch_successor (s : State) (l : Nat) (f : Launch → Launch) : (s.modLaunch l f).successor = s.successor := rfl
@[simp] theorem State.modLaunch_broughtUp (s : State) (l : Nat) (f : Launch → Launch) : (s.modLaunch l f).broughtUp = s.broughtUp := rfl
@[simp] theorem State.modLaunch_firmware (s : State) (l : Nat) (f : Launch → Launch) : (s.modLaunch l f).firmware = s.firmware := rfl
@[simp] theorem State.modLaunch_mhz (s : State) (l : Nat) (f : Launch → Launch) : (s.modLaunch l f).mhz = s.mhz := rfl
@[simp] theorem State.modLaunch_clock (s : State) (l : Nat) (f : Launch → Launch) : (s.modLaunch l f).clock = s.clock := rfl
@[simp] theorem State.modLaunch_mesh (s : State) (l : Nat) (f : Launch → Launch) : (s.modLaunch l f).mesh = s.mesh := rfl
@[simp] theorem State.modLaunch_dressNext (s : State) (l : Nat) (f : Launch → Launch) : (s.modLaunch l f).dressNext = s.dressNext := rfl
@[simp] theorem State.modLaunch_skipped (s : State) (l : Nat) (f : Launch → Launch) : (s.modLaunch l f).skipped = s.skipped := rfl
@[simp] theorem State.modLaunch_overrides (s : State) (l : Nat) (f : Launch → Launch) : (s.modLaunch l f).overrides = s.overrides := rfl
@[simp] theorem State.modLaunch_inbox (s : State) (l : Nat) (f : Launch → Launch) : (s.modLaunch l f).inbox = s.inbox := rfl
@[simp] theorem State.modLaunch_outbox (s : State) (l : Nat) (f : Launch → Launch) : (s.modLaunch l f).outbox = s.outbox := rfl
@[simp] theorem State.modLaunch_cur (s : State) (l : Nat) (f : Launch → Launch) : (s.modLaunch l f).cur = s.cur := rfl
@[simp] theorem State.modLaunch_agenda (s : State) (l : Nat) (f : Launch → Launch) : (s.modLaunch l f).agenda = s.agenda := rfl
@[simp] theorem State.modLaunch_turns (s : State) (l : Nat) (f : Launch → Launch) : (s.modLaunch l f).turns = s.turns := rfl
@[simp] theorem State.modLaunch_tick (s : State) (l : Nat) (f : Launch → Launch) : (s.modLaunch l f).tick = s.tick := rfl
@[simp] theorem State.modLaunch_nextGroup (s : State) (l : Nat) (f : Launch → Launch) : (s.modLaunch l f).nextGroup = s.nextGroup := rfl
@[simp] theorem State.modLaunch_nextCrew (s : State) (l : Nat) (f : Launch → Launch) : (s.modLaunch l f).nextCrew = s.nextCrew := rfl
@[simp] theorem State.modLaunch_nextTag (s : State) (l : Nat) (f : Launch → Launch) : (s.modLaunch l f).nextTag = s.nextTag := rfl
@[simp] theorem State.modLaunch_nextOrder (s : State) (l : Nat) (f : Launch → Launch) : (s.modLaunch l f).nextOrder = s.nextOrder := rfl
@[simp] theorem State.modLaunch_lastCore (s : State) (l : Nat) (f : Launch → Launch) : (s.modLaunch l f).lastCore = s.lastCore := rfl

@[simp] theorem State.setContext_part (s : State) (c : Nat) (x : Context) : (s.setContext c x).part = s.part := rfl
@[simp] theorem State.setContext_groups (s : State) (c : Nat) (x : Context) : (s.setContext c x).groups = s.groups := rfl
@[simp] theorem State.setContext_crews (s : State) (c : Nat) (x : Context) : (s.setContext c x).crews = s.crews := rfl
@[simp] theorem State.setContext_launches (s : State) (c : Nat) (x : Context) : (s.setContext c x).launches = s.launches := rfl
@[simp] theorem State.setContext_cores (s : State) (c : Nat) (x : Context) : (s.setContext c x).cores = s.cores := rfl
@[simp] theorem State.setContext_renumbered (s : State) (c : Nat) (x : Context) : (s.setContext c x).renumbered = s.renumbered := rfl
@[simp] theorem State.setContext_usedSpares (s : State) (c : Nat) (x : Context) : (s.setContext c x).usedSpares = s.usedSpares := rfl
@[simp] theorem State.setContext_mem (s : State) (c : Nat) (x : Context) : (s.setContext c x).mem = s.mem := rfl
@[simp] theorem State.setContext_bad (s : State) (c : Nat) (x : Context) : (s.setContext c x).bad = s.bad := rfl
@[simp] theorem State.setContext_dir (s : State) (c : Nat) (x : Context) : (s.setContext c x).dir = s.dir := rfl
@[simp] theorem State.setContext_blocks (s : State) (c : Nat) (x : Context) : (s.setContext c x).blocks = s.blocks := rfl
@[simp] theorem State.setContext_replicas (s : State) (c : Nat) (x : Context) : (s.setContext c x).replicas = s.replicas := rfl
@[simp] theorem State.setContext_invals (s : State) (c : Nat) (x : Context) : (s.setContext c x).invals = s.invals := rfl
@[simp] theorem State.setContext_retired (s : State) (c : Nat) (x : Context) : (s.setContext c x).retired = s.retired := rfl
@[simp] theorem State.setContext_halvings (s : State) (c : Nat) (x : Context) : (s.setContext c x).halvings = s.halvings := rfl
@[simp] theorem State.setContext_trees (s : State) (c : Nat) (x : Context) : (s.setContext c x).trees = s.trees := rfl
@[simp] theorem State.setContext_credits (s : State) (c : Nat) (x : Context) : (s.setContext c x).credits = s.credits := rfl
@[simp] theorem State.setContext_lastServed (s : State) (c : Nat) (x : Context) : (s.setContext c x).lastServed = s.lastServed := rfl
@[simp] theorem State.setContext_lastQueue (s : State) (c : Nat) (x : Context) : (s.setContext c x).lastQueue = s.lastQueue := rfl
@[simp] theorem State.setContext_ports (s : State) (c : Nat) (x : Context) : (s.setContext c x).ports = s.ports := rfl
@[simp] theorem State.setContext_links (s : State) (c : Nat) (x : Context) : (s.setContext c x).links = s.links := rfl
@[simp] theorem State.setContext_outstanding (s : State) (c : Nat) (x : Context) : (s.setContext c x).outstanding = s.outstanding := rfl
@[simp] theorem State.setContext_unsent (s : State) (c : Nat) (x : Context) : (s.setContext c x).unsent = s.unsent := rfl
@[simp] theorem State.setContext_owed (s : State) (c : Nat) (x : Context) : (s.setContext c x).owed = s.owed := rfl
@[simp] theorem State.setContext_recoveryWindow (s : State) (c : Nat) (x : Context) : (s.setContext c x).recoveryWindow = s.recoveryWindow := rfl
@[simp] theorem State.setContext_owner (s : State) (c : Nat) (x : Context) : (s.setContext c x).owner = s.owner := rfl
@[simp] theorem State.setContext_successor (s : State) (c : Nat) (x : Context) : (s.setContext c x).successor = s.successor := rfl
@[simp] theorem State.setContext_broughtUp (s : State) (c : Nat) (x : Context) : (s.setContext c x).broughtUp = s.broughtUp := rfl
@[simp] theorem State.setContext_firmware (s : State) (c : Nat) (x : Context) : (s.setContext c x).firmware = s.firmware := rfl
@[simp] theorem State.setContext_mhz (s : State) (c : Nat) (x : Context) : (s.setContext c x).mhz = s.mhz := rfl
@[simp] theorem State.setContext_clock (s : State) (c : Nat) (x : Context) : (s.setContext c x).clock = s.clock := rfl
@[simp] theorem State.setContext_mesh (s : State) (c : Nat) (x : Context) : (s.setContext c x).mesh = s.mesh := rfl
@[simp] theorem State.setContext_dressNext (s : State) (c : Nat) (x : Context) : (s.setContext c x).dressNext = s.dressNext := rfl
@[simp] theorem State.setContext_skipped (s : State) (c : Nat) (x : Context) : (s.setContext c x).skipped = s.skipped := rfl
@[simp] theorem State.setContext_overrides (s : State) (c : Nat) (x : Context) : (s.setContext c x).overrides = s.overrides := rfl
@[simp] theorem State.setContext_inbox (s : State) (c : Nat) (x : Context) : (s.setContext c x).inbox = s.inbox := rfl
@[simp] theorem State.setContext_outbox (s : State) (c : Nat) (x : Context) : (s.setContext c x).outbox = s.outbox := rfl
@[simp] theorem State.setContext_cur (s : State) (c : Nat) (x : Context) : (s.setContext c x).cur = s.cur := rfl
@[simp] theorem State.setContext_agenda (s : State) (c : Nat) (x : Context) : (s.setContext c x).agenda = s.agenda := rfl
@[simp] theorem State.setContext_turns (s : State) (c : Nat) (x : Context) : (s.setContext c x).turns = s.turns := rfl
@[simp] theorem State.setContext_tick (s : State) (c : Nat) (x : Context) : (s.setContext c x).tick = s.tick := rfl
@[simp] theorem State.setContext_nextGroup (s : State) (c : Nat) (x : Context) : (s.setContext c x).nextGroup = s.nextGroup := rfl
@[simp] theorem State.setContext_nextCrew (s : State) (c : Nat) (x : Context) : (s.setContext c x).nextCrew = s.nextCrew := rfl
@[simp] theorem State.setContext_nextTag (s : State) (c : Nat) (x : Context) : (s.setContext c x).nextTag = s.nextTag := rfl
@[simp] theorem State.setContext_nextOrder (s : State) (c : Nat) (x : Context) : (s.setContext c x).nextOrder = s.nextOrder := rfl
@[simp] theorem State.setContext_lastCore (s : State) (c : Nat) (x : Context) : (s.setContext c x).lastCore = s.lastCore := rfl

@[simp] theorem State.modContext_part (s : State) (c : Nat) (f : Context → Context) : (s.modContext c f).part = s.part := rfl
@[simp] theorem State.modContext_groups (s : State) (c : Nat) (f : Context → Context) : (s.modContext c f).groups = s.groups := rfl
@[simp] theorem State.modContext_crews (s : State) (c : Nat) (f : Context → Context) : (s.modContext c f).crews = s.crews := rfl
@[simp] theorem State.modContext_launches (s : State) (c : Nat) (f : Context → Context) : (s.modContext c f).launches = s.launches := rfl
@[simp] theorem State.modContext_cores (s : State) (c : Nat) (f : Context → Context) : (s.modContext c f).cores = s.cores := rfl
@[simp] theorem State.modContext_renumbered (s : State) (c : Nat) (f : Context → Context) : (s.modContext c f).renumbered = s.renumbered := rfl
@[simp] theorem State.modContext_usedSpares (s : State) (c : Nat) (f : Context → Context) : (s.modContext c f).usedSpares = s.usedSpares := rfl
@[simp] theorem State.modContext_mem (s : State) (c : Nat) (f : Context → Context) : (s.modContext c f).mem = s.mem := rfl
@[simp] theorem State.modContext_bad (s : State) (c : Nat) (f : Context → Context) : (s.modContext c f).bad = s.bad := rfl
@[simp] theorem State.modContext_dir (s : State) (c : Nat) (f : Context → Context) : (s.modContext c f).dir = s.dir := rfl
@[simp] theorem State.modContext_blocks (s : State) (c : Nat) (f : Context → Context) : (s.modContext c f).blocks = s.blocks := rfl
@[simp] theorem State.modContext_replicas (s : State) (c : Nat) (f : Context → Context) : (s.modContext c f).replicas = s.replicas := rfl
@[simp] theorem State.modContext_invals (s : State) (c : Nat) (f : Context → Context) : (s.modContext c f).invals = s.invals := rfl
@[simp] theorem State.modContext_retired (s : State) (c : Nat) (f : Context → Context) : (s.modContext c f).retired = s.retired := rfl
@[simp] theorem State.modContext_halvings (s : State) (c : Nat) (f : Context → Context) : (s.modContext c f).halvings = s.halvings := rfl
@[simp] theorem State.modContext_trees (s : State) (c : Nat) (f : Context → Context) : (s.modContext c f).trees = s.trees := rfl
@[simp] theorem State.modContext_credits (s : State) (c : Nat) (f : Context → Context) : (s.modContext c f).credits = s.credits := rfl
@[simp] theorem State.modContext_lastServed (s : State) (c : Nat) (f : Context → Context) : (s.modContext c f).lastServed = s.lastServed := rfl
@[simp] theorem State.modContext_lastQueue (s : State) (c : Nat) (f : Context → Context) : (s.modContext c f).lastQueue = s.lastQueue := rfl
@[simp] theorem State.modContext_ports (s : State) (c : Nat) (f : Context → Context) : (s.modContext c f).ports = s.ports := rfl
@[simp] theorem State.modContext_links (s : State) (c : Nat) (f : Context → Context) : (s.modContext c f).links = s.links := rfl
@[simp] theorem State.modContext_outstanding (s : State) (c : Nat) (f : Context → Context) : (s.modContext c f).outstanding = s.outstanding := rfl
@[simp] theorem State.modContext_unsent (s : State) (c : Nat) (f : Context → Context) : (s.modContext c f).unsent = s.unsent := rfl
@[simp] theorem State.modContext_owed (s : State) (c : Nat) (f : Context → Context) : (s.modContext c f).owed = s.owed := rfl
@[simp] theorem State.modContext_recoveryWindow (s : State) (c : Nat) (f : Context → Context) : (s.modContext c f).recoveryWindow = s.recoveryWindow := rfl
@[simp] theorem State.modContext_owner (s : State) (c : Nat) (f : Context → Context) : (s.modContext c f).owner = s.owner := rfl
@[simp] theorem State.modContext_successor (s : State) (c : Nat) (f : Context → Context) : (s.modContext c f).successor = s.successor := rfl
@[simp] theorem State.modContext_broughtUp (s : State) (c : Nat) (f : Context → Context) : (s.modContext c f).broughtUp = s.broughtUp := rfl
@[simp] theorem State.modContext_firmware (s : State) (c : Nat) (f : Context → Context) : (s.modContext c f).firmware = s.firmware := rfl
@[simp] theorem State.modContext_mhz (s : State) (c : Nat) (f : Context → Context) : (s.modContext c f).mhz = s.mhz := rfl
@[simp] theorem State.modContext_clock (s : State) (c : Nat) (f : Context → Context) : (s.modContext c f).clock = s.clock := rfl
@[simp] theorem State.modContext_mesh (s : State) (c : Nat) (f : Context → Context) : (s.modContext c f).mesh = s.mesh := rfl
@[simp] theorem State.modContext_dressNext (s : State) (c : Nat) (f : Context → Context) : (s.modContext c f).dressNext = s.dressNext := rfl
@[simp] theorem State.modContext_skipped (s : State) (c : Nat) (f : Context → Context) : (s.modContext c f).skipped = s.skipped := rfl
@[simp] theorem State.modContext_overrides (s : State) (c : Nat) (f : Context → Context) : (s.modContext c f).overrides = s.overrides := rfl
@[simp] theorem State.modContext_inbox (s : State) (c : Nat) (f : Context → Context) : (s.modContext c f).inbox = s.inbox := rfl
@[simp] theorem State.modContext_outbox (s : State) (c : Nat) (f : Context → Context) : (s.modContext c f).outbox = s.outbox := rfl
@[simp] theorem State.modContext_cur (s : State) (c : Nat) (f : Context → Context) : (s.modContext c f).cur = s.cur := rfl
@[simp] theorem State.modContext_agenda (s : State) (c : Nat) (f : Context → Context) : (s.modContext c f).agenda = s.agenda := rfl
@[simp] theorem State.modContext_turns (s : State) (c : Nat) (f : Context → Context) : (s.modContext c f).turns = s.turns := rfl
@[simp] theorem State.modContext_tick (s : State) (c : Nat) (f : Context → Context) : (s.modContext c f).tick = s.tick := rfl
@[simp] theorem State.modContext_nextGroup (s : State) (c : Nat) (f : Context → Context) : (s.modContext c f).nextGroup = s.nextGroup := rfl
@[simp] theorem State.modContext_nextCrew (s : State) (c : Nat) (f : Context → Context) : (s.modContext c f).nextCrew = s.nextCrew := rfl
@[simp] theorem State.modContext_nextTag (s : State) (c : Nat) (f : Context → Context) : (s.modContext c f).nextTag = s.nextTag := rfl
@[simp] theorem State.modContext_nextOrder (s : State) (c : Nat) (f : Context → Context) : (s.modContext c f).nextOrder = s.nextOrder := rfl
@[simp] theorem State.modContext_lastCore (s : State) (c : Nat) (f : Context → Context) : (s.modContext c f).lastCore = s.lastCore := rfl

@[simp] theorem State.setCore_part (s : State) (n : Nat) (x : CoreSt) : (s.setCore n x).part = s.part := rfl
@[simp] theorem State.setCore_groups (s : State) (n : Nat) (x : CoreSt) : (s.setCore n x).groups = s.groups := rfl
@[simp] theorem State.setCore_crews (s : State) (n : Nat) (x : CoreSt) : (s.setCore n x).crews = s.crews := rfl
@[simp] theorem State.setCore_launches (s : State) (n : Nat) (x : CoreSt) : (s.setCore n x).launches = s.launches := rfl
@[simp] theorem State.setCore_contexts (s : State) (n : Nat) (x : CoreSt) : (s.setCore n x).contexts = s.contexts := rfl
@[simp] theorem State.setCore_renumbered (s : State) (n : Nat) (x : CoreSt) : (s.setCore n x).renumbered = s.renumbered := rfl
@[simp] theorem State.setCore_usedSpares (s : State) (n : Nat) (x : CoreSt) : (s.setCore n x).usedSpares = s.usedSpares := rfl
@[simp] theorem State.setCore_mem (s : State) (n : Nat) (x : CoreSt) : (s.setCore n x).mem = s.mem := rfl
@[simp] theorem State.setCore_bad (s : State) (n : Nat) (x : CoreSt) : (s.setCore n x).bad = s.bad := rfl
@[simp] theorem State.setCore_dir (s : State) (n : Nat) (x : CoreSt) : (s.setCore n x).dir = s.dir := rfl
@[simp] theorem State.setCore_blocks (s : State) (n : Nat) (x : CoreSt) : (s.setCore n x).blocks = s.blocks := rfl
@[simp] theorem State.setCore_replicas (s : State) (n : Nat) (x : CoreSt) : (s.setCore n x).replicas = s.replicas := rfl
@[simp] theorem State.setCore_invals (s : State) (n : Nat) (x : CoreSt) : (s.setCore n x).invals = s.invals := rfl
@[simp] theorem State.setCore_retired (s : State) (n : Nat) (x : CoreSt) : (s.setCore n x).retired = s.retired := rfl
@[simp] theorem State.setCore_halvings (s : State) (n : Nat) (x : CoreSt) : (s.setCore n x).halvings = s.halvings := rfl
@[simp] theorem State.setCore_trees (s : State) (n : Nat) (x : CoreSt) : (s.setCore n x).trees = s.trees := rfl
@[simp] theorem State.setCore_credits (s : State) (n : Nat) (x : CoreSt) : (s.setCore n x).credits = s.credits := rfl
@[simp] theorem State.setCore_lastServed (s : State) (n : Nat) (x : CoreSt) : (s.setCore n x).lastServed = s.lastServed := rfl
@[simp] theorem State.setCore_lastQueue (s : State) (n : Nat) (x : CoreSt) : (s.setCore n x).lastQueue = s.lastQueue := rfl
@[simp] theorem State.setCore_ports (s : State) (n : Nat) (x : CoreSt) : (s.setCore n x).ports = s.ports := rfl
@[simp] theorem State.setCore_links (s : State) (n : Nat) (x : CoreSt) : (s.setCore n x).links = s.links := rfl
@[simp] theorem State.setCore_outstanding (s : State) (n : Nat) (x : CoreSt) : (s.setCore n x).outstanding = s.outstanding := rfl
@[simp] theorem State.setCore_unsent (s : State) (n : Nat) (x : CoreSt) : (s.setCore n x).unsent = s.unsent := rfl
@[simp] theorem State.setCore_owed (s : State) (n : Nat) (x : CoreSt) : (s.setCore n x).owed = s.owed := rfl
@[simp] theorem State.setCore_recoveryWindow (s : State) (n : Nat) (x : CoreSt) : (s.setCore n x).recoveryWindow = s.recoveryWindow := rfl
@[simp] theorem State.setCore_owner (s : State) (n : Nat) (x : CoreSt) : (s.setCore n x).owner = s.owner := rfl
@[simp] theorem State.setCore_successor (s : State) (n : Nat) (x : CoreSt) : (s.setCore n x).successor = s.successor := rfl
@[simp] theorem State.setCore_broughtUp (s : State) (n : Nat) (x : CoreSt) : (s.setCore n x).broughtUp = s.broughtUp := rfl
@[simp] theorem State.setCore_firmware (s : State) (n : Nat) (x : CoreSt) : (s.setCore n x).firmware = s.firmware := rfl
@[simp] theorem State.setCore_mhz (s : State) (n : Nat) (x : CoreSt) : (s.setCore n x).mhz = s.mhz := rfl
@[simp] theorem State.setCore_clock (s : State) (n : Nat) (x : CoreSt) : (s.setCore n x).clock = s.clock := rfl
@[simp] theorem State.setCore_mesh (s : State) (n : Nat) (x : CoreSt) : (s.setCore n x).mesh = s.mesh := rfl
@[simp] theorem State.setCore_dressNext (s : State) (n : Nat) (x : CoreSt) : (s.setCore n x).dressNext = s.dressNext := rfl
@[simp] theorem State.setCore_skipped (s : State) (n : Nat) (x : CoreSt) : (s.setCore n x).skipped = s.skipped := rfl
@[simp] theorem State.setCore_overrides (s : State) (n : Nat) (x : CoreSt) : (s.setCore n x).overrides = s.overrides := rfl
@[simp] theorem State.setCore_inbox (s : State) (n : Nat) (x : CoreSt) : (s.setCore n x).inbox = s.inbox := rfl
@[simp] theorem State.setCore_outbox (s : State) (n : Nat) (x : CoreSt) : (s.setCore n x).outbox = s.outbox := rfl
@[simp] theorem State.setCore_cur (s : State) (n : Nat) (x : CoreSt) : (s.setCore n x).cur = s.cur := rfl
@[simp] theorem State.setCore_agenda (s : State) (n : Nat) (x : CoreSt) : (s.setCore n x).agenda = s.agenda := rfl
@[simp] theorem State.setCore_turns (s : State) (n : Nat) (x : CoreSt) : (s.setCore n x).turns = s.turns := rfl
@[simp] theorem State.setCore_tick (s : State) (n : Nat) (x : CoreSt) : (s.setCore n x).tick = s.tick := rfl
@[simp] theorem State.setCore_nextGroup (s : State) (n : Nat) (x : CoreSt) : (s.setCore n x).nextGroup = s.nextGroup := rfl
@[simp] theorem State.setCore_nextCrew (s : State) (n : Nat) (x : CoreSt) : (s.setCore n x).nextCrew = s.nextCrew := rfl
@[simp] theorem State.setCore_nextTag (s : State) (n : Nat) (x : CoreSt) : (s.setCore n x).nextTag = s.nextTag := rfl
@[simp] theorem State.setCore_nextOrder (s : State) (n : Nat) (x : CoreSt) : (s.setCore n x).nextOrder = s.nextOrder := rfl
@[simp] theorem State.setCore_lastCore (s : State) (n : Nat) (x : CoreSt) : (s.setCore n x).lastCore = s.lastCore := rfl

@[simp] theorem State.modCore_part (s : State) (n : Nat) (f : CoreSt → CoreSt) : (s.modCore n f).part = s.part := rfl
@[simp] theorem State.modCore_groups (s : State) (n : Nat) (f : CoreSt → CoreSt) : (s.modCore n f).groups = s.groups := rfl
@[simp] theorem State.modCore_crews (s : State) (n : Nat) (f : CoreSt → CoreSt) : (s.modCore n f).crews = s.crews := rfl
@[simp] theorem State.modCore_launches (s : State) (n : Nat) (f : CoreSt → CoreSt) : (s.modCore n f).launches = s.launches := rfl
@[simp] theorem State.modCore_contexts (s : State) (n : Nat) (f : CoreSt → CoreSt) : (s.modCore n f).contexts = s.contexts := rfl
@[simp] theorem State.modCore_renumbered (s : State) (n : Nat) (f : CoreSt → CoreSt) : (s.modCore n f).renumbered = s.renumbered := rfl
@[simp] theorem State.modCore_usedSpares (s : State) (n : Nat) (f : CoreSt → CoreSt) : (s.modCore n f).usedSpares = s.usedSpares := rfl
@[simp] theorem State.modCore_mem (s : State) (n : Nat) (f : CoreSt → CoreSt) : (s.modCore n f).mem = s.mem := rfl
@[simp] theorem State.modCore_bad (s : State) (n : Nat) (f : CoreSt → CoreSt) : (s.modCore n f).bad = s.bad := rfl
@[simp] theorem State.modCore_dir (s : State) (n : Nat) (f : CoreSt → CoreSt) : (s.modCore n f).dir = s.dir := rfl
@[simp] theorem State.modCore_blocks (s : State) (n : Nat) (f : CoreSt → CoreSt) : (s.modCore n f).blocks = s.blocks := rfl
@[simp] theorem State.modCore_replicas (s : State) (n : Nat) (f : CoreSt → CoreSt) : (s.modCore n f).replicas = s.replicas := rfl
@[simp] theorem State.modCore_invals (s : State) (n : Nat) (f : CoreSt → CoreSt) : (s.modCore n f).invals = s.invals := rfl
@[simp] theorem State.modCore_retired (s : State) (n : Nat) (f : CoreSt → CoreSt) : (s.modCore n f).retired = s.retired := rfl
@[simp] theorem State.modCore_halvings (s : State) (n : Nat) (f : CoreSt → CoreSt) : (s.modCore n f).halvings = s.halvings := rfl
@[simp] theorem State.modCore_trees (s : State) (n : Nat) (f : CoreSt → CoreSt) : (s.modCore n f).trees = s.trees := rfl
@[simp] theorem State.modCore_credits (s : State) (n : Nat) (f : CoreSt → CoreSt) : (s.modCore n f).credits = s.credits := rfl
@[simp] theorem State.modCore_lastServed (s : State) (n : Nat) (f : CoreSt → CoreSt) : (s.modCore n f).lastServed = s.lastServed := rfl
@[simp] theorem State.modCore_lastQueue (s : State) (n : Nat) (f : CoreSt → CoreSt) : (s.modCore n f).lastQueue = s.lastQueue := rfl
@[simp] theorem State.modCore_ports (s : State) (n : Nat) (f : CoreSt → CoreSt) : (s.modCore n f).ports = s.ports := rfl
@[simp] theorem State.modCore_links (s : State) (n : Nat) (f : CoreSt → CoreSt) : (s.modCore n f).links = s.links := rfl
@[simp] theorem State.modCore_outstanding (s : State) (n : Nat) (f : CoreSt → CoreSt) : (s.modCore n f).outstanding = s.outstanding := rfl
@[simp] theorem State.modCore_unsent (s : State) (n : Nat) (f : CoreSt → CoreSt) : (s.modCore n f).unsent = s.unsent := rfl
@[simp] theorem State.modCore_owed (s : State) (n : Nat) (f : CoreSt → CoreSt) : (s.modCore n f).owed = s.owed := rfl
@[simp] theorem State.modCore_recoveryWindow (s : State) (n : Nat) (f : CoreSt → CoreSt) : (s.modCore n f).recoveryWindow = s.recoveryWindow := rfl
@[simp] theorem State.modCore_owner (s : State) (n : Nat) (f : CoreSt → CoreSt) : (s.modCore n f).owner = s.owner := rfl
@[simp] theorem State.modCore_successor (s : State) (n : Nat) (f : CoreSt → CoreSt) : (s.modCore n f).successor = s.successor := rfl
@[simp] theorem State.modCore_broughtUp (s : State) (n : Nat) (f : CoreSt → CoreSt) : (s.modCore n f).broughtUp = s.broughtUp := rfl
@[simp] theorem State.modCore_firmware (s : State) (n : Nat) (f : CoreSt → CoreSt) : (s.modCore n f).firmware = s.firmware := rfl
@[simp] theorem State.modCore_mhz (s : State) (n : Nat) (f : CoreSt → CoreSt) : (s.modCore n f).mhz = s.mhz := rfl
@[simp] theorem State.modCore_clock (s : State) (n : Nat) (f : CoreSt → CoreSt) : (s.modCore n f).clock = s.clock := rfl
@[simp] theorem State.modCore_mesh (s : State) (n : Nat) (f : CoreSt → CoreSt) : (s.modCore n f).mesh = s.mesh := rfl
@[simp] theorem State.modCore_dressNext (s : State) (n : Nat) (f : CoreSt → CoreSt) : (s.modCore n f).dressNext = s.dressNext := rfl
@[simp] theorem State.modCore_skipped (s : State) (n : Nat) (f : CoreSt → CoreSt) : (s.modCore n f).skipped = s.skipped := rfl
@[simp] theorem State.modCore_overrides (s : State) (n : Nat) (f : CoreSt → CoreSt) : (s.modCore n f).overrides = s.overrides := rfl
@[simp] theorem State.modCore_inbox (s : State) (n : Nat) (f : CoreSt → CoreSt) : (s.modCore n f).inbox = s.inbox := rfl
@[simp] theorem State.modCore_outbox (s : State) (n : Nat) (f : CoreSt → CoreSt) : (s.modCore n f).outbox = s.outbox := rfl
@[simp] theorem State.modCore_cur (s : State) (n : Nat) (f : CoreSt → CoreSt) : (s.modCore n f).cur = s.cur := rfl
@[simp] theorem State.modCore_agenda (s : State) (n : Nat) (f : CoreSt → CoreSt) : (s.modCore n f).agenda = s.agenda := rfl
@[simp] theorem State.modCore_turns (s : State) (n : Nat) (f : CoreSt → CoreSt) : (s.modCore n f).turns = s.turns := rfl
@[simp] theorem State.modCore_tick (s : State) (n : Nat) (f : CoreSt → CoreSt) : (s.modCore n f).tick = s.tick := rfl
@[simp] theorem State.modCore_nextGroup (s : State) (n : Nat) (f : CoreSt → CoreSt) : (s.modCore n f).nextGroup = s.nextGroup := rfl
@[simp] theorem State.modCore_nextCrew (s : State) (n : Nat) (f : CoreSt → CoreSt) : (s.modCore n f).nextCrew = s.nextCrew := rfl
@[simp] theorem State.modCore_nextTag (s : State) (n : Nat) (f : CoreSt → CoreSt) : (s.modCore n f).nextTag = s.nextTag := rfl
@[simp] theorem State.modCore_nextOrder (s : State) (n : Nat) (f : CoreSt → CoreSt) : (s.modCore n f).nextOrder = s.nextOrder := rfl
@[simp] theorem State.modCore_lastCore (s : State) (n : Nat) (f : CoreSt → CoreSt) : (s.modCore n f).lastCore = s.lastCore := rfl

@[simp] theorem State.due_part (s : State) (i : Instr) : (s.due i).part = s.part := rfl
@[simp] theorem State.due_groups (s : State) (i : Instr) : (s.due i).groups = s.groups := rfl
@[simp] theorem State.due_crews (s : State) (i : Instr) : (s.due i).crews = s.crews := rfl
@[simp] theorem State.due_launches (s : State) (i : Instr) : (s.due i).launches = s.launches := rfl
@[simp] theorem State.due_contexts (s : State) (i : Instr) : (s.due i).contexts = s.contexts := rfl
@[simp] theorem State.due_cores (s : State) (i : Instr) : (s.due i).cores = s.cores := rfl
@[simp] theorem State.due_renumbered (s : State) (i : Instr) : (s.due i).renumbered = s.renumbered := rfl
@[simp] theorem State.due_usedSpares (s : State) (i : Instr) : (s.due i).usedSpares = s.usedSpares := rfl
@[simp] theorem State.due_mem (s : State) (i : Instr) : (s.due i).mem = s.mem := rfl
@[simp] theorem State.due_bad (s : State) (i : Instr) : (s.due i).bad = s.bad := rfl
@[simp] theorem State.due_dir (s : State) (i : Instr) : (s.due i).dir = s.dir := rfl
@[simp] theorem State.due_blocks (s : State) (i : Instr) : (s.due i).blocks = s.blocks := rfl
@[simp] theorem State.due_replicas (s : State) (i : Instr) : (s.due i).replicas = s.replicas := rfl
@[simp] theorem State.due_invals (s : State) (i : Instr) : (s.due i).invals = s.invals := rfl
@[simp] theorem State.due_retired (s : State) (i : Instr) : (s.due i).retired = s.retired := rfl
@[simp] theorem State.due_halvings (s : State) (i : Instr) : (s.due i).halvings = s.halvings := rfl
@[simp] theorem State.due_trees (s : State) (i : Instr) : (s.due i).trees = s.trees := rfl
@[simp] theorem State.due_credits (s : State) (i : Instr) : (s.due i).credits = s.credits := rfl
@[simp] theorem State.due_lastServed (s : State) (i : Instr) : (s.due i).lastServed = s.lastServed := rfl
@[simp] theorem State.due_lastQueue (s : State) (i : Instr) : (s.due i).lastQueue = s.lastQueue := rfl
@[simp] theorem State.due_ports (s : State) (i : Instr) : (s.due i).ports = s.ports := rfl
@[simp] theorem State.due_links (s : State) (i : Instr) : (s.due i).links = s.links := rfl
@[simp] theorem State.due_outstanding (s : State) (i : Instr) : (s.due i).outstanding = s.outstanding := rfl
@[simp] theorem State.due_unsent (s : State) (i : Instr) : (s.due i).unsent = s.unsent := rfl
@[simp] theorem State.due_owed (s : State) (i : Instr) : (s.due i).owed = s.owed := rfl
@[simp] theorem State.due_recoveryWindow (s : State) (i : Instr) : (s.due i).recoveryWindow = s.recoveryWindow := rfl
@[simp] theorem State.due_owner (s : State) (i : Instr) : (s.due i).owner = s.owner := rfl
@[simp] theorem State.due_successor (s : State) (i : Instr) : (s.due i).successor = s.successor := rfl
@[simp] theorem State.due_broughtUp (s : State) (i : Instr) : (s.due i).broughtUp = s.broughtUp := rfl
@[simp] theorem State.due_firmware (s : State) (i : Instr) : (s.due i).firmware = s.firmware := rfl
@[simp] theorem State.due_mhz (s : State) (i : Instr) : (s.due i).mhz = s.mhz := rfl
@[simp] theorem State.due_clock (s : State) (i : Instr) : (s.due i).clock = s.clock := rfl
@[simp] theorem State.due_mesh (s : State) (i : Instr) : (s.due i).mesh = s.mesh := rfl
@[simp] theorem State.due_dressNext (s : State) (i : Instr) : (s.due i).dressNext = s.dressNext := rfl
@[simp] theorem State.due_skipped (s : State) (i : Instr) : (s.due i).skipped = s.skipped := rfl
@[simp] theorem State.due_overrides (s : State) (i : Instr) : (s.due i).overrides = s.overrides := rfl
@[simp] theorem State.due_inbox (s : State) (i : Instr) : (s.due i).inbox = s.inbox := rfl
@[simp] theorem State.due_outbox (s : State) (i : Instr) : (s.due i).outbox = s.outbox := rfl
@[simp] theorem State.due_cur (s : State) (i : Instr) : (s.due i).cur = s.cur := rfl
@[simp] theorem State.due_turns (s : State) (i : Instr) : (s.due i).turns = s.turns := rfl
@[simp] theorem State.due_tick (s : State) (i : Instr) : (s.due i).tick = s.tick := rfl
@[simp] theorem State.due_nextGroup (s : State) (i : Instr) : (s.due i).nextGroup = s.nextGroup := rfl
@[simp] theorem State.due_nextCrew (s : State) (i : Instr) : (s.due i).nextCrew = s.nextCrew := rfl
@[simp] theorem State.due_nextTag (s : State) (i : Instr) : (s.due i).nextTag = s.nextTag := rfl
@[simp] theorem State.due_nextOrder (s : State) (i : Instr) : (s.due i).nextOrder = s.nextOrder := rfl
@[simp] theorem State.due_lastCore (s : State) (i : Instr) : (s.due i).lastCore = s.lastCore := rfl

@[simp] theorem State.dueAll_part (s : State) (l : List Instr) : (s.dueAll l).part = s.part := rfl
@[simp] theorem State.dueAll_groups (s : State) (l : List Instr) : (s.dueAll l).groups = s.groups := rfl
@[simp] theorem State.dueAll_crews (s : State) (l : List Instr) : (s.dueAll l).crews = s.crews := rfl
@[simp] theorem State.dueAll_launches (s : State) (l : List Instr) : (s.dueAll l).launches = s.launches := rfl
@[simp] theorem State.dueAll_contexts (s : State) (l : List Instr) : (s.dueAll l).contexts = s.contexts := rfl
@[simp] theorem State.dueAll_cores (s : State) (l : List Instr) : (s.dueAll l).cores = s.cores := rfl
@[simp] theorem State.dueAll_renumbered (s : State) (l : List Instr) : (s.dueAll l).renumbered = s.renumbered := rfl
@[simp] theorem State.dueAll_usedSpares (s : State) (l : List Instr) : (s.dueAll l).usedSpares = s.usedSpares := rfl
@[simp] theorem State.dueAll_mem (s : State) (l : List Instr) : (s.dueAll l).mem = s.mem := rfl
@[simp] theorem State.dueAll_bad (s : State) (l : List Instr) : (s.dueAll l).bad = s.bad := rfl
@[simp] theorem State.dueAll_dir (s : State) (l : List Instr) : (s.dueAll l).dir = s.dir := rfl
@[simp] theorem State.dueAll_blocks (s : State) (l : List Instr) : (s.dueAll l).blocks = s.blocks := rfl
@[simp] theorem State.dueAll_replicas (s : State) (l : List Instr) : (s.dueAll l).replicas = s.replicas := rfl
@[simp] theorem State.dueAll_invals (s : State) (l : List Instr) : (s.dueAll l).invals = s.invals := rfl
@[simp] theorem State.dueAll_retired (s : State) (l : List Instr) : (s.dueAll l).retired = s.retired := rfl
@[simp] theorem State.dueAll_halvings (s : State) (l : List Instr) : (s.dueAll l).halvings = s.halvings := rfl
@[simp] theorem State.dueAll_trees (s : State) (l : List Instr) : (s.dueAll l).trees = s.trees := rfl
@[simp] theorem State.dueAll_credits (s : State) (l : List Instr) : (s.dueAll l).credits = s.credits := rfl
@[simp] theorem State.dueAll_lastServed (s : State) (l : List Instr) : (s.dueAll l).lastServed = s.lastServed := rfl
@[simp] theorem State.dueAll_lastQueue (s : State) (l : List Instr) : (s.dueAll l).lastQueue = s.lastQueue := rfl
@[simp] theorem State.dueAll_ports (s : State) (l : List Instr) : (s.dueAll l).ports = s.ports := rfl
@[simp] theorem State.dueAll_links (s : State) (l : List Instr) : (s.dueAll l).links = s.links := rfl
@[simp] theorem State.dueAll_outstanding (s : State) (l : List Instr) : (s.dueAll l).outstanding = s.outstanding := rfl
@[simp] theorem State.dueAll_unsent (s : State) (l : List Instr) : (s.dueAll l).unsent = s.unsent := rfl
@[simp] theorem State.dueAll_owed (s : State) (l : List Instr) : (s.dueAll l).owed = s.owed := rfl
@[simp] theorem State.dueAll_recoveryWindow (s : State) (l : List Instr) : (s.dueAll l).recoveryWindow = s.recoveryWindow := rfl
@[simp] theorem State.dueAll_owner (s : State) (l : List Instr) : (s.dueAll l).owner = s.owner := rfl
@[simp] theorem State.dueAll_successor (s : State) (l : List Instr) : (s.dueAll l).successor = s.successor := rfl
@[simp] theorem State.dueAll_broughtUp (s : State) (l : List Instr) : (s.dueAll l).broughtUp = s.broughtUp := rfl
@[simp] theorem State.dueAll_firmware (s : State) (l : List Instr) : (s.dueAll l).firmware = s.firmware := rfl
@[simp] theorem State.dueAll_mhz (s : State) (l : List Instr) : (s.dueAll l).mhz = s.mhz := rfl
@[simp] theorem State.dueAll_clock (s : State) (l : List Instr) : (s.dueAll l).clock = s.clock := rfl
@[simp] theorem State.dueAll_mesh (s : State) (l : List Instr) : (s.dueAll l).mesh = s.mesh := rfl
@[simp] theorem State.dueAll_dressNext (s : State) (l : List Instr) : (s.dueAll l).dressNext = s.dressNext := rfl
@[simp] theorem State.dueAll_skipped (s : State) (l : List Instr) : (s.dueAll l).skipped = s.skipped := rfl
@[simp] theorem State.dueAll_overrides (s : State) (l : List Instr) : (s.dueAll l).overrides = s.overrides := rfl
@[simp] theorem State.dueAll_inbox (s : State) (l : List Instr) : (s.dueAll l).inbox = s.inbox := rfl
@[simp] theorem State.dueAll_outbox (s : State) (l : List Instr) : (s.dueAll l).outbox = s.outbox := rfl
@[simp] theorem State.dueAll_cur (s : State) (l : List Instr) : (s.dueAll l).cur = s.cur := rfl
@[simp] theorem State.dueAll_turns (s : State) (l : List Instr) : (s.dueAll l).turns = s.turns := rfl
@[simp] theorem State.dueAll_tick (s : State) (l : List Instr) : (s.dueAll l).tick = s.tick := rfl
@[simp] theorem State.dueAll_nextGroup (s : State) (l : List Instr) : (s.dueAll l).nextGroup = s.nextGroup := rfl
@[simp] theorem State.dueAll_nextCrew (s : State) (l : List Instr) : (s.dueAll l).nextCrew = s.nextCrew := rfl
@[simp] theorem State.dueAll_nextTag (s : State) (l : List Instr) : (s.dueAll l).nextTag = s.nextTag := rfl
@[simp] theorem State.dueAll_nextOrder (s : State) (l : List Instr) : (s.dueAll l).nextOrder = s.nextOrder := rfl
@[simp] theorem State.dueAll_lastCore (s : State) (l : List Instr) : (s.dueAll l).lastCore = s.lastCore := rfl

@[simp] theorem State.setLink_part (s : State) (x : Link) : (s.setLink x).part = s.part := rfl
@[simp] theorem State.setLink_groups (s : State) (x : Link) : (s.setLink x).groups = s.groups := rfl
@[simp] theorem State.setLink_crews (s : State) (x : Link) : (s.setLink x).crews = s.crews := rfl
@[simp] theorem State.setLink_launches (s : State) (x : Link) : (s.setLink x).launches = s.launches := rfl
@[simp] theorem State.setLink_contexts (s : State) (x : Link) : (s.setLink x).contexts = s.contexts := rfl
@[simp] theorem State.setLink_cores (s : State) (x : Link) : (s.setLink x).cores = s.cores := rfl
@[simp] theorem State.setLink_renumbered (s : State) (x : Link) : (s.setLink x).renumbered = s.renumbered := rfl
@[simp] theorem State.setLink_usedSpares (s : State) (x : Link) : (s.setLink x).usedSpares = s.usedSpares := rfl
@[simp] theorem State.setLink_mem (s : State) (x : Link) : (s.setLink x).mem = s.mem := rfl
@[simp] theorem State.setLink_bad (s : State) (x : Link) : (s.setLink x).bad = s.bad := rfl
@[simp] theorem State.setLink_dir (s : State) (x : Link) : (s.setLink x).dir = s.dir := rfl
@[simp] theorem State.setLink_blocks (s : State) (x : Link) : (s.setLink x).blocks = s.blocks := rfl
@[simp] theorem State.setLink_replicas (s : State) (x : Link) : (s.setLink x).replicas = s.replicas := rfl
@[simp] theorem State.setLink_invals (s : State) (x : Link) : (s.setLink x).invals = s.invals := rfl
@[simp] theorem State.setLink_retired (s : State) (x : Link) : (s.setLink x).retired = s.retired := rfl
@[simp] theorem State.setLink_halvings (s : State) (x : Link) : (s.setLink x).halvings = s.halvings := rfl
@[simp] theorem State.setLink_trees (s : State) (x : Link) : (s.setLink x).trees = s.trees := rfl
@[simp] theorem State.setLink_credits (s : State) (x : Link) : (s.setLink x).credits = s.credits := rfl
@[simp] theorem State.setLink_lastServed (s : State) (x : Link) : (s.setLink x).lastServed = s.lastServed := rfl
@[simp] theorem State.setLink_lastQueue (s : State) (x : Link) : (s.setLink x).lastQueue = s.lastQueue := rfl
@[simp] theorem State.setLink_ports (s : State) (x : Link) : (s.setLink x).ports = s.ports := rfl
@[simp] theorem State.setLink_outstanding (s : State) (x : Link) : (s.setLink x).outstanding = s.outstanding := rfl
@[simp] theorem State.setLink_unsent (s : State) (x : Link) : (s.setLink x).unsent = s.unsent := rfl
@[simp] theorem State.setLink_owed (s : State) (x : Link) : (s.setLink x).owed = s.owed := rfl
@[simp] theorem State.setLink_recoveryWindow (s : State) (x : Link) : (s.setLink x).recoveryWindow = s.recoveryWindow := rfl
@[simp] theorem State.setLink_owner (s : State) (x : Link) : (s.setLink x).owner = s.owner := rfl
@[simp] theorem State.setLink_successor (s : State) (x : Link) : (s.setLink x).successor = s.successor := rfl
@[simp] theorem State.setLink_broughtUp (s : State) (x : Link) : (s.setLink x).broughtUp = s.broughtUp := rfl
@[simp] theorem State.setLink_firmware (s : State) (x : Link) : (s.setLink x).firmware = s.firmware := rfl
@[simp] theorem State.setLink_mhz (s : State) (x : Link) : (s.setLink x).mhz = s.mhz := rfl
@[simp] theorem State.setLink_clock (s : State) (x : Link) : (s.setLink x).clock = s.clock := rfl
@[simp] theorem State.setLink_mesh (s : State) (x : Link) : (s.setLink x).mesh = s.mesh := rfl
@[simp] theorem State.setLink_dressNext (s : State) (x : Link) : (s.setLink x).dressNext = s.dressNext := rfl
@[simp] theorem State.setLink_skipped (s : State) (x : Link) : (s.setLink x).skipped = s.skipped := rfl
@[simp] theorem State.setLink_overrides (s : State) (x : Link) : (s.setLink x).overrides = s.overrides := rfl
@[simp] theorem State.setLink_inbox (s : State) (x : Link) : (s.setLink x).inbox = s.inbox := rfl
@[simp] theorem State.setLink_outbox (s : State) (x : Link) : (s.setLink x).outbox = s.outbox := rfl
@[simp] theorem State.setLink_cur (s : State) (x : Link) : (s.setLink x).cur = s.cur := rfl
@[simp] theorem State.setLink_agenda (s : State) (x : Link) : (s.setLink x).agenda = s.agenda := rfl
@[simp] theorem State.setLink_turns (s : State) (x : Link) : (s.setLink x).turns = s.turns := rfl
@[simp] theorem State.setLink_tick (s : State) (x : Link) : (s.setLink x).tick = s.tick := rfl
@[simp] theorem State.setLink_nextGroup (s : State) (x : Link) : (s.setLink x).nextGroup = s.nextGroup := rfl
@[simp] theorem State.setLink_nextCrew (s : State) (x : Link) : (s.setLink x).nextCrew = s.nextCrew := rfl
@[simp] theorem State.setLink_nextTag (s : State) (x : Link) : (s.setLink x).nextTag = s.nextTag := rfl
@[simp] theorem State.setLink_nextOrder (s : State) (x : Link) : (s.setLink x).nextOrder = s.nextOrder := rfl
@[simp] theorem State.setLink_lastCore (s : State) (x : Link) : (s.setLink x).lastCore = s.lastCore := rfl

/-! ## Reading behind an update -/

@[simp] theorem State.group?_setGroup (s : State) (g : Nat) (x : Group) (k : Nat) :
    (s.setGroup g x).group? k = if k = g then some x else s.group? k := by simp [State.group?, State.setGroup]
@[simp] theorem State.group?_modGroup (s : State) (g : Nat) (f : Group → Group) (k : Nat) :
    (s.modGroup g f).group? k = if k = g then (s.group? k).map f else s.group? k := by simp [State.group?, State.modGroup]
@[simp] theorem State.crew?_setCrew (s : State) (c : Nat) (x : Crew) (k : Nat) :
    (s.setCrew c x).crew? k = if k = c then some x else s.crew? k := by simp [State.crew?, State.setCrew]
@[simp] theorem State.crew?_modCrew (s : State) (c : Nat) (f : Crew → Crew) (k : Nat) :
    (s.modCrew c f).crew? k = if k = c then (s.crew? k).map f else s.crew? k := by simp [State.crew?, State.modCrew]
@[simp] theorem State.launch?_setLaunch (s : State) (l : Nat) (x : Launch) (k : Nat) :
    (s.setLaunch l x).launch? k = if k = l then some x else s.launch? k := by simp [State.launch?, State.setLaunch]
@[simp] theorem State.launch?_modLaunch (s : State) (l : Nat) (f : Launch → Launch) (k : Nat) :
    (s.modLaunch l f).launch? k = if k = l then (s.launch? k).map f else s.launch? k := by simp [State.launch?, State.modLaunch]
@[simp] theorem State.context?_setContext (s : State) (c : Nat) (x : Context) (k : Nat) :
    (s.setContext c x).context? k = if k = c then some x else s.context? k := by simp [State.context?, State.setContext]
@[simp] theorem State.context?_modContext (s : State) (c : Nat) (f : Context → Context) (k : Nat) :
    (s.modContext c f).context? k = if k = c then (s.context? k).map f else s.context? k := by
  simp [State.context?, State.modContext]
@[simp] theorem State.coreSt_setCore (s : State) (n : Nat) (x : CoreSt) (k : Nat) :
    (s.setCore n x).coreSt k = if k = n then x else s.coreSt k := by simp [State.coreSt, State.setCore]
@[simp] theorem State.coreSt_modCore (s : State) (n : Nat) (f : CoreSt → CoreSt) (k : Nat) :
    (s.modCore n f).coreSt k = if k = n then f (s.coreSt n) else s.coreSt k := by simp [State.modCore]

@[simp] theorem State.crew?_setGroup (s : State) (g : Nat) (x : Group) (key : Nat) : (s.setGroup g x).crew? key = s.crew? key := rfl
@[simp] theorem State.launch?_setGroup (s : State) (g : Nat) (x : Group) (key : Nat) : (s.setGroup g x).launch? key = s.launch? key := rfl
@[simp] theorem State.context?_setGroup (s : State) (g : Nat) (x : Group) (key : Nat) : (s.setGroup g x).context? key = s.context? key := rfl
@[simp] theorem State.coreSt_setGroup (s : State) (g : Nat) (x : Group) (key : Nat) : (s.setGroup g x).coreSt key = s.coreSt key := rfl
@[simp] theorem State.wbOf_setGroup (s : State) (g : Nat) (x : Group) (key : Nat) : (s.setGroup g x).wbOf key = s.wbOf key := rfl
@[simp] theorem State.crew?_modGroup (s : State) (g : Nat) (f : Group → Group) (key : Nat) : (s.modGroup g f).crew? key = s.crew? key := rfl
@[simp] theorem State.launch?_modGroup (s : State) (g : Nat) (f : Group → Group) (key : Nat) : (s.modGroup g f).launch? key = s.launch? key := rfl
@[simp] theorem State.context?_modGroup (s : State) (g : Nat) (f : Group → Group) (key : Nat) : (s.modGroup g f).context? key = s.context? key := rfl
@[simp] theorem State.coreSt_modGroup (s : State) (g : Nat) (f : Group → Group) (key : Nat) : (s.modGroup g f).coreSt key = s.coreSt key := rfl
@[simp] theorem State.wbOf_modGroup (s : State) (g : Nat) (f : Group → Group) (key : Nat) : (s.modGroup g f).wbOf key = s.wbOf key := rfl
@[simp] theorem State.group?_setCrew (s : State) (c : Nat) (x : Crew) (key : Nat) : (s.setCrew c x).group? key = s.group? key := rfl
@[simp] theorem State.launch?_setCrew (s : State) (c : Nat) (x : Crew) (key : Nat) : (s.setCrew c x).launch? key = s.launch? key := rfl
@[simp] theorem State.context?_setCrew (s : State) (c : Nat) (x : Crew) (key : Nat) : (s.setCrew c x).context? key = s.context? key := rfl
@[simp] theorem State.coreSt_setCrew (s : State) (c : Nat) (x : Crew) (key : Nat) : (s.setCrew c x).coreSt key = s.coreSt key := rfl
@[simp] theorem State.wbOf_setCrew (s : State) (c : Nat) (x : Crew) (key : Nat) : (s.setCrew c x).wbOf key = s.wbOf key := rfl
@[simp] theorem State.group?_modCrew (s : State) (c : Nat) (f : Crew → Crew) (key : Nat) : (s.modCrew c f).group? key = s.group? key := rfl
@[simp] theorem State.launch?_modCrew (s : State) (c : Nat) (f : Crew → Crew) (key : Nat) : (s.modCrew c f).launch? key = s.launch? key := rfl
@[simp] theorem State.context?_modCrew (s : State) (c : Nat) (f : Crew → Crew) (key : Nat) : (s.modCrew c f).context? key = s.context? key := rfl
@[simp] theorem State.coreSt_modCrew (s : State) (c : Nat) (f : Crew → Crew) (key : Nat) : (s.modCrew c f).coreSt key = s.coreSt key := rfl
@[simp] theorem State.wbOf_modCrew (s : State) (c : Nat) (f : Crew → Crew) (key : Nat) : (s.modCrew c f).wbOf key = s.wbOf key := rfl
@[simp] theorem State.group?_setLaunch (s : State) (l : Nat) (x : Launch) (key : Nat) : (s.setLaunch l x).group? key = s.group? key := rfl
@[simp] theorem State.crew?_setLaunch (s : State) (l : Nat) (x : Launch) (key : Nat) : (s.setLaunch l x).crew? key = s.crew? key := rfl
@[simp] theorem State.context?_setLaunch (s : State) (l : Nat) (x : Launch) (key : Nat) : (s.setLaunch l x).context? key = s.context? key := rfl
@[simp] theorem State.coreSt_setLaunch (s : State) (l : Nat) (x : Launch) (key : Nat) : (s.setLaunch l x).coreSt key = s.coreSt key := rfl
@[simp] theorem State.group?_modLaunch (s : State) (l : Nat) (f : Launch → Launch) (key : Nat) : (s.modLaunch l f).group? key = s.group? key := rfl
@[simp] theorem State.crew?_modLaunch (s : State) (l : Nat) (f : Launch → Launch) (key : Nat) : (s.modLaunch l f).crew? key = s.crew? key := rfl
@[simp] theorem State.context?_modLaunch (s : State) (l : Nat) (f : Launch → Launch) (key : Nat) : (s.modLaunch l f).context? key = s.context? key := rfl
@[simp] theorem State.coreSt_modLaunch (s : State) (l : Nat) (f : Launch → Launch) (key : Nat) : (s.modLaunch l f).coreSt key = s.coreSt key := rfl
@[simp] theorem State.group?_setContext (s : State) (c : Nat) (x : Context) (key : Nat) : (s.setContext c x).group? key = s.group? key := rfl
@[simp] theorem State.crew?_setContext (s : State) (c : Nat) (x : Context) (key : Nat) : (s.setContext c x).crew? key = s.crew? key := rfl
@[simp] theorem State.launch?_setContext (s : State) (c : Nat) (x : Context) (key : Nat) : (s.setContext c x).launch? key = s.launch? key := rfl
@[simp] theorem State.coreSt_setContext (s : State) (c : Nat) (x : Context) (key : Nat) : (s.setContext c x).coreSt key = s.coreSt key := rfl
@[simp] theorem State.wbOf_setContext (s : State) (c : Nat) (x : Context) (key : Nat) : (s.setContext c x).wbOf key = s.wbOf key := rfl
@[simp] theorem State.group?_modContext (s : State) (c : Nat) (f : Context → Context) (key : Nat) : (s.modContext c f).group? key = s.group? key := rfl
@[simp] theorem State.crew?_modContext (s : State) (c : Nat) (f : Context → Context) (key : Nat) : (s.modContext c f).crew? key = s.crew? key := rfl
@[simp] theorem State.launch?_modContext (s : State) (c : Nat) (f : Context → Context) (key : Nat) : (s.modContext c f).launch? key = s.launch? key := rfl
@[simp] theorem State.coreSt_modContext (s : State) (c : Nat) (f : Context → Context) (key : Nat) : (s.modContext c f).coreSt key = s.coreSt key := rfl
@[simp] theorem State.wbOf_modContext (s : State) (c : Nat) (f : Context → Context) (key : Nat) : (s.modContext c f).wbOf key = s.wbOf key := rfl
@[simp] theorem State.group?_setCore (s : State) (n : Nat) (x : CoreSt) (key : Nat) : (s.setCore n x).group? key = s.group? key := rfl
@[simp] theorem State.crew?_setCore (s : State) (n : Nat) (x : CoreSt) (key : Nat) : (s.setCore n x).crew? key = s.crew? key := rfl
@[simp] theorem State.launch?_setCore (s : State) (n : Nat) (x : CoreSt) (key : Nat) : (s.setCore n x).launch? key = s.launch? key := rfl
@[simp] theorem State.context?_setCore (s : State) (n : Nat) (x : CoreSt) (key : Nat) : (s.setCore n x).context? key = s.context? key := rfl
@[simp] theorem State.wbOf_setCore (s : State) (n : Nat) (x : CoreSt) (key : Nat) : (s.setCore n x).wbOf key = s.wbOf key := rfl
@[simp] theorem State.group?_modCore (s : State) (n : Nat) (f : CoreSt → CoreSt) (key : Nat) : (s.modCore n f).group? key = s.group? key := rfl
@[simp] theorem State.crew?_modCore (s : State) (n : Nat) (f : CoreSt → CoreSt) (key : Nat) : (s.modCore n f).crew? key = s.crew? key := rfl
@[simp] theorem State.launch?_modCore (s : State) (n : Nat) (f : CoreSt → CoreSt) (key : Nat) : (s.modCore n f).launch? key = s.launch? key := rfl
@[simp] theorem State.context?_modCore (s : State) (n : Nat) (f : CoreSt → CoreSt) (key : Nat) : (s.modCore n f).context? key = s.context? key := rfl
@[simp] theorem State.wbOf_modCore (s : State) (n : Nat) (f : CoreSt → CoreSt) (key : Nat) : (s.modCore n f).wbOf key = s.wbOf key := rfl
@[simp] theorem State.group?_due (s : State) (i : Instr) (key : Nat) : (s.due i).group? key = s.group? key := rfl
@[simp] theorem State.crew?_due (s : State) (i : Instr) (key : Nat) : (s.due i).crew? key = s.crew? key := rfl
@[simp] theorem State.launch?_due (s : State) (i : Instr) (key : Nat) : (s.due i).launch? key = s.launch? key := rfl
@[simp] theorem State.context?_due (s : State) (i : Instr) (key : Nat) : (s.due i).context? key = s.context? key := rfl
@[simp] theorem State.coreSt_due (s : State) (i : Instr) (key : Nat) : (s.due i).coreSt key = s.coreSt key := rfl
@[simp] theorem State.wbOf_due (s : State) (i : Instr) (key : Nat) : (s.due i).wbOf key = s.wbOf key := rfl
@[simp] theorem State.group?_dueAll (s : State) (l : List Instr) (key : Nat) : (s.dueAll l).group? key = s.group? key := rfl
@[simp] theorem State.crew?_dueAll (s : State) (l : List Instr) (key : Nat) : (s.dueAll l).crew? key = s.crew? key := rfl
@[simp] theorem State.launch?_dueAll (s : State) (l : List Instr) (key : Nat) : (s.dueAll l).launch? key = s.launch? key := rfl
@[simp] theorem State.context?_dueAll (s : State) (l : List Instr) (key : Nat) : (s.dueAll l).context? key = s.context? key := rfl
@[simp] theorem State.coreSt_dueAll (s : State) (l : List Instr) (key : Nat) : (s.dueAll l).coreSt key = s.coreSt key := rfl
@[simp] theorem State.wbOf_dueAll (s : State) (l : List Instr) (key : Nat) : (s.dueAll l).wbOf key = s.wbOf key := rfl
@[simp] theorem State.group?_setLink (s : State) (x : Link) (key : Nat) : (s.setLink x).group? key = s.group? key := rfl
@[simp] theorem State.crew?_setLink (s : State) (x : Link) (key : Nat) : (s.setLink x).crew? key = s.crew? key := rfl
@[simp] theorem State.launch?_setLink (s : State) (x : Link) (key : Nat) : (s.setLink x).launch? key = s.launch? key := rfl
@[simp] theorem State.context?_setLink (s : State) (x : Link) (key : Nat) : (s.setLink x).context? key = s.context? key := rfl
@[simp] theorem State.coreSt_setLink (s : State) (x : Link) (key : Nat) : (s.setLink x).coreSt key = s.coreSt key := rfl
@[simp] theorem State.wbOf_setLink (s : State) (x : Link) (key : Nat) : (s.setLink x).wbOf key = s.wbOf key := rfl

/-! ## The updates of a group -/

@[simp] theorem Group.setScalar_crew (g : Group) (r : Nat) (v : DWord) : (g.setScalar r v).crew = g.crew := by unfold Group.setScalar; split <;> rfl
@[simp] theorem Group.setScalar_f1 (g : Group) (r : Nat) (v : DWord) : (g.setScalar r v).f1 = g.f1 := by unfold Group.setScalar; split <;> rfl
@[simp] theorem Group.setScalar_index (g : Group) (r : Nat) (v : DWord) : (g.setScalar r v).index = g.index := by unfold Group.setScalar; split <;> rfl
@[simp] theorem Group.setScalar_w0 (g : Group) (r : Nat) (v : DWord) : (g.setScalar r v).w0 = g.w0 := by unfold Group.setScalar; split <;> rfl
@[simp] theorem Group.setScalar_slotA (g : Group) (r : Nat) (v : DWord) : (g.setScalar r v).slotA = g.slotA := by unfold Group.setScalar; split <;> rfl
@[simp] theorem Group.setScalar_slotB (g : Group) (r : Nat) (v : DWord) : (g.setScalar r v).slotB = g.slotB := by unfold Group.setScalar; split <;> rfl
@[simp] theorem Group.setScalar_spilled (g : Group) (r : Nat) (v : DWord) : (g.setScalar r v).spilled = g.spilled := by unfold Group.setScalar; split <;> rfl
@[simp] theorem Group.setScalar_records (g : Group) (r : Nat) (v : DWord) : (g.setScalar r v).records = g.records := by unfold Group.setScalar; split <;> rfl
@[simp] theorem Group.setScalar_exited (g : Group) (r : Nat) (v : DWord) : (g.setScalar r v).exited = g.exited := by unfold Group.setScalar; split <;> rfl
@[simp] theorem Group.setScalar_c (g : Group) (r : Nat) (v : DWord) : (g.setScalar r v).c = g.c := by unfold Group.setScalar; split <;> rfl
@[simp] theorem Group.setScalar_preds (g : Group) (r : Nat) (v : DWord) : (g.setScalar r v).preds = g.preds := by unfold Group.setScalar; split <;> rfl
@[simp] theorem Group.setScalar_vregs (g : Group) (r : Nat) (v : DWord) : (g.setScalar r v).vregs = g.vregs := by unfold Group.setScalar; split <;> rfl
@[simp] theorem Group.setScalar_gstat (g : Group) (r : Nat) (v : DWord) : (g.setScalar r v).gstat = g.gstat := by unfold Group.setScalar; split <;> rfl
@[simp] theorem Group.setScalar_gc (g : Group) (r : Nat) (v : DWord) : (g.setScalar r v).gc = g.gc := by unfold Group.setScalar; split <;> rfl
@[simp] theorem Group.setScalar_mst (g : Group) (r : Nat) (v : DWord) : (g.setScalar r v).mst = g.mst := by unfold Group.setScalar; split <;> rfl
@[simp] theorem Group.setScalar_prog (g : Group) (r : Nat) (v : DWord) : (g.setScalar r v).prog = g.prog := by unfold Group.setScalar; split <;> rfl
@[simp] theorem Group.setScalar_bnc (g : Group) (r : Nat) (v : DWord) : (g.setScalar r v).bnc = g.bnc := by unfold Group.setScalar; split <;> rfl
@[simp] theorem Group.setScalar_bnm (g : Group) (r : Nat) (v : DWord) : (g.setScalar r v).bnm = g.bnm := by unfold Group.setScalar; split <;> rfl
@[simp] theorem Group.setScalar_ire (g : Group) (r : Nat) (v : DWord) : (g.setScalar r v).ire = g.ire := by unfold Group.setScalar; split <;> rfl
@[simp] theorem Group.setScalar_region (g : Group) (r : Nat) (v : DWord) : (g.setScalar r v).region = g.region := by unfold Group.setScalar; split <;> rfl
@[simp] theorem Group.setScalar_handler (g : Group) (r : Nat) (v : DWord) : (g.setScalar r v).handler = g.handler := by unfold Group.setScalar; split <;> rfl
@[simp] theorem Group.setScalar_trapRec (g : Group) (r : Nat) (v : DWord) : (g.setScalar r v).trapRec = g.trapRec := by unfold Group.setScalar; split <;> rfl
@[simp] theorem Group.setScalar_keep (g : Group) (r : Nat) (v : DWord) : (g.setScalar r v).keep = g.keep := by unfold Group.setScalar; split <;> rfl
@[simp] theorem Group.setScalar_priv (g : Group) (r : Nat) (v : DWord) : (g.setScalar r v).priv = g.priv := by unfold Group.setScalar; split <;> rfl
@[simp] theorem Group.setScalar_privBad (g : Group) (r : Nat) (v : DWord) : (g.setScalar r v).privBad = g.privBad := by unfold Group.setScalar; split <;> rfl
@[simp] theorem Group.setScalar_privBase (g : Group) (r : Nat) (v : DWord) : (g.setScalar r v).privBase = g.privBase := by unfold Group.setScalar; split <;> rfl
@[simp] theorem Group.setScalar_watch (g : Group) (r : Nat) (v : DWord) : (g.setScalar r v).watch = g.watch := by unfold Group.setScalar; split <;> rfl
@[simp] theorem Group.setScalar_lanePhase (g : Group) (r : Nat) (v : DWord) : (g.setScalar r v).lanePhase = g.lanePhase := by unfold Group.setScalar; split <;> rfl
@[simp] theorem Group.setScalar_tiles (g : Group) (r : Nat) (v : DWord) : (g.setScalar r v).tiles = g.tiles := by unfold Group.setScalar; split <;> rfl
@[simp] theorem Group.setScalar_sides (g : Group) (r : Nat) (v : DWord) : (g.setScalar r v).sides = g.sides := by unfold Group.setScalar; split <;> rfl
@[simp] theorem Group.setScalar_opCount (g : Group) (r : Nat) (v : DWord) : (g.setScalar r v).opCount = g.opCount := by unfold Group.setScalar; split <;> rfl
@[simp] theorem Group.setScalar_failures (g : Group) (r : Nat) (v : DWord) : (g.setScalar r v).failures = g.failures := by unfold Group.setScalar; split <;> rfl
@[simp] theorem Group.setScalar_dzwDue (g : Group) (r : Nat) (v : DWord) : (g.setScalar r v).dzwDue = g.dzwDue := by unfold Group.setScalar; split <;> rfl
@[simp] theorem Group.setScalar_remoteOut (g : Group) (r : Nat) (v : DWord) : (g.setScalar r v).remoteOut = g.remoteOut := by unfold Group.setScalar; split <;> rfl
@[simp] theorem Group.setScalar_swapped (g : Group) (r : Nat) (v : DWord) : (g.setScalar r v).swapped = g.swapped := by unfold Group.setScalar; split <;> rfl
@[simp] theorem Group.setScalar_leaving (g : Group) (r : Nat) (v : DWord) : (g.setScalar r v).leaving = g.leaving := by unfold Group.setScalar; split <;> rfl
@[simp] theorem Group.setScalar_swapBad (g : Group) (r : Nat) (v : DWord) : (g.setScalar r v).swapBad = g.swapBad := by unfold Group.setScalar; split <;> rfl
@[simp] theorem Group.setScalar_halt (g : Group) (r : Nat) (v : DWord) : (g.setScalar r v).halt = g.halt := by unfold Group.setScalar; split <;> rfl
@[simp] theorem Group.setScalar_restart (g : Group) (r : Nat) (v : DWord) : (g.setScalar r v).restart = g.restart := by unfold Group.setScalar; split <;> rfl
@[simp] theorem Group.setScalar_arriving (g : Group) (r : Nat) (v : DWord) : (g.setScalar r v).arriving = g.arriving := by unfold Group.setScalar; split <;> rfl
@[simp] theorem Group.setScalar_damage (g : Group) (r : Nat) (v : DWord) : (g.setScalar r v).damage = g.damage := by unfold Group.setScalar; split <;> rfl
@[simp] theorem Group.setScalar_active (g : Group) (r : Nat) (v : DWord) : (g.setScalar r v).active = g.active := by unfold Group.setScalar; split <;> rfl
@[simp] theorem Group.setScalar_template (g : Group) (r : Nat) (v : DWord) : (g.setScalar r v).template = g.template := by unfold Group.setScalar; split <;> rfl

@[simp] theorem Group.emptyScalar_crew (g : Group) (r k : Nat) : (g.emptyScalar r k).crew = g.crew := by unfold Group.emptyScalar; split <;> rfl
@[simp] theorem Group.emptyScalar_f1 (g : Group) (r k : Nat) : (g.emptyScalar r k).f1 = g.f1 := by unfold Group.emptyScalar; split <;> rfl
@[simp] theorem Group.emptyScalar_index (g : Group) (r k : Nat) : (g.emptyScalar r k).index = g.index := by unfold Group.emptyScalar; split <;> rfl
@[simp] theorem Group.emptyScalar_w0 (g : Group) (r k : Nat) : (g.emptyScalar r k).w0 = g.w0 := by unfold Group.emptyScalar; split <;> rfl
@[simp] theorem Group.emptyScalar_slotA (g : Group) (r k : Nat) : (g.emptyScalar r k).slotA = g.slotA := by unfold Group.emptyScalar; split <;> rfl
@[simp] theorem Group.emptyScalar_slotB (g : Group) (r k : Nat) : (g.emptyScalar r k).slotB = g.slotB := by unfold Group.emptyScalar; split <;> rfl
@[simp] theorem Group.emptyScalar_spilled (g : Group) (r k : Nat) : (g.emptyScalar r k).spilled = g.spilled := by unfold Group.emptyScalar; split <;> rfl
@[simp] theorem Group.emptyScalar_records (g : Group) (r k : Nat) : (g.emptyScalar r k).records = g.records := by unfold Group.emptyScalar; split <;> rfl
@[simp] theorem Group.emptyScalar_exited (g : Group) (r k : Nat) : (g.emptyScalar r k).exited = g.exited := by unfold Group.emptyScalar; split <;> rfl
@[simp] theorem Group.emptyScalar_c (g : Group) (r k : Nat) : (g.emptyScalar r k).c = g.c := by unfold Group.emptyScalar; split <;> rfl
@[simp] theorem Group.emptyScalar_preds (g : Group) (r k : Nat) : (g.emptyScalar r k).preds = g.preds := by unfold Group.emptyScalar; split <;> rfl
@[simp] theorem Group.emptyScalar_vregs (g : Group) (r k : Nat) : (g.emptyScalar r k).vregs = g.vregs := by unfold Group.emptyScalar; split <;> rfl
@[simp] theorem Group.emptyScalar_gstat (g : Group) (r k : Nat) : (g.emptyScalar r k).gstat = g.gstat := by unfold Group.emptyScalar; split <;> rfl
@[simp] theorem Group.emptyScalar_gc (g : Group) (r k : Nat) : (g.emptyScalar r k).gc = g.gc := by unfold Group.emptyScalar; split <;> rfl
@[simp] theorem Group.emptyScalar_mst (g : Group) (r k : Nat) : (g.emptyScalar r k).mst = g.mst := by unfold Group.emptyScalar; split <;> rfl
@[simp] theorem Group.emptyScalar_prog (g : Group) (r k : Nat) : (g.emptyScalar r k).prog = g.prog := by unfold Group.emptyScalar; split <;> rfl
@[simp] theorem Group.emptyScalar_bnc (g : Group) (r k : Nat) : (g.emptyScalar r k).bnc = g.bnc := by unfold Group.emptyScalar; split <;> rfl
@[simp] theorem Group.emptyScalar_bnm (g : Group) (r k : Nat) : (g.emptyScalar r k).bnm = g.bnm := by unfold Group.emptyScalar; split <;> rfl
@[simp] theorem Group.emptyScalar_ire (g : Group) (r k : Nat) : (g.emptyScalar r k).ire = g.ire := by unfold Group.emptyScalar; split <;> rfl
@[simp] theorem Group.emptyScalar_region (g : Group) (r k : Nat) : (g.emptyScalar r k).region = g.region := by unfold Group.emptyScalar; split <;> rfl
@[simp] theorem Group.emptyScalar_handler (g : Group) (r k : Nat) : (g.emptyScalar r k).handler = g.handler := by unfold Group.emptyScalar; split <;> rfl
@[simp] theorem Group.emptyScalar_trapRec (g : Group) (r k : Nat) : (g.emptyScalar r k).trapRec = g.trapRec := by unfold Group.emptyScalar; split <;> rfl
@[simp] theorem Group.emptyScalar_keep (g : Group) (r k : Nat) : (g.emptyScalar r k).keep = g.keep := by unfold Group.emptyScalar; split <;> rfl
@[simp] theorem Group.emptyScalar_priv (g : Group) (r k : Nat) : (g.emptyScalar r k).priv = g.priv := by unfold Group.emptyScalar; split <;> rfl
@[simp] theorem Group.emptyScalar_privBad (g : Group) (r k : Nat) : (g.emptyScalar r k).privBad = g.privBad := by unfold Group.emptyScalar; split <;> rfl
@[simp] theorem Group.emptyScalar_privBase (g : Group) (r k : Nat) : (g.emptyScalar r k).privBase = g.privBase := by unfold Group.emptyScalar; split <;> rfl
@[simp] theorem Group.emptyScalar_watch (g : Group) (r k : Nat) : (g.emptyScalar r k).watch = g.watch := by unfold Group.emptyScalar; split <;> rfl
@[simp] theorem Group.emptyScalar_lanePhase (g : Group) (r k : Nat) : (g.emptyScalar r k).lanePhase = g.lanePhase := by unfold Group.emptyScalar; split <;> rfl
@[simp] theorem Group.emptyScalar_tiles (g : Group) (r k : Nat) : (g.emptyScalar r k).tiles = g.tiles := by unfold Group.emptyScalar; split <;> rfl
@[simp] theorem Group.emptyScalar_sides (g : Group) (r k : Nat) : (g.emptyScalar r k).sides = g.sides := by unfold Group.emptyScalar; split <;> rfl
@[simp] theorem Group.emptyScalar_opCount (g : Group) (r k : Nat) : (g.emptyScalar r k).opCount = g.opCount := by unfold Group.emptyScalar; split <;> rfl
@[simp] theorem Group.emptyScalar_failures (g : Group) (r k : Nat) : (g.emptyScalar r k).failures = g.failures := by unfold Group.emptyScalar; split <;> rfl
@[simp] theorem Group.emptyScalar_dzwDue (g : Group) (r k : Nat) : (g.emptyScalar r k).dzwDue = g.dzwDue := by unfold Group.emptyScalar; split <;> rfl
@[simp] theorem Group.emptyScalar_remoteOut (g : Group) (r k : Nat) : (g.emptyScalar r k).remoteOut = g.remoteOut := by unfold Group.emptyScalar; split <;> rfl
@[simp] theorem Group.emptyScalar_swapped (g : Group) (r k : Nat) : (g.emptyScalar r k).swapped = g.swapped := by unfold Group.emptyScalar; split <;> rfl
@[simp] theorem Group.emptyScalar_leaving (g : Group) (r k : Nat) : (g.emptyScalar r k).leaving = g.leaving := by unfold Group.emptyScalar; split <;> rfl
@[simp] theorem Group.emptyScalar_swapBad (g : Group) (r k : Nat) : (g.emptyScalar r k).swapBad = g.swapBad := by unfold Group.emptyScalar; split <;> rfl
@[simp] theorem Group.emptyScalar_halt (g : Group) (r k : Nat) : (g.emptyScalar r k).halt = g.halt := by unfold Group.emptyScalar; split <;> rfl
@[simp] theorem Group.emptyScalar_restart (g : Group) (r k : Nat) : (g.emptyScalar r k).restart = g.restart := by unfold Group.emptyScalar; split <;> rfl
@[simp] theorem Group.emptyScalar_arriving (g : Group) (r k : Nat) : (g.emptyScalar r k).arriving = g.arriving := by unfold Group.emptyScalar; split <;> rfl
@[simp] theorem Group.emptyScalar_damage (g : Group) (r k : Nat) : (g.emptyScalar r k).damage = g.damage := by unfold Group.emptyScalar; split <;> rfl
@[simp] theorem Group.emptyScalar_active (g : Group) (r k : Nat) : (g.emptyScalar r k).active = g.active := by unfold Group.emptyScalar; split <;> rfl
@[simp] theorem Group.emptyScalar_template (g : Group) (r k : Nat) : (g.emptyScalar r k).template = g.template := by unfold Group.emptyScalar; split <;> rfl

@[simp] theorem Group.setC_crew (g : Group) (k : Nat) (b : Bool) : (g.setC k b).crew = g.crew := by unfold Group.setC; split <;> rfl
@[simp] theorem Group.setC_f1 (g : Group) (k : Nat) (b : Bool) : (g.setC k b).f1 = g.f1 := by unfold Group.setC; split <;> rfl
@[simp] theorem Group.setC_index (g : Group) (k : Nat) (b : Bool) : (g.setC k b).index = g.index := by unfold Group.setC; split <;> rfl
@[simp] theorem Group.setC_w0 (g : Group) (k : Nat) (b : Bool) : (g.setC k b).w0 = g.w0 := by unfold Group.setC; split <;> rfl
@[simp] theorem Group.setC_slotA (g : Group) (k : Nat) (b : Bool) : (g.setC k b).slotA = g.slotA := by unfold Group.setC; split <;> rfl
@[simp] theorem Group.setC_slotB (g : Group) (k : Nat) (b : Bool) : (g.setC k b).slotB = g.slotB := by unfold Group.setC; split <;> rfl
@[simp] theorem Group.setC_spilled (g : Group) (k : Nat) (b : Bool) : (g.setC k b).spilled = g.spilled := by unfold Group.setC; split <;> rfl
@[simp] theorem Group.setC_records (g : Group) (k : Nat) (b : Bool) : (g.setC k b).records = g.records := by unfold Group.setC; split <;> rfl
@[simp] theorem Group.setC_exited (g : Group) (k : Nat) (b : Bool) : (g.setC k b).exited = g.exited := by unfold Group.setC; split <;> rfl
@[simp] theorem Group.setC_scalars (g : Group) (k : Nat) (b : Bool) : (g.setC k b).scalars = g.scalars := by unfold Group.setC; split <;> rfl
@[simp] theorem Group.setC_preds (g : Group) (k : Nat) (b : Bool) : (g.setC k b).preds = g.preds := by unfold Group.setC; split <;> rfl
@[simp] theorem Group.setC_vregs (g : Group) (k : Nat) (b : Bool) : (g.setC k b).vregs = g.vregs := by unfold Group.setC; split <;> rfl
@[simp] theorem Group.setC_gstat (g : Group) (k : Nat) (b : Bool) : (g.setC k b).gstat = g.gstat := by unfold Group.setC; split <;> rfl
@[simp] theorem Group.setC_gc (g : Group) (k : Nat) (b : Bool) : (g.setC k b).gc = g.gc := by unfold Group.setC; split <;> rfl
@[simp] theorem Group.setC_mst (g : Group) (k : Nat) (b : Bool) : (g.setC k b).mst = g.mst := by unfold Group.setC; split <;> rfl
@[simp] theorem Group.setC_prog (g : Group) (k : Nat) (b : Bool) : (g.setC k b).prog = g.prog := by unfold Group.setC; split <;> rfl
@[simp] theorem Group.setC_bnc (g : Group) (k : Nat) (b : Bool) : (g.setC k b).bnc = g.bnc := by unfold Group.setC; split <;> rfl
@[simp] theorem Group.setC_bnm (g : Group) (k : Nat) (b : Bool) : (g.setC k b).bnm = g.bnm := by unfold Group.setC; split <;> rfl
@[simp] theorem Group.setC_ire (g : Group) (k : Nat) (b : Bool) : (g.setC k b).ire = g.ire := by unfold Group.setC; split <;> rfl
@[simp] theorem Group.setC_region (g : Group) (k : Nat) (b : Bool) : (g.setC k b).region = g.region := by unfold Group.setC; split <;> rfl
@[simp] theorem Group.setC_handler (g : Group) (k : Nat) (b : Bool) : (g.setC k b).handler = g.handler := by unfold Group.setC; split <;> rfl
@[simp] theorem Group.setC_trapRec (g : Group) (k : Nat) (b : Bool) : (g.setC k b).trapRec = g.trapRec := by unfold Group.setC; split <;> rfl
@[simp] theorem Group.setC_keep (g : Group) (k : Nat) (b : Bool) : (g.setC k b).keep = g.keep := by unfold Group.setC; split <;> rfl
@[simp] theorem Group.setC_priv (g : Group) (k : Nat) (b : Bool) : (g.setC k b).priv = g.priv := by unfold Group.setC; split <;> rfl
@[simp] theorem Group.setC_privBad (g : Group) (k : Nat) (b : Bool) : (g.setC k b).privBad = g.privBad := by unfold Group.setC; split <;> rfl
@[simp] theorem Group.setC_privBase (g : Group) (k : Nat) (b : Bool) : (g.setC k b).privBase = g.privBase := by unfold Group.setC; split <;> rfl
@[simp] theorem Group.setC_watch (g : Group) (k : Nat) (b : Bool) : (g.setC k b).watch = g.watch := by unfold Group.setC; split <;> rfl
@[simp] theorem Group.setC_lanePhase (g : Group) (k : Nat) (b : Bool) : (g.setC k b).lanePhase = g.lanePhase := by unfold Group.setC; split <;> rfl
@[simp] theorem Group.setC_tiles (g : Group) (k : Nat) (b : Bool) : (g.setC k b).tiles = g.tiles := by unfold Group.setC; split <;> rfl
@[simp] theorem Group.setC_sides (g : Group) (k : Nat) (b : Bool) : (g.setC k b).sides = g.sides := by unfold Group.setC; split <;> rfl
@[simp] theorem Group.setC_opCount (g : Group) (k : Nat) (b : Bool) : (g.setC k b).opCount = g.opCount := by unfold Group.setC; split <;> rfl
@[simp] theorem Group.setC_failures (g : Group) (k : Nat) (b : Bool) : (g.setC k b).failures = g.failures := by unfold Group.setC; split <;> rfl
@[simp] theorem Group.setC_dzwDue (g : Group) (k : Nat) (b : Bool) : (g.setC k b).dzwDue = g.dzwDue := by unfold Group.setC; split <;> rfl
@[simp] theorem Group.setC_remoteOut (g : Group) (k : Nat) (b : Bool) : (g.setC k b).remoteOut = g.remoteOut := by unfold Group.setC; split <;> rfl
@[simp] theorem Group.setC_swapped (g : Group) (k : Nat) (b : Bool) : (g.setC k b).swapped = g.swapped := by unfold Group.setC; split <;> rfl
@[simp] theorem Group.setC_leaving (g : Group) (k : Nat) (b : Bool) : (g.setC k b).leaving = g.leaving := by unfold Group.setC; split <;> rfl
@[simp] theorem Group.setC_swapBad (g : Group) (k : Nat) (b : Bool) : (g.setC k b).swapBad = g.swapBad := by unfold Group.setC; split <;> rfl
@[simp] theorem Group.setC_halt (g : Group) (k : Nat) (b : Bool) : (g.setC k b).halt = g.halt := by unfold Group.setC; split <;> rfl
@[simp] theorem Group.setC_restart (g : Group) (k : Nat) (b : Bool) : (g.setC k b).restart = g.restart := by unfold Group.setC; split <;> rfl
@[simp] theorem Group.setC_arriving (g : Group) (k : Nat) (b : Bool) : (g.setC k b).arriving = g.arriving := by unfold Group.setC; split <;> rfl
@[simp] theorem Group.setC_active (g : Group) (k : Nat) (b : Bool) : (g.setC k b).active = g.active := by unfold Group.setC; split <;> rfl
@[simp] theorem Group.setC_template (g : Group) (k : Nat) (b : Bool) : (g.setC k b).template = g.template := by unfold Group.setC; split <;> rfl

@[simp] theorem Group.setPred_crew (g : Group) (k : Nat) (l v : DWord) : (g.setPred k l v).crew = g.crew := by unfold Group.setPred; split <;> rfl
@[simp] theorem Group.setPred_f1 (g : Group) (k : Nat) (l v : DWord) : (g.setPred k l v).f1 = g.f1 := by unfold Group.setPred; split <;> rfl
@[simp] theorem Group.setPred_index (g : Group) (k : Nat) (l v : DWord) : (g.setPred k l v).index = g.index := by unfold Group.setPred; split <;> rfl
@[simp] theorem Group.setPred_w0 (g : Group) (k : Nat) (l v : DWord) : (g.setPred k l v).w0 = g.w0 := by unfold Group.setPred; split <;> rfl
@[simp] theorem Group.setPred_slotA (g : Group) (k : Nat) (l v : DWord) : (g.setPred k l v).slotA = g.slotA := by unfold Group.setPred; split <;> rfl
@[simp] theorem Group.setPred_slotB (g : Group) (k : Nat) (l v : DWord) : (g.setPred k l v).slotB = g.slotB := by unfold Group.setPred; split <;> rfl
@[simp] theorem Group.setPred_spilled (g : Group) (k : Nat) (l v : DWord) : (g.setPred k l v).spilled = g.spilled := by unfold Group.setPred; split <;> rfl
@[simp] theorem Group.setPred_records (g : Group) (k : Nat) (l v : DWord) : (g.setPred k l v).records = g.records := by unfold Group.setPred; split <;> rfl
@[simp] theorem Group.setPred_exited (g : Group) (k : Nat) (l v : DWord) : (g.setPred k l v).exited = g.exited := by unfold Group.setPred; split <;> rfl
@[simp] theorem Group.setPred_scalars (g : Group) (k : Nat) (l v : DWord) : (g.setPred k l v).scalars = g.scalars := by unfold Group.setPred; split <;> rfl
@[simp] theorem Group.setPred_c (g : Group) (k : Nat) (l v : DWord) : (g.setPred k l v).c = g.c := by unfold Group.setPred; split <;> rfl
@[simp] theorem Group.setPred_vregs (g : Group) (k : Nat) (l v : DWord) : (g.setPred k l v).vregs = g.vregs := by unfold Group.setPred; split <;> rfl
@[simp] theorem Group.setPred_gstat (g : Group) (k : Nat) (l v : DWord) : (g.setPred k l v).gstat = g.gstat := by unfold Group.setPred; split <;> rfl
@[simp] theorem Group.setPred_gc (g : Group) (k : Nat) (l v : DWord) : (g.setPred k l v).gc = g.gc := by unfold Group.setPred; split <;> rfl
@[simp] theorem Group.setPred_mst (g : Group) (k : Nat) (l v : DWord) : (g.setPred k l v).mst = g.mst := by unfold Group.setPred; split <;> rfl
@[simp] theorem Group.setPred_prog (g : Group) (k : Nat) (l v : DWord) : (g.setPred k l v).prog = g.prog := by unfold Group.setPred; split <;> rfl
@[simp] theorem Group.setPred_bnc (g : Group) (k : Nat) (l v : DWord) : (g.setPred k l v).bnc = g.bnc := by unfold Group.setPred; split <;> rfl
@[simp] theorem Group.setPred_bnm (g : Group) (k : Nat) (l v : DWord) : (g.setPred k l v).bnm = g.bnm := by unfold Group.setPred; split <;> rfl
@[simp] theorem Group.setPred_ire (g : Group) (k : Nat) (l v : DWord) : (g.setPred k l v).ire = g.ire := by unfold Group.setPred; split <;> rfl
@[simp] theorem Group.setPred_region (g : Group) (k : Nat) (l v : DWord) : (g.setPred k l v).region = g.region := by unfold Group.setPred; split <;> rfl
@[simp] theorem Group.setPred_handler (g : Group) (k : Nat) (l v : DWord) : (g.setPred k l v).handler = g.handler := by unfold Group.setPred; split <;> rfl
@[simp] theorem Group.setPred_trapRec (g : Group) (k : Nat) (l v : DWord) : (g.setPred k l v).trapRec = g.trapRec := by unfold Group.setPred; split <;> rfl
@[simp] theorem Group.setPred_keep (g : Group) (k : Nat) (l v : DWord) : (g.setPred k l v).keep = g.keep := by unfold Group.setPred; split <;> rfl
@[simp] theorem Group.setPred_priv (g : Group) (k : Nat) (l v : DWord) : (g.setPred k l v).priv = g.priv := by unfold Group.setPred; split <;> rfl
@[simp] theorem Group.setPred_privBad (g : Group) (k : Nat) (l v : DWord) : (g.setPred k l v).privBad = g.privBad := by unfold Group.setPred; split <;> rfl
@[simp] theorem Group.setPred_privBase (g : Group) (k : Nat) (l v : DWord) : (g.setPred k l v).privBase = g.privBase := by unfold Group.setPred; split <;> rfl
@[simp] theorem Group.setPred_watch (g : Group) (k : Nat) (l v : DWord) : (g.setPred k l v).watch = g.watch := by unfold Group.setPred; split <;> rfl
@[simp] theorem Group.setPred_lanePhase (g : Group) (k : Nat) (l v : DWord) : (g.setPred k l v).lanePhase = g.lanePhase := by unfold Group.setPred; split <;> rfl
@[simp] theorem Group.setPred_tiles (g : Group) (k : Nat) (l v : DWord) : (g.setPred k l v).tiles = g.tiles := by unfold Group.setPred; split <;> rfl
@[simp] theorem Group.setPred_sides (g : Group) (k : Nat) (l v : DWord) : (g.setPred k l v).sides = g.sides := by unfold Group.setPred; split <;> rfl
@[simp] theorem Group.setPred_opCount (g : Group) (k : Nat) (l v : DWord) : (g.setPred k l v).opCount = g.opCount := by unfold Group.setPred; split <;> rfl
@[simp] theorem Group.setPred_failures (g : Group) (k : Nat) (l v : DWord) : (g.setPred k l v).failures = g.failures := by unfold Group.setPred; split <;> rfl
@[simp] theorem Group.setPred_dzwDue (g : Group) (k : Nat) (l v : DWord) : (g.setPred k l v).dzwDue = g.dzwDue := by unfold Group.setPred; split <;> rfl
@[simp] theorem Group.setPred_remoteOut (g : Group) (k : Nat) (l v : DWord) : (g.setPred k l v).remoteOut = g.remoteOut := by unfold Group.setPred; split <;> rfl
@[simp] theorem Group.setPred_swapped (g : Group) (k : Nat) (l v : DWord) : (g.setPred k l v).swapped = g.swapped := by unfold Group.setPred; split <;> rfl
@[simp] theorem Group.setPred_leaving (g : Group) (k : Nat) (l v : DWord) : (g.setPred k l v).leaving = g.leaving := by unfold Group.setPred; split <;> rfl
@[simp] theorem Group.setPred_swapBad (g : Group) (k : Nat) (l v : DWord) : (g.setPred k l v).swapBad = g.swapBad := by unfold Group.setPred; split <;> rfl
@[simp] theorem Group.setPred_halt (g : Group) (k : Nat) (l v : DWord) : (g.setPred k l v).halt = g.halt := by unfold Group.setPred; split <;> rfl
@[simp] theorem Group.setPred_restart (g : Group) (k : Nat) (l v : DWord) : (g.setPred k l v).restart = g.restart := by unfold Group.setPred; split <;> rfl
@[simp] theorem Group.setPred_arriving (g : Group) (k : Nat) (l v : DWord) : (g.setPred k l v).arriving = g.arriving := by unfold Group.setPred; split <;> rfl
@[simp] theorem Group.setPred_active (g : Group) (k : Nat) (l v : DWord) : (g.setPred k l v).active = g.active := by unfold Group.setPred; split <;> rfl
@[simp] theorem Group.setPred_template (g : Group) (k : Nat) (l v : DWord) : (g.setPred k l v).template = g.template := by unfold Group.setPred; split <;> rfl

@[simp] theorem Group.putLanes_crew (g : Group) (r : Nat) (l : List Nat) (f : Nat → LaneCell) : (g.putLanes r l f).crew = g.crew := rfl
@[simp] theorem Group.putLanes_f1 (g : Group) (r : Nat) (l : List Nat) (f : Nat → LaneCell) : (g.putLanes r l f).f1 = g.f1 := rfl
@[simp] theorem Group.putLanes_index (g : Group) (r : Nat) (l : List Nat) (f : Nat → LaneCell) : (g.putLanes r l f).index = g.index := rfl
@[simp] theorem Group.putLanes_w0 (g : Group) (r : Nat) (l : List Nat) (f : Nat → LaneCell) : (g.putLanes r l f).w0 = g.w0 := rfl
@[simp] theorem Group.putLanes_slotA (g : Group) (r : Nat) (l : List Nat) (f : Nat → LaneCell) : (g.putLanes r l f).slotA = g.slotA := rfl
@[simp] theorem Group.putLanes_slotB (g : Group) (r : Nat) (l : List Nat) (f : Nat → LaneCell) : (g.putLanes r l f).slotB = g.slotB := rfl
@[simp] theorem Group.putLanes_spilled (g : Group) (r : Nat) (l : List Nat) (f : Nat → LaneCell) : (g.putLanes r l f).spilled = g.spilled := rfl
@[simp] theorem Group.putLanes_records (g : Group) (r : Nat) (l : List Nat) (f : Nat → LaneCell) : (g.putLanes r l f).records = g.records := rfl
@[simp] theorem Group.putLanes_exited (g : Group) (r : Nat) (l : List Nat) (f : Nat → LaneCell) : (g.putLanes r l f).exited = g.exited := rfl
@[simp] theorem Group.putLanes_scalars (g : Group) (r : Nat) (l : List Nat) (f : Nat → LaneCell) : (g.putLanes r l f).scalars = g.scalars := rfl
@[simp] theorem Group.putLanes_c (g : Group) (r : Nat) (l : List Nat) (f : Nat → LaneCell) : (g.putLanes r l f).c = g.c := rfl
@[simp] theorem Group.putLanes_preds (g : Group) (r : Nat) (l : List Nat) (f : Nat → LaneCell) : (g.putLanes r l f).preds = g.preds := rfl
@[simp] theorem Group.putLanes_gstat (g : Group) (r : Nat) (l : List Nat) (f : Nat → LaneCell) : (g.putLanes r l f).gstat = g.gstat := rfl
@[simp] theorem Group.putLanes_gc (g : Group) (r : Nat) (l : List Nat) (f : Nat → LaneCell) : (g.putLanes r l f).gc = g.gc := rfl
@[simp] theorem Group.putLanes_mst (g : Group) (r : Nat) (l : List Nat) (f : Nat → LaneCell) : (g.putLanes r l f).mst = g.mst := rfl
@[simp] theorem Group.putLanes_prog (g : Group) (r : Nat) (l : List Nat) (f : Nat → LaneCell) : (g.putLanes r l f).prog = g.prog := rfl
@[simp] theorem Group.putLanes_bnc (g : Group) (r : Nat) (l : List Nat) (f : Nat → LaneCell) : (g.putLanes r l f).bnc = g.bnc := rfl
@[simp] theorem Group.putLanes_bnm (g : Group) (r : Nat) (l : List Nat) (f : Nat → LaneCell) : (g.putLanes r l f).bnm = g.bnm := rfl
@[simp] theorem Group.putLanes_ire (g : Group) (r : Nat) (l : List Nat) (f : Nat → LaneCell) : (g.putLanes r l f).ire = g.ire := rfl
@[simp] theorem Group.putLanes_region (g : Group) (r : Nat) (l : List Nat) (f : Nat → LaneCell) : (g.putLanes r l f).region = g.region := rfl
@[simp] theorem Group.putLanes_handler (g : Group) (r : Nat) (l : List Nat) (f : Nat → LaneCell) : (g.putLanes r l f).handler = g.handler := rfl
@[simp] theorem Group.putLanes_trapRec (g : Group) (r : Nat) (l : List Nat) (f : Nat → LaneCell) : (g.putLanes r l f).trapRec = g.trapRec := rfl
@[simp] theorem Group.putLanes_keep (g : Group) (r : Nat) (l : List Nat) (f : Nat → LaneCell) : (g.putLanes r l f).keep = g.keep := rfl
@[simp] theorem Group.putLanes_priv (g : Group) (r : Nat) (l : List Nat) (f : Nat → LaneCell) : (g.putLanes r l f).priv = g.priv := rfl
@[simp] theorem Group.putLanes_privBad (g : Group) (r : Nat) (l : List Nat) (f : Nat → LaneCell) : (g.putLanes r l f).privBad = g.privBad := rfl
@[simp] theorem Group.putLanes_privBase (g : Group) (r : Nat) (l : List Nat) (f : Nat → LaneCell) : (g.putLanes r l f).privBase = g.privBase := rfl
@[simp] theorem Group.putLanes_watch (g : Group) (r : Nat) (l : List Nat) (f : Nat → LaneCell) : (g.putLanes r l f).watch = g.watch := rfl
@[simp] theorem Group.putLanes_lanePhase (g : Group) (r : Nat) (l : List Nat) (f : Nat → LaneCell) : (g.putLanes r l f).lanePhase = g.lanePhase := rfl
@[simp] theorem Group.putLanes_tiles (g : Group) (r : Nat) (l : List Nat) (f : Nat → LaneCell) : (g.putLanes r l f).tiles = g.tiles := rfl
@[simp] theorem Group.putLanes_sides (g : Group) (r : Nat) (l : List Nat) (f : Nat → LaneCell) : (g.putLanes r l f).sides = g.sides := rfl
@[simp] theorem Group.putLanes_opCount (g : Group) (r : Nat) (l : List Nat) (f : Nat → LaneCell) : (g.putLanes r l f).opCount = g.opCount := rfl
@[simp] theorem Group.putLanes_failures (g : Group) (r : Nat) (l : List Nat) (f : Nat → LaneCell) : (g.putLanes r l f).failures = g.failures := rfl
@[simp] theorem Group.putLanes_dzwDue (g : Group) (r : Nat) (l : List Nat) (f : Nat → LaneCell) : (g.putLanes r l f).dzwDue = g.dzwDue := rfl
@[simp] theorem Group.putLanes_remoteOut (g : Group) (r : Nat) (l : List Nat) (f : Nat → LaneCell) : (g.putLanes r l f).remoteOut = g.remoteOut := rfl
@[simp] theorem Group.putLanes_swapped (g : Group) (r : Nat) (l : List Nat) (f : Nat → LaneCell) : (g.putLanes r l f).swapped = g.swapped := rfl
@[simp] theorem Group.putLanes_leaving (g : Group) (r : Nat) (l : List Nat) (f : Nat → LaneCell) : (g.putLanes r l f).leaving = g.leaving := rfl
@[simp] theorem Group.putLanes_swapBad (g : Group) (r : Nat) (l : List Nat) (f : Nat → LaneCell) : (g.putLanes r l f).swapBad = g.swapBad := rfl
@[simp] theorem Group.putLanes_halt (g : Group) (r : Nat) (l : List Nat) (f : Nat → LaneCell) : (g.putLanes r l f).halt = g.halt := rfl
@[simp] theorem Group.putLanes_restart (g : Group) (r : Nat) (l : List Nat) (f : Nat → LaneCell) : (g.putLanes r l f).restart = g.restart := rfl
@[simp] theorem Group.putLanes_arriving (g : Group) (r : Nat) (l : List Nat) (f : Nat → LaneCell) : (g.putLanes r l f).arriving = g.arriving := rfl
@[simp] theorem Group.putLanes_damage (g : Group) (r : Nat) (l : List Nat) (f : Nat → LaneCell) : (g.putLanes r l f).damage = g.damage := rfl
@[simp] theorem Group.putLanes_active (g : Group) (r : Nat) (l : List Nat) (f : Nat → LaneCell) : (g.putLanes r l f).active = g.active := rfl
@[simp] theorem Group.putLanes_template (g : Group) (r : Nat) (l : List Nat) (f : Nat → LaneCell) : (g.putLanes r l f).template = g.template := rfl

@[simp] theorem Group.writeLanes_crew (g : Group) (r : Nat) (l : List Nat) (f : Nat → Word) : (g.writeLanes r l f).crew = g.crew := by unfold Group.writeLanes; split <;> rfl
@[simp] theorem Group.writeLanes_f1 (g : Group) (r : Nat) (l : List Nat) (f : Nat → Word) : (g.writeLanes r l f).f1 = g.f1 := by unfold Group.writeLanes; split <;> rfl
@[simp] theorem Group.writeLanes_index (g : Group) (r : Nat) (l : List Nat) (f : Nat → Word) : (g.writeLanes r l f).index = g.index := by unfold Group.writeLanes; split <;> rfl
@[simp] theorem Group.writeLanes_w0 (g : Group) (r : Nat) (l : List Nat) (f : Nat → Word) : (g.writeLanes r l f).w0 = g.w0 := by unfold Group.writeLanes; split <;> rfl
@[simp] theorem Group.writeLanes_slotA (g : Group) (r : Nat) (l : List Nat) (f : Nat → Word) : (g.writeLanes r l f).slotA = g.slotA := by unfold Group.writeLanes; split <;> rfl
@[simp] theorem Group.writeLanes_slotB (g : Group) (r : Nat) (l : List Nat) (f : Nat → Word) : (g.writeLanes r l f).slotB = g.slotB := by unfold Group.writeLanes; split <;> rfl
@[simp] theorem Group.writeLanes_spilled (g : Group) (r : Nat) (l : List Nat) (f : Nat → Word) : (g.writeLanes r l f).spilled = g.spilled := by unfold Group.writeLanes; split <;> rfl
@[simp] theorem Group.writeLanes_records (g : Group) (r : Nat) (l : List Nat) (f : Nat → Word) : (g.writeLanes r l f).records = g.records := by unfold Group.writeLanes; split <;> rfl
@[simp] theorem Group.writeLanes_exited (g : Group) (r : Nat) (l : List Nat) (f : Nat → Word) : (g.writeLanes r l f).exited = g.exited := by unfold Group.writeLanes; split <;> rfl
@[simp] theorem Group.writeLanes_scalars (g : Group) (r : Nat) (l : List Nat) (f : Nat → Word) : (g.writeLanes r l f).scalars = g.scalars := by unfold Group.writeLanes; split <;> rfl
@[simp] theorem Group.writeLanes_c (g : Group) (r : Nat) (l : List Nat) (f : Nat → Word) : (g.writeLanes r l f).c = g.c := by unfold Group.writeLanes; split <;> rfl
@[simp] theorem Group.writeLanes_preds (g : Group) (r : Nat) (l : List Nat) (f : Nat → Word) : (g.writeLanes r l f).preds = g.preds := by unfold Group.writeLanes; split <;> rfl
@[simp] theorem Group.writeLanes_gstat (g : Group) (r : Nat) (l : List Nat) (f : Nat → Word) : (g.writeLanes r l f).gstat = g.gstat := by unfold Group.writeLanes; split <;> rfl
@[simp] theorem Group.writeLanes_gc (g : Group) (r : Nat) (l : List Nat) (f : Nat → Word) : (g.writeLanes r l f).gc = g.gc := by unfold Group.writeLanes; split <;> rfl
@[simp] theorem Group.writeLanes_mst (g : Group) (r : Nat) (l : List Nat) (f : Nat → Word) : (g.writeLanes r l f).mst = g.mst := by unfold Group.writeLanes; split <;> rfl
@[simp] theorem Group.writeLanes_prog (g : Group) (r : Nat) (l : List Nat) (f : Nat → Word) : (g.writeLanes r l f).prog = g.prog := by unfold Group.writeLanes; split <;> rfl
@[simp] theorem Group.writeLanes_bnc (g : Group) (r : Nat) (l : List Nat) (f : Nat → Word) : (g.writeLanes r l f).bnc = g.bnc := by unfold Group.writeLanes; split <;> rfl
@[simp] theorem Group.writeLanes_bnm (g : Group) (r : Nat) (l : List Nat) (f : Nat → Word) : (g.writeLanes r l f).bnm = g.bnm := by unfold Group.writeLanes; split <;> rfl
@[simp] theorem Group.writeLanes_ire (g : Group) (r : Nat) (l : List Nat) (f : Nat → Word) : (g.writeLanes r l f).ire = g.ire := by unfold Group.writeLanes; split <;> rfl
@[simp] theorem Group.writeLanes_region (g : Group) (r : Nat) (l : List Nat) (f : Nat → Word) : (g.writeLanes r l f).region = g.region := by unfold Group.writeLanes; split <;> rfl
@[simp] theorem Group.writeLanes_handler (g : Group) (r : Nat) (l : List Nat) (f : Nat → Word) : (g.writeLanes r l f).handler = g.handler := by unfold Group.writeLanes; split <;> rfl
@[simp] theorem Group.writeLanes_trapRec (g : Group) (r : Nat) (l : List Nat) (f : Nat → Word) : (g.writeLanes r l f).trapRec = g.trapRec := by unfold Group.writeLanes; split <;> rfl
@[simp] theorem Group.writeLanes_keep (g : Group) (r : Nat) (l : List Nat) (f : Nat → Word) : (g.writeLanes r l f).keep = g.keep := by unfold Group.writeLanes; split <;> rfl
@[simp] theorem Group.writeLanes_priv (g : Group) (r : Nat) (l : List Nat) (f : Nat → Word) : (g.writeLanes r l f).priv = g.priv := by unfold Group.writeLanes; split <;> rfl
@[simp] theorem Group.writeLanes_privBad (g : Group) (r : Nat) (l : List Nat) (f : Nat → Word) : (g.writeLanes r l f).privBad = g.privBad := by unfold Group.writeLanes; split <;> rfl
@[simp] theorem Group.writeLanes_privBase (g : Group) (r : Nat) (l : List Nat) (f : Nat → Word) : (g.writeLanes r l f).privBase = g.privBase := by unfold Group.writeLanes; split <;> rfl
@[simp] theorem Group.writeLanes_watch (g : Group) (r : Nat) (l : List Nat) (f : Nat → Word) : (g.writeLanes r l f).watch = g.watch := by unfold Group.writeLanes; split <;> rfl
@[simp] theorem Group.writeLanes_lanePhase (g : Group) (r : Nat) (l : List Nat) (f : Nat → Word) : (g.writeLanes r l f).lanePhase = g.lanePhase := by unfold Group.writeLanes; split <;> rfl
@[simp] theorem Group.writeLanes_tiles (g : Group) (r : Nat) (l : List Nat) (f : Nat → Word) : (g.writeLanes r l f).tiles = g.tiles := by unfold Group.writeLanes; split <;> rfl
@[simp] theorem Group.writeLanes_sides (g : Group) (r : Nat) (l : List Nat) (f : Nat → Word) : (g.writeLanes r l f).sides = g.sides := by unfold Group.writeLanes; split <;> rfl
@[simp] theorem Group.writeLanes_opCount (g : Group) (r : Nat) (l : List Nat) (f : Nat → Word) : (g.writeLanes r l f).opCount = g.opCount := by unfold Group.writeLanes; split <;> rfl
@[simp] theorem Group.writeLanes_failures (g : Group) (r : Nat) (l : List Nat) (f : Nat → Word) : (g.writeLanes r l f).failures = g.failures := by unfold Group.writeLanes; split <;> rfl
@[simp] theorem Group.writeLanes_dzwDue (g : Group) (r : Nat) (l : List Nat) (f : Nat → Word) : (g.writeLanes r l f).dzwDue = g.dzwDue := by unfold Group.writeLanes; split <;> rfl
@[simp] theorem Group.writeLanes_remoteOut (g : Group) (r : Nat) (l : List Nat) (f : Nat → Word) : (g.writeLanes r l f).remoteOut = g.remoteOut := by unfold Group.writeLanes; split <;> rfl
@[simp] theorem Group.writeLanes_swapped (g : Group) (r : Nat) (l : List Nat) (f : Nat → Word) : (g.writeLanes r l f).swapped = g.swapped := by unfold Group.writeLanes; split <;> rfl
@[simp] theorem Group.writeLanes_leaving (g : Group) (r : Nat) (l : List Nat) (f : Nat → Word) : (g.writeLanes r l f).leaving = g.leaving := by unfold Group.writeLanes; split <;> rfl
@[simp] theorem Group.writeLanes_swapBad (g : Group) (r : Nat) (l : List Nat) (f : Nat → Word) : (g.writeLanes r l f).swapBad = g.swapBad := by unfold Group.writeLanes; split <;> rfl
@[simp] theorem Group.writeLanes_halt (g : Group) (r : Nat) (l : List Nat) (f : Nat → Word) : (g.writeLanes r l f).halt = g.halt := by unfold Group.writeLanes; split <;> rfl
@[simp] theorem Group.writeLanes_restart (g : Group) (r : Nat) (l : List Nat) (f : Nat → Word) : (g.writeLanes r l f).restart = g.restart := by unfold Group.writeLanes; split <;> rfl
@[simp] theorem Group.writeLanes_arriving (g : Group) (r : Nat) (l : List Nat) (f : Nat → Word) : (g.writeLanes r l f).arriving = g.arriving := by unfold Group.writeLanes; split <;> rfl
@[simp] theorem Group.writeLanes_damage (g : Group) (r : Nat) (l : List Nat) (f : Nat → Word) : (g.writeLanes r l f).damage = g.damage := by unfold Group.writeLanes; split <;> rfl
@[simp] theorem Group.writeLanes_active (g : Group) (r : Nat) (l : List Nat) (f : Nat → Word) : (g.writeLanes r l f).active = g.active := by unfold Group.writeLanes; split <;> rfl
@[simp] theorem Group.writeLanes_template (g : Group) (r : Nat) (l : List Nat) (f : Nat → Word) : (g.writeLanes r l f).template = g.template := by unfold Group.writeLanes; split <;> rfl

@[simp] theorem Group.emptyLanes_crew (g : Group) (r : Nat) (l : List Nat) (k : Nat) : (g.emptyLanes r l k).crew = g.crew := by unfold Group.emptyLanes; split <;> rfl
@[simp] theorem Group.emptyLanes_f1 (g : Group) (r : Nat) (l : List Nat) (k : Nat) : (g.emptyLanes r l k).f1 = g.f1 := by unfold Group.emptyLanes; split <;> rfl
@[simp] theorem Group.emptyLanes_index (g : Group) (r : Nat) (l : List Nat) (k : Nat) : (g.emptyLanes r l k).index = g.index := by unfold Group.emptyLanes; split <;> rfl
@[simp] theorem Group.emptyLanes_w0 (g : Group) (r : Nat) (l : List Nat) (k : Nat) : (g.emptyLanes r l k).w0 = g.w0 := by unfold Group.emptyLanes; split <;> rfl
@[simp] theorem Group.emptyLanes_slotA (g : Group) (r : Nat) (l : List Nat) (k : Nat) : (g.emptyLanes r l k).slotA = g.slotA := by unfold Group.emptyLanes; split <;> rfl
@[simp] theorem Group.emptyLanes_slotB (g : Group) (r : Nat) (l : List Nat) (k : Nat) : (g.emptyLanes r l k).slotB = g.slotB := by unfold Group.emptyLanes; split <;> rfl
@[simp] theorem Group.emptyLanes_spilled (g : Group) (r : Nat) (l : List Nat) (k : Nat) : (g.emptyLanes r l k).spilled = g.spilled := by unfold Group.emptyLanes; split <;> rfl
@[simp] theorem Group.emptyLanes_records (g : Group) (r : Nat) (l : List Nat) (k : Nat) : (g.emptyLanes r l k).records = g.records := by unfold Group.emptyLanes; split <;> rfl
@[simp] theorem Group.emptyLanes_exited (g : Group) (r : Nat) (l : List Nat) (k : Nat) : (g.emptyLanes r l k).exited = g.exited := by unfold Group.emptyLanes; split <;> rfl
@[simp] theorem Group.emptyLanes_scalars (g : Group) (r : Nat) (l : List Nat) (k : Nat) : (g.emptyLanes r l k).scalars = g.scalars := by unfold Group.emptyLanes; split <;> rfl
@[simp] theorem Group.emptyLanes_c (g : Group) (r : Nat) (l : List Nat) (k : Nat) : (g.emptyLanes r l k).c = g.c := by unfold Group.emptyLanes; split <;> rfl
@[simp] theorem Group.emptyLanes_preds (g : Group) (r : Nat) (l : List Nat) (k : Nat) : (g.emptyLanes r l k).preds = g.preds := by unfold Group.emptyLanes; split <;> rfl
@[simp] theorem Group.emptyLanes_gstat (g : Group) (r : Nat) (l : List Nat) (k : Nat) : (g.emptyLanes r l k).gstat = g.gstat := by unfold Group.emptyLanes; split <;> rfl
@[simp] theorem Group.emptyLanes_gc (g : Group) (r : Nat) (l : List Nat) (k : Nat) : (g.emptyLanes r l k).gc = g.gc := by unfold Group.emptyLanes; split <;> rfl
@[simp] theorem Group.emptyLanes_mst (g : Group) (r : Nat) (l : List Nat) (k : Nat) : (g.emptyLanes r l k).mst = g.mst := by unfold Group.emptyLanes; split <;> rfl
@[simp] theorem Group.emptyLanes_prog (g : Group) (r : Nat) (l : List Nat) (k : Nat) : (g.emptyLanes r l k).prog = g.prog := by unfold Group.emptyLanes; split <;> rfl
@[simp] theorem Group.emptyLanes_bnc (g : Group) (r : Nat) (l : List Nat) (k : Nat) : (g.emptyLanes r l k).bnc = g.bnc := by unfold Group.emptyLanes; split <;> rfl
@[simp] theorem Group.emptyLanes_bnm (g : Group) (r : Nat) (l : List Nat) (k : Nat) : (g.emptyLanes r l k).bnm = g.bnm := by unfold Group.emptyLanes; split <;> rfl
@[simp] theorem Group.emptyLanes_ire (g : Group) (r : Nat) (l : List Nat) (k : Nat) : (g.emptyLanes r l k).ire = g.ire := by unfold Group.emptyLanes; split <;> rfl
@[simp] theorem Group.emptyLanes_region (g : Group) (r : Nat) (l : List Nat) (k : Nat) : (g.emptyLanes r l k).region = g.region := by unfold Group.emptyLanes; split <;> rfl
@[simp] theorem Group.emptyLanes_handler (g : Group) (r : Nat) (l : List Nat) (k : Nat) : (g.emptyLanes r l k).handler = g.handler := by unfold Group.emptyLanes; split <;> rfl
@[simp] theorem Group.emptyLanes_trapRec (g : Group) (r : Nat) (l : List Nat) (k : Nat) : (g.emptyLanes r l k).trapRec = g.trapRec := by unfold Group.emptyLanes; split <;> rfl
@[simp] theorem Group.emptyLanes_keep (g : Group) (r : Nat) (l : List Nat) (k : Nat) : (g.emptyLanes r l k).keep = g.keep := by unfold Group.emptyLanes; split <;> rfl
@[simp] theorem Group.emptyLanes_priv (g : Group) (r : Nat) (l : List Nat) (k : Nat) : (g.emptyLanes r l k).priv = g.priv := by unfold Group.emptyLanes; split <;> rfl
@[simp] theorem Group.emptyLanes_privBad (g : Group) (r : Nat) (l : List Nat) (k : Nat) : (g.emptyLanes r l k).privBad = g.privBad := by unfold Group.emptyLanes; split <;> rfl
@[simp] theorem Group.emptyLanes_privBase (g : Group) (r : Nat) (l : List Nat) (k : Nat) : (g.emptyLanes r l k).privBase = g.privBase := by unfold Group.emptyLanes; split <;> rfl
@[simp] theorem Group.emptyLanes_watch (g : Group) (r : Nat) (l : List Nat) (k : Nat) : (g.emptyLanes r l k).watch = g.watch := by unfold Group.emptyLanes; split <;> rfl
@[simp] theorem Group.emptyLanes_lanePhase (g : Group) (r : Nat) (l : List Nat) (k : Nat) : (g.emptyLanes r l k).lanePhase = g.lanePhase := by unfold Group.emptyLanes; split <;> rfl
@[simp] theorem Group.emptyLanes_tiles (g : Group) (r : Nat) (l : List Nat) (k : Nat) : (g.emptyLanes r l k).tiles = g.tiles := by unfold Group.emptyLanes; split <;> rfl
@[simp] theorem Group.emptyLanes_sides (g : Group) (r : Nat) (l : List Nat) (k : Nat) : (g.emptyLanes r l k).sides = g.sides := by unfold Group.emptyLanes; split <;> rfl
@[simp] theorem Group.emptyLanes_opCount (g : Group) (r : Nat) (l : List Nat) (k : Nat) : (g.emptyLanes r l k).opCount = g.opCount := by unfold Group.emptyLanes; split <;> rfl
@[simp] theorem Group.emptyLanes_failures (g : Group) (r : Nat) (l : List Nat) (k : Nat) : (g.emptyLanes r l k).failures = g.failures := by unfold Group.emptyLanes; split <;> rfl
@[simp] theorem Group.emptyLanes_dzwDue (g : Group) (r : Nat) (l : List Nat) (k : Nat) : (g.emptyLanes r l k).dzwDue = g.dzwDue := by unfold Group.emptyLanes; split <;> rfl
@[simp] theorem Group.emptyLanes_remoteOut (g : Group) (r : Nat) (l : List Nat) (k : Nat) : (g.emptyLanes r l k).remoteOut = g.remoteOut := by unfold Group.emptyLanes; split <;> rfl
@[simp] theorem Group.emptyLanes_swapped (g : Group) (r : Nat) (l : List Nat) (k : Nat) : (g.emptyLanes r l k).swapped = g.swapped := by unfold Group.emptyLanes; split <;> rfl
@[simp] theorem Group.emptyLanes_leaving (g : Group) (r : Nat) (l : List Nat) (k : Nat) : (g.emptyLanes r l k).leaving = g.leaving := by unfold Group.emptyLanes; split <;> rfl
@[simp] theorem Group.emptyLanes_swapBad (g : Group) (r : Nat) (l : List Nat) (k : Nat) : (g.emptyLanes r l k).swapBad = g.swapBad := by unfold Group.emptyLanes; split <;> rfl
@[simp] theorem Group.emptyLanes_halt (g : Group) (r : Nat) (l : List Nat) (k : Nat) : (g.emptyLanes r l k).halt = g.halt := by unfold Group.emptyLanes; split <;> rfl
@[simp] theorem Group.emptyLanes_restart (g : Group) (r : Nat) (l : List Nat) (k : Nat) : (g.emptyLanes r l k).restart = g.restart := by unfold Group.emptyLanes; split <;> rfl
@[simp] theorem Group.emptyLanes_arriving (g : Group) (r : Nat) (l : List Nat) (k : Nat) : (g.emptyLanes r l k).arriving = g.arriving := by unfold Group.emptyLanes; split <;> rfl
@[simp] theorem Group.emptyLanes_damage (g : Group) (r : Nat) (l : List Nat) (k : Nat) : (g.emptyLanes r l k).damage = g.damage := by unfold Group.emptyLanes; split <;> rfl
@[simp] theorem Group.emptyLanes_active (g : Group) (r : Nat) (l : List Nat) (k : Nat) : (g.emptyLanes r l k).active = g.active := by unfold Group.emptyLanes; split <;> rfl
@[simp] theorem Group.emptyLanes_template (g : Group) (r : Nat) (l : List Nat) (k : Nat) : (g.emptyLanes r l k).template = g.template := by unfold Group.emptyLanes; split <;> rfl

@[simp] theorem Group.freeReg_crew (g : Group) (r : Nat) : (g.freeReg r).crew = g.crew := rfl
@[simp] theorem Group.freeReg_f1 (g : Group) (r : Nat) : (g.freeReg r).f1 = g.f1 := rfl
@[simp] theorem Group.freeReg_index (g : Group) (r : Nat) : (g.freeReg r).index = g.index := rfl
@[simp] theorem Group.freeReg_w0 (g : Group) (r : Nat) : (g.freeReg r).w0 = g.w0 := rfl
@[simp] theorem Group.freeReg_slotA (g : Group) (r : Nat) : (g.freeReg r).slotA = g.slotA := rfl
@[simp] theorem Group.freeReg_slotB (g : Group) (r : Nat) : (g.freeReg r).slotB = g.slotB := rfl
@[simp] theorem Group.freeReg_spilled (g : Group) (r : Nat) : (g.freeReg r).spilled = g.spilled := rfl
@[simp] theorem Group.freeReg_records (g : Group) (r : Nat) : (g.freeReg r).records = g.records := rfl
@[simp] theorem Group.freeReg_exited (g : Group) (r : Nat) : (g.freeReg r).exited = g.exited := rfl
@[simp] theorem Group.freeReg_scalars (g : Group) (r : Nat) : (g.freeReg r).scalars = g.scalars := rfl
@[simp] theorem Group.freeReg_c (g : Group) (r : Nat) : (g.freeReg r).c = g.c := rfl
@[simp] theorem Group.freeReg_preds (g : Group) (r : Nat) : (g.freeReg r).preds = g.preds := rfl
@[simp] theorem Group.freeReg_gstat (g : Group) (r : Nat) : (g.freeReg r).gstat = g.gstat := rfl
@[simp] theorem Group.freeReg_gc (g : Group) (r : Nat) : (g.freeReg r).gc = g.gc := rfl
@[simp] theorem Group.freeReg_mst (g : Group) (r : Nat) : (g.freeReg r).mst = g.mst := rfl
@[simp] theorem Group.freeReg_prog (g : Group) (r : Nat) : (g.freeReg r).prog = g.prog := rfl
@[simp] theorem Group.freeReg_bnc (g : Group) (r : Nat) : (g.freeReg r).bnc = g.bnc := rfl
@[simp] theorem Group.freeReg_bnm (g : Group) (r : Nat) : (g.freeReg r).bnm = g.bnm := rfl
@[simp] theorem Group.freeReg_ire (g : Group) (r : Nat) : (g.freeReg r).ire = g.ire := rfl
@[simp] theorem Group.freeReg_region (g : Group) (r : Nat) : (g.freeReg r).region = g.region := rfl
@[simp] theorem Group.freeReg_handler (g : Group) (r : Nat) : (g.freeReg r).handler = g.handler := rfl
@[simp] theorem Group.freeReg_trapRec (g : Group) (r : Nat) : (g.freeReg r).trapRec = g.trapRec := rfl
@[simp] theorem Group.freeReg_keep (g : Group) (r : Nat) : (g.freeReg r).keep = g.keep := rfl
@[simp] theorem Group.freeReg_priv (g : Group) (r : Nat) : (g.freeReg r).priv = g.priv := rfl
@[simp] theorem Group.freeReg_privBad (g : Group) (r : Nat) : (g.freeReg r).privBad = g.privBad := rfl
@[simp] theorem Group.freeReg_privBase (g : Group) (r : Nat) : (g.freeReg r).privBase = g.privBase := rfl
@[simp] theorem Group.freeReg_watch (g : Group) (r : Nat) : (g.freeReg r).watch = g.watch := rfl
@[simp] theorem Group.freeReg_lanePhase (g : Group) (r : Nat) : (g.freeReg r).lanePhase = g.lanePhase := rfl
@[simp] theorem Group.freeReg_tiles (g : Group) (r : Nat) : (g.freeReg r).tiles = g.tiles := rfl
@[simp] theorem Group.freeReg_sides (g : Group) (r : Nat) : (g.freeReg r).sides = g.sides := rfl
@[simp] theorem Group.freeReg_opCount (g : Group) (r : Nat) : (g.freeReg r).opCount = g.opCount := rfl
@[simp] theorem Group.freeReg_failures (g : Group) (r : Nat) : (g.freeReg r).failures = g.failures := rfl
@[simp] theorem Group.freeReg_dzwDue (g : Group) (r : Nat) : (g.freeReg r).dzwDue = g.dzwDue := rfl
@[simp] theorem Group.freeReg_remoteOut (g : Group) (r : Nat) : (g.freeReg r).remoteOut = g.remoteOut := rfl
@[simp] theorem Group.freeReg_swapped (g : Group) (r : Nat) : (g.freeReg r).swapped = g.swapped := rfl
@[simp] theorem Group.freeReg_leaving (g : Group) (r : Nat) : (g.freeReg r).leaving = g.leaving := rfl
@[simp] theorem Group.freeReg_swapBad (g : Group) (r : Nat) : (g.freeReg r).swapBad = g.swapBad := rfl
@[simp] theorem Group.freeReg_halt (g : Group) (r : Nat) : (g.freeReg r).halt = g.halt := rfl
@[simp] theorem Group.freeReg_restart (g : Group) (r : Nat) : (g.freeReg r).restart = g.restart := rfl
@[simp] theorem Group.freeReg_arriving (g : Group) (r : Nat) : (g.freeReg r).arriving = g.arriving := rfl
@[simp] theorem Group.freeReg_damage (g : Group) (r : Nat) : (g.freeReg r).damage = g.damage := rfl
@[simp] theorem Group.freeReg_active (g : Group) (r : Nat) : (g.freeReg r).active = g.active := rfl
@[simp] theorem Group.freeReg_template (g : Group) (r : Nat) : (g.freeReg r).template = g.template := rfl

@[simp] theorem Group.raise_crew (g : Group) (f : DWord) : (g.raise f).crew = g.crew := rfl
@[simp] theorem Group.raise_f1 (g : Group) (f : DWord) : (g.raise f).f1 = g.f1 := rfl
@[simp] theorem Group.raise_index (g : Group) (f : DWord) : (g.raise f).index = g.index := rfl
@[simp] theorem Group.raise_w0 (g : Group) (f : DWord) : (g.raise f).w0 = g.w0 := rfl
@[simp] theorem Group.raise_slotA (g : Group) (f : DWord) : (g.raise f).slotA = g.slotA := rfl
@[simp] theorem Group.raise_slotB (g : Group) (f : DWord) : (g.raise f).slotB = g.slotB := rfl
@[simp] theorem Group.raise_spilled (g : Group) (f : DWord) : (g.raise f).spilled = g.spilled := rfl
@[simp] theorem Group.raise_records (g : Group) (f : DWord) : (g.raise f).records = g.records := rfl
@[simp] theorem Group.raise_exited (g : Group) (f : DWord) : (g.raise f).exited = g.exited := rfl
@[simp] theorem Group.raise_scalars (g : Group) (f : DWord) : (g.raise f).scalars = g.scalars := rfl
@[simp] theorem Group.raise_c (g : Group) (f : DWord) : (g.raise f).c = g.c := rfl
@[simp] theorem Group.raise_preds (g : Group) (f : DWord) : (g.raise f).preds = g.preds := rfl
@[simp] theorem Group.raise_vregs (g : Group) (f : DWord) : (g.raise f).vregs = g.vregs := rfl
@[simp] theorem Group.raise_gc (g : Group) (f : DWord) : (g.raise f).gc = g.gc := rfl
@[simp] theorem Group.raise_mst (g : Group) (f : DWord) : (g.raise f).mst = g.mst := rfl
@[simp] theorem Group.raise_prog (g : Group) (f : DWord) : (g.raise f).prog = g.prog := rfl
@[simp] theorem Group.raise_bnc (g : Group) (f : DWord) : (g.raise f).bnc = g.bnc := rfl
@[simp] theorem Group.raise_bnm (g : Group) (f : DWord) : (g.raise f).bnm = g.bnm := rfl
@[simp] theorem Group.raise_ire (g : Group) (f : DWord) : (g.raise f).ire = g.ire := rfl
@[simp] theorem Group.raise_region (g : Group) (f : DWord) : (g.raise f).region = g.region := rfl
@[simp] theorem Group.raise_handler (g : Group) (f : DWord) : (g.raise f).handler = g.handler := rfl
@[simp] theorem Group.raise_trapRec (g : Group) (f : DWord) : (g.raise f).trapRec = g.trapRec := rfl
@[simp] theorem Group.raise_keep (g : Group) (f : DWord) : (g.raise f).keep = g.keep := rfl
@[simp] theorem Group.raise_priv (g : Group) (f : DWord) : (g.raise f).priv = g.priv := rfl
@[simp] theorem Group.raise_privBad (g : Group) (f : DWord) : (g.raise f).privBad = g.privBad := rfl
@[simp] theorem Group.raise_privBase (g : Group) (f : DWord) : (g.raise f).privBase = g.privBase := rfl
@[simp] theorem Group.raise_watch (g : Group) (f : DWord) : (g.raise f).watch = g.watch := rfl
@[simp] theorem Group.raise_lanePhase (g : Group) (f : DWord) : (g.raise f).lanePhase = g.lanePhase := rfl
@[simp] theorem Group.raise_tiles (g : Group) (f : DWord) : (g.raise f).tiles = g.tiles := rfl
@[simp] theorem Group.raise_sides (g : Group) (f : DWord) : (g.raise f).sides = g.sides := rfl
@[simp] theorem Group.raise_opCount (g : Group) (f : DWord) : (g.raise f).opCount = g.opCount := rfl
@[simp] theorem Group.raise_failures (g : Group) (f : DWord) : (g.raise f).failures = g.failures := rfl
@[simp] theorem Group.raise_dzwDue (g : Group) (f : DWord) : (g.raise f).dzwDue = g.dzwDue := rfl
@[simp] theorem Group.raise_remoteOut (g : Group) (f : DWord) : (g.raise f).remoteOut = g.remoteOut := rfl
@[simp] theorem Group.raise_swapped (g : Group) (f : DWord) : (g.raise f).swapped = g.swapped := rfl
@[simp] theorem Group.raise_leaving (g : Group) (f : DWord) : (g.raise f).leaving = g.leaving := rfl
@[simp] theorem Group.raise_swapBad (g : Group) (f : DWord) : (g.raise f).swapBad = g.swapBad := rfl
@[simp] theorem Group.raise_halt (g : Group) (f : DWord) : (g.raise f).halt = g.halt := rfl
@[simp] theorem Group.raise_restart (g : Group) (f : DWord) : (g.raise f).restart = g.restart := rfl
@[simp] theorem Group.raise_arriving (g : Group) (f : DWord) : (g.raise f).arriving = g.arriving := rfl
@[simp] theorem Group.raise_damage (g : Group) (f : DWord) : (g.raise f).damage = g.damage := rfl
@[simp] theorem Group.raise_active (g : Group) (f : DWord) : (g.raise f).active = g.active := rfl
@[simp] theorem Group.raise_template (g : Group) (f : DWord) : (g.raise f).template = g.template := rfl

@[simp] theorem Group.setSlot_crew (g : Group) (b : Bool) (x : Option Split) : (g.setSlot b x).crew = g.crew := by cases b <;> rfl
@[simp] theorem Group.setSlot_f1 (g : Group) (b : Bool) (x : Option Split) : (g.setSlot b x).f1 = g.f1 := by cases b <;> rfl
@[simp] theorem Group.setSlot_index (g : Group) (b : Bool) (x : Option Split) : (g.setSlot b x).index = g.index := by cases b <;> rfl
@[simp] theorem Group.setSlot_w0 (g : Group) (b : Bool) (x : Option Split) : (g.setSlot b x).w0 = g.w0 := by cases b <;> rfl
@[simp] theorem Group.setSlot_spilled (g : Group) (b : Bool) (x : Option Split) : (g.setSlot b x).spilled = g.spilled := by cases b <;> rfl
@[simp] theorem Group.setSlot_records (g : Group) (b : Bool) (x : Option Split) : (g.setSlot b x).records = g.records := by cases b <;> rfl
@[simp] theorem Group.setSlot_exited (g : Group) (b : Bool) (x : Option Split) : (g.setSlot b x).exited = g.exited := by cases b <;> rfl
@[simp] theorem Group.setSlot_scalars (g : Group) (b : Bool) (x : Option Split) : (g.setSlot b x).scalars = g.scalars := by cases b <;> rfl
@[simp] theorem Group.setSlot_c (g : Group) (b : Bool) (x : Option Split) : (g.setSlot b x).c = g.c := by cases b <;> rfl
@[simp] theorem Group.setSlot_preds (g : Group) (b : Bool) (x : Option Split) : (g.setSlot b x).preds = g.preds := by cases b <;> rfl
@[simp] theorem Group.setSlot_vregs (g : Group) (b : Bool) (x : Option Split) : (g.setSlot b x).vregs = g.vregs := by cases b <;> rfl
@[simp] theorem Group.setSlot_gstat (g : Group) (b : Bool) (x : Option Split) : (g.setSlot b x).gstat = g.gstat := by cases b <;> rfl
@[simp] theorem Group.setSlot_gc (g : Group) (b : Bool) (x : Option Split) : (g.setSlot b x).gc = g.gc := by cases b <;> rfl
@[simp] theorem Group.setSlot_mst (g : Group) (b : Bool) (x : Option Split) : (g.setSlot b x).mst = g.mst := by cases b <;> rfl
@[simp] theorem Group.setSlot_prog (g : Group) (b : Bool) (x : Option Split) : (g.setSlot b x).prog = g.prog := by cases b <;> rfl
@[simp] theorem Group.setSlot_bnc (g : Group) (b : Bool) (x : Option Split) : (g.setSlot b x).bnc = g.bnc := by cases b <;> rfl
@[simp] theorem Group.setSlot_bnm (g : Group) (b : Bool) (x : Option Split) : (g.setSlot b x).bnm = g.bnm := by cases b <;> rfl
@[simp] theorem Group.setSlot_ire (g : Group) (b : Bool) (x : Option Split) : (g.setSlot b x).ire = g.ire := by cases b <;> rfl
@[simp] theorem Group.setSlot_region (g : Group) (b : Bool) (x : Option Split) : (g.setSlot b x).region = g.region := by cases b <;> rfl
@[simp] theorem Group.setSlot_handler (g : Group) (b : Bool) (x : Option Split) : (g.setSlot b x).handler = g.handler := by cases b <;> rfl
@[simp] theorem Group.setSlot_trapRec (g : Group) (b : Bool) (x : Option Split) : (g.setSlot b x).trapRec = g.trapRec := by cases b <;> rfl
@[simp] theorem Group.setSlot_keep (g : Group) (b : Bool) (x : Option Split) : (g.setSlot b x).keep = g.keep := by cases b <;> rfl
@[simp] theorem Group.setSlot_priv (g : Group) (b : Bool) (x : Option Split) : (g.setSlot b x).priv = g.priv := by cases b <;> rfl
@[simp] theorem Group.setSlot_privBad (g : Group) (b : Bool) (x : Option Split) : (g.setSlot b x).privBad = g.privBad := by cases b <;> rfl
@[simp] theorem Group.setSlot_privBase (g : Group) (b : Bool) (x : Option Split) : (g.setSlot b x).privBase = g.privBase := by cases b <;> rfl
@[simp] theorem Group.setSlot_watch (g : Group) (b : Bool) (x : Option Split) : (g.setSlot b x).watch = g.watch := by cases b <;> rfl
@[simp] theorem Group.setSlot_lanePhase (g : Group) (b : Bool) (x : Option Split) : (g.setSlot b x).lanePhase = g.lanePhase := by cases b <;> rfl
@[simp] theorem Group.setSlot_tiles (g : Group) (b : Bool) (x : Option Split) : (g.setSlot b x).tiles = g.tiles := by cases b <;> rfl
@[simp] theorem Group.setSlot_sides (g : Group) (b : Bool) (x : Option Split) : (g.setSlot b x).sides = g.sides := by cases b <;> rfl
@[simp] theorem Group.setSlot_opCount (g : Group) (b : Bool) (x : Option Split) : (g.setSlot b x).opCount = g.opCount := by cases b <;> rfl
@[simp] theorem Group.setSlot_failures (g : Group) (b : Bool) (x : Option Split) : (g.setSlot b x).failures = g.failures := by cases b <;> rfl
@[simp] theorem Group.setSlot_dzwDue (g : Group) (b : Bool) (x : Option Split) : (g.setSlot b x).dzwDue = g.dzwDue := by cases b <;> rfl
@[simp] theorem Group.setSlot_remoteOut (g : Group) (b : Bool) (x : Option Split) : (g.setSlot b x).remoteOut = g.remoteOut := by cases b <;> rfl
@[simp] theorem Group.setSlot_swapped (g : Group) (b : Bool) (x : Option Split) : (g.setSlot b x).swapped = g.swapped := by cases b <;> rfl
@[simp] theorem Group.setSlot_leaving (g : Group) (b : Bool) (x : Option Split) : (g.setSlot b x).leaving = g.leaving := by cases b <;> rfl
@[simp] theorem Group.setSlot_swapBad (g : Group) (b : Bool) (x : Option Split) : (g.setSlot b x).swapBad = g.swapBad := by cases b <;> rfl
@[simp] theorem Group.setSlot_halt (g : Group) (b : Bool) (x : Option Split) : (g.setSlot b x).halt = g.halt := by cases b <;> rfl
@[simp] theorem Group.setSlot_restart (g : Group) (b : Bool) (x : Option Split) : (g.setSlot b x).restart = g.restart := by cases b <;> rfl
@[simp] theorem Group.setSlot_arriving (g : Group) (b : Bool) (x : Option Split) : (g.setSlot b x).arriving = g.arriving := by cases b <;> rfl
@[simp] theorem Group.setSlot_damage (g : Group) (b : Bool) (x : Option Split) : (g.setSlot b x).damage = g.damage := by cases b <;> rfl
@[simp] theorem Group.setSlot_active (g : Group) (b : Bool) (x : Option Split) : (g.setSlot b x).active = g.active := by cases b <;> rfl
@[simp] theorem Group.setSlot_template (g : Group) (b : Bool) (x : Option Split) : (g.setSlot b x).template = g.template := by cases b <;> rfl

@[simp] theorem Group.freeLast_crew (g : Group) (l d : List Nat) : (g.freeLast l d).crew = g.crew := by
  unfold Group.freeLast
  induction l generalizing g with
  | nil => rfl
  | cons r t ih => simp only [List.foldl_cons]; rw [ih]; split <;> rfl
@[simp] theorem Group.freeLast_f1 (g : Group) (l d : List Nat) : (g.freeLast l d).f1 = g.f1 := by
  unfold Group.freeLast
  induction l generalizing g with
  | nil => rfl
  | cons r t ih => simp only [List.foldl_cons]; rw [ih]; split <;> rfl
@[simp] theorem Group.freeLast_index (g : Group) (l d : List Nat) : (g.freeLast l d).index = g.index := by
  unfold Group.freeLast
  induction l generalizing g with
  | nil => rfl
  | cons r t ih => simp only [List.foldl_cons]; rw [ih]; split <;> rfl
@[simp] theorem Group.freeLast_w0 (g : Group) (l d : List Nat) : (g.freeLast l d).w0 = g.w0 := by
  unfold Group.freeLast
  induction l generalizing g with
  | nil => rfl
  | cons r t ih => simp only [List.foldl_cons]; rw [ih]; split <;> rfl
@[simp] theorem Group.freeLast_slotA (g : Group) (l d : List Nat) : (g.freeLast l d).slotA = g.slotA := by
  unfold Group.freeLast
  induction l generalizing g with
  | nil => rfl
  | cons r t ih => simp only [List.foldl_cons]; rw [ih]; split <;> rfl
@[simp] theorem Group.freeLast_slotB (g : Group) (l d : List Nat) : (g.freeLast l d).slotB = g.slotB := by
  unfold Group.freeLast
  induction l generalizing g with
  | nil => rfl
  | cons r t ih => simp only [List.foldl_cons]; rw [ih]; split <;> rfl
@[simp] theorem Group.freeLast_spilled (g : Group) (l d : List Nat) : (g.freeLast l d).spilled = g.spilled := by
  unfold Group.freeLast
  induction l generalizing g with
  | nil => rfl
  | cons r t ih => simp only [List.foldl_cons]; rw [ih]; split <;> rfl
@[simp] theorem Group.freeLast_records (g : Group) (l d : List Nat) : (g.freeLast l d).records = g.records := by
  unfold Group.freeLast
  induction l generalizing g with
  | nil => rfl
  | cons r t ih => simp only [List.foldl_cons]; rw [ih]; split <;> rfl
@[simp] theorem Group.freeLast_exited (g : Group) (l d : List Nat) : (g.freeLast l d).exited = g.exited := by
  unfold Group.freeLast
  induction l generalizing g with
  | nil => rfl
  | cons r t ih => simp only [List.foldl_cons]; rw [ih]; split <;> rfl
@[simp] theorem Group.freeLast_scalars (g : Group) (l d : List Nat) : (g.freeLast l d).scalars = g.scalars := by
  unfold Group.freeLast
  induction l generalizing g with
  | nil => rfl
  | cons r t ih => simp only [List.foldl_cons]; rw [ih]; split <;> rfl
@[simp] theorem Group.freeLast_c (g : Group) (l d : List Nat) : (g.freeLast l d).c = g.c := by
  unfold Group.freeLast
  induction l generalizing g with
  | nil => rfl
  | cons r t ih => simp only [List.foldl_cons]; rw [ih]; split <;> rfl
@[simp] theorem Group.freeLast_preds (g : Group) (l d : List Nat) : (g.freeLast l d).preds = g.preds := by
  unfold Group.freeLast
  induction l generalizing g with
  | nil => rfl
  | cons r t ih => simp only [List.foldl_cons]; rw [ih]; split <;> rfl
@[simp] theorem Group.freeLast_gstat (g : Group) (l d : List Nat) : (g.freeLast l d).gstat = g.gstat := by
  unfold Group.freeLast
  induction l generalizing g with
  | nil => rfl
  | cons r t ih => simp only [List.foldl_cons]; rw [ih]; split <;> rfl
@[simp] theorem Group.freeLast_gc (g : Group) (l d : List Nat) : (g.freeLast l d).gc = g.gc := by
  unfold Group.freeLast
  induction l generalizing g with
  | nil => rfl
  | cons r t ih => simp only [List.foldl_cons]; rw [ih]; split <;> rfl
@[simp] theorem Group.freeLast_mst (g : Group) (l d : List Nat) : (g.freeLast l d).mst = g.mst := by
  unfold Group.freeLast
  induction l generalizing g with
  | nil => rfl
  | cons r t ih => simp only [List.foldl_cons]; rw [ih]; split <;> rfl
@[simp] theorem Group.freeLast_prog (g : Group) (l d : List Nat) : (g.freeLast l d).prog = g.prog := by
  unfold Group.freeLast
  induction l generalizing g with
  | nil => rfl
  | cons r t ih => simp only [List.foldl_cons]; rw [ih]; split <;> rfl
@[simp] theorem Group.freeLast_bnc (g : Group) (l d : List Nat) : (g.freeLast l d).bnc = g.bnc := by
  unfold Group.freeLast
  induction l generalizing g with
  | nil => rfl
  | cons r t ih => simp only [List.foldl_cons]; rw [ih]; split <;> rfl
@[simp] theorem Group.freeLast_bnm (g : Group) (l d : List Nat) : (g.freeLast l d).bnm = g.bnm := by
  unfold Group.freeLast
  induction l generalizing g with
  | nil => rfl
  | cons r t ih => simp only [List.foldl_cons]; rw [ih]; split <;> rfl
@[simp] theorem Group.freeLast_ire (g : Group) (l d : List Nat) : (g.freeLast l d).ire = g.ire := by
  unfold Group.freeLast
  induction l generalizing g with
  | nil => rfl
  | cons r t ih => simp only [List.foldl_cons]; rw [ih]; split <;> rfl
@[simp] theorem Group.freeLast_region (g : Group) (l d : List Nat) : (g.freeLast l d).region = g.region := by
  unfold Group.freeLast
  induction l generalizing g with
  | nil => rfl
  | cons r t ih => simp only [List.foldl_cons]; rw [ih]; split <;> rfl
@[simp] theorem Group.freeLast_handler (g : Group) (l d : List Nat) : (g.freeLast l d).handler = g.handler := by
  unfold Group.freeLast
  induction l generalizing g with
  | nil => rfl
  | cons r t ih => simp only [List.foldl_cons]; rw [ih]; split <;> rfl
@[simp] theorem Group.freeLast_trapRec (g : Group) (l d : List Nat) : (g.freeLast l d).trapRec = g.trapRec := by
  unfold Group.freeLast
  induction l generalizing g with
  | nil => rfl
  | cons r t ih => simp only [List.foldl_cons]; rw [ih]; split <;> rfl
@[simp] theorem Group.freeLast_keep (g : Group) (l d : List Nat) : (g.freeLast l d).keep = g.keep := by
  unfold Group.freeLast
  induction l generalizing g with
  | nil => rfl
  | cons r t ih => simp only [List.foldl_cons]; rw [ih]; split <;> rfl
@[simp] theorem Group.freeLast_priv (g : Group) (l d : List Nat) : (g.freeLast l d).priv = g.priv := by
  unfold Group.freeLast
  induction l generalizing g with
  | nil => rfl
  | cons r t ih => simp only [List.foldl_cons]; rw [ih]; split <;> rfl
@[simp] theorem Group.freeLast_privBad (g : Group) (l d : List Nat) : (g.freeLast l d).privBad = g.privBad := by
  unfold Group.freeLast
  induction l generalizing g with
  | nil => rfl
  | cons r t ih => simp only [List.foldl_cons]; rw [ih]; split <;> rfl
@[simp] theorem Group.freeLast_privBase (g : Group) (l d : List Nat) : (g.freeLast l d).privBase = g.privBase := by
  unfold Group.freeLast
  induction l generalizing g with
  | nil => rfl
  | cons r t ih => simp only [List.foldl_cons]; rw [ih]; split <;> rfl
@[simp] theorem Group.freeLast_watch (g : Group) (l d : List Nat) : (g.freeLast l d).watch = g.watch := by
  unfold Group.freeLast
  induction l generalizing g with
  | nil => rfl
  | cons r t ih => simp only [List.foldl_cons]; rw [ih]; split <;> rfl
@[simp] theorem Group.freeLast_lanePhase (g : Group) (l d : List Nat) : (g.freeLast l d).lanePhase = g.lanePhase := by
  unfold Group.freeLast
  induction l generalizing g with
  | nil => rfl
  | cons r t ih => simp only [List.foldl_cons]; rw [ih]; split <;> rfl
@[simp] theorem Group.freeLast_tiles (g : Group) (l d : List Nat) : (g.freeLast l d).tiles = g.tiles := by
  unfold Group.freeLast
  induction l generalizing g with
  | nil => rfl
  | cons r t ih => simp only [List.foldl_cons]; rw [ih]; split <;> rfl
@[simp] theorem Group.freeLast_sides (g : Group) (l d : List Nat) : (g.freeLast l d).sides = g.sides := by
  unfold Group.freeLast
  induction l generalizing g with
  | nil => rfl
  | cons r t ih => simp only [List.foldl_cons]; rw [ih]; split <;> rfl
@[simp] theorem Group.freeLast_opCount (g : Group) (l d : List Nat) : (g.freeLast l d).opCount = g.opCount := by
  unfold Group.freeLast
  induction l generalizing g with
  | nil => rfl
  | cons r t ih => simp only [List.foldl_cons]; rw [ih]; split <;> rfl
@[simp] theorem Group.freeLast_failures (g : Group) (l d : List Nat) : (g.freeLast l d).failures = g.failures := by
  unfold Group.freeLast
  induction l generalizing g with
  | nil => rfl
  | cons r t ih => simp only [List.foldl_cons]; rw [ih]; split <;> rfl
@[simp] theorem Group.freeLast_dzwDue (g : Group) (l d : List Nat) : (g.freeLast l d).dzwDue = g.dzwDue := by
  unfold Group.freeLast
  induction l generalizing g with
  | nil => rfl
  | cons r t ih => simp only [List.foldl_cons]; rw [ih]; split <;> rfl
@[simp] theorem Group.freeLast_remoteOut (g : Group) (l d : List Nat) : (g.freeLast l d).remoteOut = g.remoteOut := by
  unfold Group.freeLast
  induction l generalizing g with
  | nil => rfl
  | cons r t ih => simp only [List.foldl_cons]; rw [ih]; split <;> rfl
@[simp] theorem Group.freeLast_swapped (g : Group) (l d : List Nat) : (g.freeLast l d).swapped = g.swapped := by
  unfold Group.freeLast
  induction l generalizing g with
  | nil => rfl
  | cons r t ih => simp only [List.foldl_cons]; rw [ih]; split <;> rfl
@[simp] theorem Group.freeLast_leaving (g : Group) (l d : List Nat) : (g.freeLast l d).leaving = g.leaving := by
  unfold Group.freeLast
  induction l generalizing g with
  | nil => rfl
  | cons r t ih => simp only [List.foldl_cons]; rw [ih]; split <;> rfl
@[simp] theorem Group.freeLast_swapBad (g : Group) (l d : List Nat) : (g.freeLast l d).swapBad = g.swapBad := by
  unfold Group.freeLast
  induction l generalizing g with
  | nil => rfl
  | cons r t ih => simp only [List.foldl_cons]; rw [ih]; split <;> rfl
@[simp] theorem Group.freeLast_halt (g : Group) (l d : List Nat) : (g.freeLast l d).halt = g.halt := by
  unfold Group.freeLast
  induction l generalizing g with
  | nil => rfl
  | cons r t ih => simp only [List.foldl_cons]; rw [ih]; split <;> rfl
@[simp] theorem Group.freeLast_restart (g : Group) (l d : List Nat) : (g.freeLast l d).restart = g.restart := by
  unfold Group.freeLast
  induction l generalizing g with
  | nil => rfl
  | cons r t ih => simp only [List.foldl_cons]; rw [ih]; split <;> rfl
@[simp] theorem Group.freeLast_arriving (g : Group) (l d : List Nat) : (g.freeLast l d).arriving = g.arriving := by
  unfold Group.freeLast
  induction l generalizing g with
  | nil => rfl
  | cons r t ih => simp only [List.foldl_cons]; rw [ih]; split <;> rfl
@[simp] theorem Group.freeLast_damage (g : Group) (l d : List Nat) : (g.freeLast l d).damage = g.damage := by
  unfold Group.freeLast
  induction l generalizing g with
  | nil => rfl
  | cons r t ih => simp only [List.foldl_cons]; rw [ih]; split <;> rfl
@[simp] theorem Group.freeLast_active (g : Group) (l d : List Nat) : (g.freeLast l d).active = g.active := by
  unfold Group.freeLast
  induction l generalizing g with
  | nil => rfl
  | cons r t ih => simp only [List.foldl_cons]; rw [ih]; split <;> rfl
@[simp] theorem Group.freeLast_template (g : Group) (l d : List Nat) : (g.freeLast l d).template = g.template := by
  unfold Group.freeLast
  induction l generalizing g with
  | nil => rfl
  | cons r t ih => simp only [List.foldl_cons]; rw [ih]; split <;> rfl

@[simp] theorem Group.raise_gstat (g : Group) (f : DWord) : (g.raise f).gstat = g.gstat ||| f := rfl
@[simp] theorem Group.slot_setSlot (g : Group) (b k : Bool) (x : Option Split) :
    (g.setSlot b x).slot k = if k = b then x else g.slot k := by cases b <;> cases k <;> rfl
theorem Group.slot_setSlot_same (g : Group) (b : Bool) (x : Option Split) : (g.setSlot b x).slot b = x := by cases b <;> rfl

end Sys2Proof.Machine
end

