-- ==== Sys2Proof/Laws/Split.lean ====
section
/-! SUPPORT. What the shared operations of an instruction in a split do: the cursor's view, the checks, the lane bodies and the
write of the outcome. -/

namespace Sys2Proof.Machine

/-! ## The view -/

theorem viewOf_some {len : Nat} {s : State} {v : View} (h : viewOf len s = some v) :
    ∃ c g, s.cur = some c ∧ s.group? c.group = some g ∧ g.slot c.slotB = some v.sl ∧ v.g = g ∧ v.gid = c.group ∧
      v.slotB = c.slotB ∧ v.enc = c.enc ∧ v.s = { s with cur := none } ∧ v.next = v.sl.pc + BitVec.ofNat 64 len ∧
      v.idle = false ∧ v.rest = .none := by
  unfold viewOf at h
  split at h
  · cases h
  · rename_i c hc
    split at h
    · cases h
    · rename_i g hg
      split at h
      · cases h
      · rename_i sl hs
        cases h
        exact ⟨c, g, hc, hg, hs, rfl, rfl, rfl, rfl, rfl, rfl, rfl, rfl⟩

theorem viewOf_idle {len : Nat} {s : State} {v : View} (h : viewOf len s = some v) : v.idle = false := by
  obtain ⟨c, g, -, -, -, -, -, -, -, -, -, hi, -⟩ := viewOf_some h
  exact hi

theorem viewOf_rest {len : Nat} {s : State} {v : View} (h : viewOf len s = some v) : v.rest = .none := by
  obtain ⟨c, g, -, -, -, -, -, -, -, -, -, -, hr⟩ := viewOf_some h
  exact hr

/-- The split of a view goes on at once after its instruction, which is no `join` that acts. -/
def View.GoesOn (w : View) : Prop := w.idle = false ∧ w.rest = .none ∧ w.joined = false

/-- An instruction that says nothing about what its split does next leaves it to go on. -/
theorem viewOf_goesOn {len : Nat} {s : State} {v : View} (h : viewOf len s = some v) : v.GoesOn := by
  refine ⟨viewOf_idle h, viewOf_rest h, ?_⟩
  unfold viewOf at h
  split at h
  · cases h
  · split at h
    · cases h
    · split at h
      · cases h
      · cases h; rfl

/-- A body runs on the view of an executing split. -/
theorem runSplit_eq {len : Nat} {s : State} {v : View} (body : View → Res) (h : Executes len s v) :
    runSplit len body s = .next (settle v (body v)) := by
  simp [runSplit, h.1, h.2]

/-- An instruction in a split never stops: it answers a next state wherever the cursor names a live split. -/
theorem runSplit_goes {len : Nat} {s : State} {v : View} (body : View → Res) (h : viewOf len s = some v) :
    Goes (runSplit len body s) := by
  simp only [runSplit, h]
  split
  · exact ⟨_, rfl⟩
  · exact ⟨_, rfl⟩

/-! ## Lanes of a mask -/

@[simp] theorem mem_lanesOf (m : DWord) (l : Nat) : l ∈ lanesOf m ↔ l < 64 ∧ m.getLsbD l = true := by
  simp [lanesOf]

theorem lanesOf_isEmpty (m : DWord) : (lanesOf m).isEmpty = true ↔ m = 0 := by
  rw [List.isEmpty_iff]
  constructor
  · intro h
    apply BitVec.eq_of_getLsbD_eq
    intro i hi
    cases hm : m.getLsbD i with
    | false => simp
    | true =>
      have hin : i ∈ lanesOf m := (mem_lanesOf m i).mpr ⟨hi, hm⟩
      rw [h] at hin
      cases hin
  · rintro rfl
    exact List.eq_nil_iff_forall_not_mem.mpr fun l hl => by simpa using ((mem_lanesOf 0 l).mp hl).2

/-! ## Checks -/

@[simp] theorem guardStop_none (v : View) (k : Res) : guardStop v none k = k := rfl
@[simp] theorem guardStop_some (v : View) (e : Stop) (k : Res) : guardStop v (some e) k = .stop v.s e := rfl

theorem nameStop_none {v : View} {vs ss : List Nat} (h : Named v vs ss) : nameStop v vs ss = none := by
  have h1 : vs.all (vecNamed v.wb) = true := by
    simp only [List.all_eq_true, vecNamed, decide_eq_true_eq]; exact h.1
  have h2 : ss.all (scalNamed v.wb) = true := by
    simp only [List.all_eq_true, scalNamed, Bool.or_eq_true, decide_eq_true_eq]; exact h.2
  simp [nameStop, h1, h2]

/-- A register outside the waybill's counts makes the instruction illegal (R206). -/
theorem nameStop_some {v : View} {vs ss : List Nat} (h : ¬ Named v vs ss) :
    nameStop v vs ss = some .illegal := by
  unfold nameStop
  split
  · rename_i hc
    exfalso
    apply h
    simpa [Named, vecNamed, scalNamed, List.all_eq_true] using hc
  · rfl

theorem laneEmpty_of_full {v : View} {lanes : DWord} {vs : List Nat} (h : LanesFull v lanes vs) {l r : Nat} (hl : l < 64)
    (hm : lanes.getLsbD l = true) (hr : r ∈ vs) : v.g.laneEmpty r l = false ∧ v.g.lanePoison r l = none := by
  have := h l hl hm r hr
  unfold Group.laneEmpty Group.lanePoison
  cases hc : v.g.lane? r l with
  | none => exact ⟨rfl, rfl⟩
  | some c =>
    have := this c hc
    obtain ⟨val, st⟩ := c
    simp only at this
    subst this
    exact ⟨rfl, rfl⟩

theorem emptyLaneStop_none {v : View} {acting : DWord} {vs : List Nat} (h : LanesFull v acting vs) (a : DWord) :
    emptyLaneStop v (lanesOf acting) a vs = none := by
  unfold emptyLaneStop
  have : ((lanesOf acting).find? fun l => vs.any fun r => v.g.laneEmpty r l) = none := by
    simp only [List.find?_eq_none, mem_lanesOf, List.any_eq_true, not_exists, not_and]
    intro l hl r hr
    simp [(laneEmpty_of_full h hl.1 hl.2 hr).1]
  simp only [this]

theorem poisonLaneStop_none {v : View} {acting : DWord} {vs : List Nat} (h : LanesFull v acting vs) (a : DWord) :
    poisonLaneStop v (lanesOf acting) a vs = none := by
  simp only [poisonLaneStop, List.findSome?_eq_none_iff, mem_lanesOf, Option.map_eq_none_iff]
  intro l hl r hr
  exact (laneEmpty_of_full h hl.1 hl.2 hr).2

theorem emptyScalarStop_none {v : View} {ss : List Nat} (h : ScalarsFull v ss) (a : DWord) : emptyScalarStop v a ss = none := by
  unfold emptyScalarStop
  have : (ss.find? fun r => v.g.scalarEmpty r) = none := by
    simp only [List.find?_eq_none]
    intro r hr
    simp [Group.scalarEmpty, h r hr]
  simp only [this]

theorem poisonScalarStop_none {v : View} {ss : List Nat} (h : ScalarsFull v ss) (a : DWord) : poisonScalarStop v a ss = none := by
  simp only [poisonScalarStop, List.findSome?_eq_none_iff]
  intro r hr
  rw [h r hr]
  rfl

/-- Sources that are full stop nothing (R79, R111). -/
theorem sourceStop_none {v : View} {acting : DWord} {vs ss : List Nat} (h : LanesFull v acting vs) (k : ScalarsFull v ss)
    (a : DWord) : sourceStop v (lanesOf acting) a vs ss = none := by
  simp [sourceStop, emptyLaneStop_none h, emptyScalarStop_none k, poisonLaneStop_none h, poisonScalarStop_none k]

theorem scalarsFull_nil (v : View) : ScalarsFull v [] := by intro r h; cases h

theorem lanesFull_nil (v : View) (m : DWord) : LanesFull v m [] := by intro l _ _ r h; cases h

/-- The scalar sources of a lane instruction are read only where a lane acts. -/
theorem sourceStop_none_acting {v : View} {acting : DWord} {vs ss : List Nat} (h : LanesFull v acting vs)
    (k : acting ≠ 0 → ScalarsFull v ss) (a : DWord) :
    sourceStop v (lanesOf acting) a vs (if (lanesOf acting).isEmpty then [] else ss) = none := by
  split
  · exact sourceStop_none h (scalarsFull_nil v) a
  · rename_i hc
    exact sourceStop_none h (k fun h0 => hc ((lanesOf_isEmpty acting).mpr h0)) a

theorem allocStop_none {v : View} {acting : DWord} {ds : List Nat} (h : Served v acting ds) :
    allocStop v (lanesOf acting) ds = none := by
  have h' : v.s.allocServed v.core v.g.crew (v.g.needs (lanesOf acting) ds) = true := h
  simp [allocStop, h']

/-! ## Registers -/

theorem foldl_tblSet_get? {α : Type} (l : List Nat) (f : Nat → α) : ∀ (t : Tbl α) (k : Nat),
    tblGet? (l.foldl (fun t i => tblSet t i (f i)) t) k = if k ∈ l then some (f k) else tblGet? t k := by
  induction l with
  | nil => intro t k; simp
  | cons a r ih =>
    intro t k
    rw [List.foldl_cons, ih, tblGet?_tblSet]
    by_cases h1 : k ∈ r
    · simp [h1]
    · by_cases h2 : k = a
      · subst h2; simp
      · simp [h1, h2]

theorem lane?_putLanes (g : Group) (r : Nat) (lanes : List Nat) (f : Nat → LaneCell) (q l : Nat) :
    (g.putLanes r lanes f).lane? q l =
      if q = r then some (if l ∈ lanes then f l else (g.lane? r l).getD laneZero) else g.lane? q l := by
  unfold Group.putLanes Group.lane?
  simp only [tblGet?_tblSet]
  split
  · simp only [Option.map_some, tblGet, foldl_tblSet_get?]
    cases tblGet? g.vregs r with
    | none => simp only [Option.getD_none, Option.map_none, tblGet?]; split <;> rfl
    | some t => simp only [Option.getD_some, Option.map_some]; split <;> rfl
  · rfl

theorem lane?_writeLanes (g : Group) (r : Nat) (lanes : List Nat) (f : Nat → Word) (q l : Nat) :
    (g.writeLanes r lanes f).lane? q l =
      if q = r ∧ lanes.isEmpty = false then
        some (if l ∈ lanes then { val := f l, st := .full } else (g.lane? r l).getD laneZero)
      else g.lane? q l := by
  unfold Group.writeLanes
  split
  · rename_i h; simp [h]
  · rename_i h
    rw [lane?_putLanes]
    simp [h]

theorem lane?_freeReg (g : Group) (r q l : Nat) :
    (g.freeReg r).lane? q l = if q = r then none else g.lane? q l := by
  unfold Group.freeReg Group.lane?
  simp only [tblGet?_tblErase]
  split <;> rfl

theorem lane?_freeLast (l : List Nat) (ds : List Nat) : ∀ (g : Group) (q k : Nat),
    (g.freeLast l ds).lane? q k = if q ∈ l ∧ q ∉ ds then none else g.lane? q k := by
  induction l with
  | nil => intro g q k; simp [Group.freeLast]
  | cons a r ih =>
    intro g q k
    show Group.lane? (Group.freeLast (if ds.contains a then g else g.freeReg a) r ds) q k = _
    split
    · rename_i hc
      rw [ih g q k]
      by_cases hq : q = a
      · subst hq; simp_all
      · simp [hq]
    · rename_i hc
      rw [ih, lane?_freeReg g a q k]
      by_cases hq : q = a
      · subst hq; simp_all
      · simp [hq]

/-! ## The end of an instruction -/

/-- Two groups that differ in their slots and spilled splits alone. -/
def Group.SlotsOnly (g h : Group) : Prop := h = { g with slotA := h.slotA, slotB := h.slotB, spilled := h.spilled }

theorem Group.SlotsOnly.refl (g : Group) : g.SlotsOnly g := rfl

theorem Group.SlotsOnly.trans {g h k : Group} (a : g.SlotsOnly h) (b : h.SlotsOnly k) : g.SlotsOnly k := by
  unfold Group.SlotsOnly at *
  rw [b, a]

theorem Group.slotsOnly_setSlot (g : Group) (b : Bool) (x : Option Split) : g.SlotsOnly (g.setSlot b x) := by cases b <;> rfl

theorem Group.slotsOnly_exchange (g : Group) (b : Bool) (x y : Split) (r : List Split) : g.SlotsOnly (g.exchange b x y r) := by
  cases b <;> rfl

theorem Group.slotsOnly_refill (g : Group) (b : Bool) : g.SlotsOnly (g.refill b) := by
  unfold Group.refill
  split
  · rfl
  · split
    · cases b <;> rfl
    · split
      · exact Group.slotsOnly_exchange ..
      · rfl

theorem Group.slotsOnly_rotate (g : Group) (b : Bool) : g.SlotsOnly (g.rotate b) := by
  unfold Group.rotate
  split
  · split
    · exact Group.slotsOnly_exchange ..
    · rfl
  · rfl

theorem Group.slotsOnly_balance (g : Group) : g.SlotsOnly g.balance := by
  unfold Group.balance
  split
  · rfl
  · exact (((Group.slotsOnly_refill ..).trans (Group.slotsOnly_refill ..)).trans (Group.slotsOnly_rotate ..)).trans
      (Group.slotsOnly_rotate ..)

/-- Another view of one split: where it stands, apart from its counts and its split-stack entry. -/
def Split.Same (x y : Split) : Prop := y.pc = x.pc ∧ y.mask = x.mask ∧ y.fm = x.fm ∧ y.link = x.link ∧ y.wait = x.wait

/-- The group has this split, in a slot or spilled. -/
def Group.Has (g : Group) (x : Split) : Prop := ∃ y, y ∈ g.allSplits ∧ x.Same y

theorem Split.Same.refl (x : Split) : x.Same x := ⟨rfl, rfl, rfl, rfl, rfl⟩

theorem Split.Same.trans {x y z : Split} (h : x.Same y) (k : y.Same z) : x.Same z := by
  obtain ⟨a, b, c, d, e⟩ := h
  obtain ⟨a', b', c', d', e'⟩ := k
  exact ⟨a'.trans a, b'.trans b, c'.trans c, d'.trans d, e'.trans e⟩

/-- Taking the earliest pending split loses none. -/
theorem takePending_mem {l : List Split} : ∀ {x : Split} {r : List Split}, takePending l = some (x, r) → ∀ y ∈ l, y = x ∨ y ∈ r := by
  induction l with
  | nil => intro x r h; cases h
  | cons a t ih =>
    intro x r h y hy
    unfold takePending at h
    split at h
    · cases ht : takePending t with
      | none => rw [ht] at h; cases h
      | some p =>
        rw [ht] at h
        cases h
        rcases List.mem_cons.mp hy with rfl | hy
        · exact .inr (List.mem_cons_self ..)
        · exact (ih ht y hy).imp id (List.mem_cons_of_mem _)
    · cases h
      exact List.mem_cons.mp hy

theorem Group.mem_allSplits (g : Group) (b : Bool) (y : Split) :
    y ∈ g.allSplits ↔ g.slot b = some y ∨ g.slot (!b) = some y ∨ y ∈ g.spilled := by
  cases b <;> simp [Group.allSplits, Group.slot, or_left_comm]

/-- An exchange loses no split. -/
theorem Group.has_exchange {g : Group} {b : Bool} {o y : Split} {r : List Split} {x : Split} (hs : g.slot b = some o)
    (hp : takePending g.spilled = some (y, r)) (h : g.Has x) : (g.exchange b o y r).Has x := by
  obtain ⟨z, hz, hx⟩ := h
  have hsp : (g.exchange b o y r).spilled = r ++ [{ o with entry := y.entry, waitCount := 0 }] := rfl
  have hsl : (g.exchange b o y r).slot b = some { y with run := 0, waitCount := 0 } := by cases b <;> rfl
  have hot : (g.exchange b o y r).slot (!b) = g.slot (!b) := by cases b <;> rfl
  rcases (Group.mem_allSplits g b z).mp hz with h1 | h1 | h1
  · rw [hs] at h1
    cases h1
    exact ⟨{ o with entry := y.entry, waitCount := 0 }, (Group.mem_allSplits _ b _).mpr (.inr (.inr (by rw [hsp]; simp))), hx⟩
  · exact ⟨z, (Group.mem_allSplits _ b _).mpr (.inr (.inl (by rw [hot, h1]))), hx⟩
  · rcases takePending_mem hp z h1 with rfl | h2
    · exact ⟨{ z with run := 0, waitCount := 0 }, (Group.mem_allSplits _ b _).mpr (.inl hsl), hx⟩
    · exact ⟨z, (Group.mem_allSplits _ b _).mpr (.inr (.inr (by rw [hsp]; simp [h2]))), hx⟩

theorem Group.has_refill {g : Group} {x : Split} (b : Bool) (h : g.Has x) : (g.refill b).Has x := by
  unfold Group.refill
  split
  · exact h
  · rename_i y r hq
    have hp : takePending g.spilled = some (y, r) := by
      split at hq
      · cases hq
      · exact hq
    split
    · rename_i hn
      obtain ⟨z, hz, hx⟩ := h
      have hsl : Group.slot { g.setSlot b (some { y with run := 0, waitCount := 0 }) with spilled := r } b =
          some { y with run := 0, waitCount := 0 } := by
        cases b <;> rfl
      have hot : Group.slot { g.setSlot b (some { y with run := 0, waitCount := 0 }) with spilled := r } (!b) = g.slot (!b) := by
        cases b <;> rfl
      rcases (Group.mem_allSplits g b z).mp hz with h1 | h1 | h1
      · rw [hn] at h1; cases h1
      · exact ⟨z, (Group.mem_allSplits _ b _).mpr (.inr (.inl (by rw [hot, h1]))), hx⟩
      · rcases takePending_mem hp z h1 with rfl | h2
        · exact ⟨{ z with run := 0, waitCount := 0 }, (Group.mem_allSplits _ b _).mpr (.inl hsl), hx⟩
        · exact ⟨z, (Group.mem_allSplits _ b _).mpr (.inr (.inr h2)), hx⟩
    · rename_i o ho
      split
      · exact Group.has_exchange ho hp h
      · exact h

theorem Group.has_rotate {g : Group} {x : Split} (b : Bool) (h : g.Has x) : (g.rotate b).Has x := by
  unfold Group.rotate
  split
  · rename_i o y r hs hp
    split
    · exact Group.has_exchange hs hp h
    · exact h
  · exact h

/-- Balancing the slots loses no split. -/
theorem Group.has_balance {g : Group} {x : Split} (h : g.Has x) : g.balance.Has x := by
  unfold Group.balance
  split
  · exact h
  · exact Group.has_rotate _ (Group.has_rotate _ (Group.has_refill _ (Group.has_refill _ h)))

theorem Group.slot_exchange_other (g : Group) (b : Bool) (x y : Split) (r : List Split) :
    (g.exchange b x y r).slot (!b) = g.slot (!b) := by cases b <;> rfl

/-- A slot keeps a split that does not sleep at a barrier. -/
theorem Group.refill_slot (g : Group) (b k : Bool) (x : Split) (h : g.slot k = some x) (hb : x.atBarrier = false) :
    (g.refill b).slot k = some x := by
  unfold Group.refill
  split
  · exact h
  · split
    · rename_i hn
      cases b <;> cases k <;> simp_all [Group.slot, Group.setSlot]
    · rename_i y hy
      split
      · cases b <;> cases k <;> simp_all [Group.slot, Group.setSlot, Group.exchange]
      · exact h

/-- A slot keeps a split until its 1,024th instruction (R202). -/
theorem Group.rotate_slot (g : Group) (b k : Bool) (x : Split) (h : g.slot k = some x) (hr : x.run < 1024) :
    (g.rotate b).slot k = some x := by
  unfold Group.rotate
  split
  · rename_i y z r hy hp
    split
    · rename_i hc
      cases b <;> cases k <;> simp_all [Group.slot, Group.setSlot, Group.exchange] <;> omega
    · exact h
  · exact h

/-- A slot keeps a split that does not sleep at a barrier until its 1,024th instruction. -/
theorem Group.balance_slot (g : Group) (k : Bool) (x : Split) (h : g.slot k = some x) (hb : x.atBarrier = false)
    (hr : x.run < 1024) : g.balance.slot k = some x := by
  unfold Group.balance
  split
  · exact h
  · exact Group.rotate_slot _ _ _ _ (Group.rotate_slot _ _ _ _ (Group.refill_slot _ _ _ _ (Group.refill_slot _ _ _ _ h hb) hb) hr) hr

/-- What a completed instruction leaves of its group: the group as the instruction made it, with its slots moved on. After a `join`
that acts the count of R202 starts again. -/
theorem commitView_spec (w : View) (hi : w.idle = false) (hr : w.rest = .none ∨ ∃ l, w.rest = .acquired l) :
    StandsIn w.rest w.slotB { w.sl with run := if w.joined then 0 else w.sl.run } w.next (commitView w) ∧
    commitView w = { w.g with slotA := (commitView w).slotA, slotB := (commitView w).slotB, spilled := (commitView w).spilled,
                              active := true } := by
  have he : commitView w = (Group.setSlot { w.g with active := true } w.slotB
      (some { w.sl with pc := w.next, run := if w.joined then 0 else w.sl.run + 1, waitCount := 0, wait := w.rest, since := none,
                        verdicts := [] })).balance := by
    unfold commitView
    simp only [hi, Bool.false_eq_true, if_false]
  have ha : Split.atBarrier { w.sl with pc := w.next, run := if w.joined then 0 else w.sl.run + 1, waitCount := 0, wait := w.rest,
                                        since := none, verdicts := [] } = false := by
    obtain hr | ⟨l, hr⟩ := hr <;> simp [Split.atBarrier, hr]
  have hh := Group.slotsOnly_balance (Group.setSlot { w.g with active := true } w.slotB
      (some { w.sl with pc := w.next, run := if w.joined then 0 else w.sl.run + 1, waitCount := 0, wait := w.rest, since := none,
                        verdicts := [] }))
  constructor
  · have hs := Group.slot_setSlot_same { w.g with active := true } w.slotB
      (some { w.sl with pc := w.next, run := if w.joined then 0 else w.sl.run + 1, waitCount := 0, wait := w.rest, since := none,
                        verdicts := [] })
    rw [he]
    by_cases hc : (if w.joined then 0 else w.sl.run) + 1 < 1024
    · have hb := Group.balance_slot _ _ _ hs ha
        (show (if w.joined then 0 else w.sl.run + 1) < 1024 by split <;> simp_all)
      exact ⟨_, (Group.mem_allSplits _ w.slotB _).mpr (.inl hb), fun _ => hb, rfl, rfl, rfl, rfl, rfl⟩
    · obtain ⟨y, hy, hx⟩ := Group.has_balance (g := Group.setSlot { w.g with active := true } w.slotB _)
        ⟨_, (Group.mem_allSplits _ w.slotB _).mpr (.inl hs), Split.Same.refl _⟩
      exact ⟨y, hy, fun h => absurd h hc, hx.1, hx.2.1, hx.2.2.1, hx.2.2.2.1, hx.2.2.2.2⟩
  · rw [he]
    conv => lhs; rw [hh]
    cases w.slotB <;> rfl

@[simp] theorem State.keepWatch_slotA (s : State) (k : Nat) (g : Group) : (s.keepWatch k g).slotA = g.slotA := by
  unfold State.keepWatch; split <;> rfl
@[simp] theorem State.keepWatch_slotB (s : State) (k : Nat) (g : Group) : (s.keepWatch k g).slotB = g.slotB := by
  unfold State.keepWatch; split <;> rfl
@[simp] theorem State.keepWatch_spilled (s : State) (k : Nat) (g : Group) : (s.keepWatch k g).spilled = g.spilled := by
  unfold State.keepWatch; split <;> rfl
@[simp] theorem State.keepWatch_slot (s : State) (k : Nat) (g : Group) (b : Bool) : (s.keepWatch k g).slot b = g.slot b := by
  cases b <;> simp [Group.slot]
@[simp] theorem State.keepWatch_allSplits (s : State) (k : Nat) (g : Group) : (s.keepWatch k g).allSplits = g.allSplits := by
  simp [Group.allSplits]

/-- A group that the state holds keeps everything. -/
theorem State.keepWatch_self {s : State} {k : Nat} {g : Group} (h : s.group? k = some g) : s.keepWatch k g = g := by
  unfold State.keepWatch; rw [h]

/-- A completed instruction leaves the machine as it made it, its group committed with the watch and the private area that the
machine holds for it (R202, R241, R287). -/
theorem settle_endsIn (v w : View) (hi : w.idle = false) (hr : w.rest = .none ∨ ∃ l, w.rest = .acquired l) (hg : w.gid = v.gid)
    (hb : w.slotB = v.slotB) :
    EndsIn w.rest v { w.sl with run := if w.joined then 0 else w.sl.run } w.s w.next (settle v (.done w)) w.g := by
  have h := commitView_spec w hi hr
  refine ⟨⟨rfl, ⟨[], by simp [settle]⟩, ?_⟩, w.s.keepWatch w.gid (commitView w), ?_, ?_, ?_⟩
  · intro k hk
    rw [← hg] at hk
    simp [settle, hk]
  · simp [settle, ← hg]
  · rw [← hb]
    obtain ⟨x, h1, h2, h3⟩ := h.1
    exact ⟨x, by simpa using h1, fun hc => by simpa using h2 hc, h3⟩
  · rw [State.keepWatch_slotA, State.keepWatch_slotB, State.keepWatch_spilled, ← hg]
    exact congrArg (w.s.keepWatch w.gid) h.2

/-- The same where the split goes on at once, and the instruction is no `join` that acts. -/
theorem settle_endsAs (v w : View) (hw : w.GoesOn) (hg : w.gid = v.gid) (hb : w.slotB = v.slotB) :
    EndsAs v w.sl w.s w.next (settle v (.done w)) w.g := by
  have h := settle_endsIn v w hw.1 (.inl hw.2.1) hg hb
  rw [hw.2.1, hw.2.2] at h
  exact h

/-- The same where the executing split keeps its mask, `%fm` and record. -/
theorem settle_ends (v w : View) (hw : w.GoesOn) (hg : w.gid = v.gid) (hb : w.slotB = v.slotB) (hs : w.sl = v.sl) :
    Ends v w.s w.next (settle v (.done w)) w.g := by
  have h := settle_endsAs v w hw hg hb
  rw [hs] at h
  exact h

/-! ## Lane instructions -/

/-- The shape of a lane instruction's outcome from the registers that it leaves. -/
theorem laneResult_of (v : View) (g : Group) (lanes : DWord) (ds : List (Nat × (Nat → Word))) (freed : List Nat) (flags : DWord)
    (hw : v.GoesOn) (hg : g = { v.g with vregs := g.vregs, gstat := v.g.gstat ||| flags })
    (hr : RegsAfter v.g g lanes ds freed) :
    LaneResult v (settle v (.done { v with g := g })) lanes ds freed flags :=
  ⟨g, settle_ends v { v with g := g } hw rfl rfl rfl, hg, hr⟩

/-- The registers after one destination has been written and last-read sources are freed. -/
theorem regsAfter_write (g : Group) (lanes : DWord) (d : Nat) (f : Nat → Word) (last : List Nat) (flags : DWord) :
    RegsAfter g (((g.writeLanes d (lanesOf lanes) f).freeLast last [d]).raise flags) lanes [(d, f)] last := by
  have hl : ∀ q k, (((g.writeLanes d (lanesOf lanes) f).freeLast last [d]).raise flags).lane? q k =
      if q ∈ last ∧ q ∉ [d] then none else (g.writeLanes d (lanesOf lanes) f).lane? q k := by
    intro q k
    rw [← lane?_freeLast last [d] _ q k]
    rfl
  have hd : ∀ k, (g.writeLanes d (lanesOf lanes) f).lane? d k =
      if (lanesOf lanes).isEmpty = false then
        some (if k ∈ lanesOf lanes then { val := f k, st := .full } else (g.lane? d k).getD laneZero)
      else g.lane? d k := by
    intro k; rw [lane?_writeLanes]; simp
  refine ⟨?_, ?_, ?_, ?_⟩
  · intro p hp l hl' hm
    simp only [List.mem_singleton] at hp
    subst hp
    have hin : l ∈ lanesOf lanes := (mem_lanesOf _ _).mpr ⟨hl', hm⟩
    have hne : (lanesOf lanes).isEmpty = false := by
      cases hc : lanesOf lanes with
      | nil => rw [hc] at hin; cases hin
      | cons => rfl
    rw [hl, if_neg (by simp), hd, if_pos hne, if_pos hin]
  · intro p hp l hl' hm
    simp only [List.mem_singleton] at hp
    subst hp
    have hin : l ∉ lanesOf lanes := fun hc => by simp [((mem_lanesOf _ _).mp hc).2] at hm
    rw [hl, if_neg (by simp), hd]
    split
    · simp
    · rfl
  · intro r hr hf l
    have hr' : r ≠ d := hr _ (List.mem_singleton.mpr rfl)
    rw [hl, if_pos ⟨hf, by simpa using hr'⟩]
  · intro r hr hf l
    have hr' : r ≠ d := hr _ (List.mem_singleton.mpr rfl)
    rw [hl, if_neg (fun hc => hf hc.1), lane?_writeLanes, if_neg (fun hc => hr' hc.1)]

theorem Group.writeLanes_frame (g : Group) (r : Nat) (l : List Nat) (f : Nat → Word) :
    g.writeLanes r l f = { g with vregs := (g.writeLanes r l f).vregs } := by
  unfold Group.writeLanes
  split <;> rfl

theorem Group.freeLast_frame (l ds : List Nat) : ∀ g : Group, g.freeLast l ds = { g with vregs := (g.freeLast l ds).vregs } := by
  induction l with
  | nil => intro g; rfl
  | cons r t ih =>
    intro g
    show Group.freeLast (if ds.contains r then g else g.freeReg r) t ds = _
    split
    · rename_i h
      rw [ih g]
      simp only [Group.freeLast, List.foldl_cons, h, if_true]
    · rename_i h
      rw [ih (g.freeReg r)]
      simp only [Group.freeLast, List.foldl_cons, h, Bool.false_eq_true, if_false]
      rfl

/-- Writing a register and freeing sources changes the rename map alone; status bits are then raised. -/
theorem writeFree_frame (g : Group) (d : Nat) (lanes : List Nat) (f : Nat → Word) (last ds : List Nat) (flags : DWord) :
    ((g.writeLanes d lanes f).freeLast last ds).raise flags =
      { g with vregs := (((g.writeLanes d lanes f).freeLast last ds).raise flags).vregs, gstat := g.gstat ||| flags } := by
  rw [Group.freeLast_frame, Group.writeLanes_frame]
  rfl

/-- A lane instruction with one destination completes where its operands are ready (R77, R79, R205, R206). -/
theorem laneBody_runs {len : Nat} {s : State} {v : View} {guard d : Nat} {vs ss : List Nat} (last : List Nat)
    (f : View → Nat → FRes) (h : LaneReady len s v guard [d] vs ss) :
    ∃ t, runSplit len (laneBody guard d vs ss last f) s = .next t ∧
      LaneResult v t (v.acting guard) [(d, fun l => (f v l).1)] last
        (vacBits v.g (lanesOf (v.acting guard)) vs ||| flagBits (anyFlags (lanesOf (v.acting guard)) fun l => (f v l).2)) := by
  obtain ⟨he, hn, hl, hs, ha⟩ := h
  refine ⟨_, runSplit_eq _ he, ?_⟩
  have hn' : nameStop v (d :: vs) ss = none := nameStop_none hn
  simp only [laneBody, hn', sourceStop_none_acting hl hs, allocStop_none ha, guardStop_none]
  refine laneResult_of v _ _ _ _ _ (viewOf_goesOn he.1) ?_ (regsAfter_write v.g _ d _ last _)
  exact writeFree_frame v.g d _ _ last [d] _

/-! ## Instructions with a group guard -/

/-- A body that completes with a view of the same split. -/
theorem completes_of {len : Nat} {i : Instr} {s : State} {v w : View} {body : View → Res} (hi : exec i s = runSplit len body s)
    (he : Executes len s v) (hb : body v = .done w) (h1 : w.GoesOn) (h2 : w.gid = v.gid) (h3 : w.slotB = v.slotB)
    (h4 : w.sl = v.sl) : Completes i s v w.s w.next w.g := by
  refine ⟨settle v (body v), by rw [hi, runSplit_eq body he], ?_⟩
  rw [hb]
  exact settle_ends v w h1 h2 h3 h4

/-- A body that completes with the group alone changed. -/
theorem writes_of {len : Nat} {i : Instr} {s : State} {v : View} {body : View → Res} (g : Group)
    (hi : exec i s = runSplit len body s) (he : Executes len s v) (hb : body v = .done { v with g := g }) : Writes i s v g :=
  completes_of (w := { v with g := g }) hi he hb (show v.GoesOn from viewOf_goesOn he.1) rfl rfl rfl

/-- A scalar instruction writes its destination where its guard is true, and nothing where it is false (R22, R112). -/
theorem scalarBody_cruns {i : Instr} {s : State} {v : View} {guard d : Nat} {ss : List Nat} {f : View → DWord}
    (hi : exec i s = runSplit 4 (scalarBody guard d ss f) s) (h : ScalarReady s v guard [d] ss) :
    CRuns i s v guard v.s v.next (v.g.setScalar d (f v)) := by
  obtain ⟨he, hn, hs⟩ := h
  have hn' : nameStop v [] (d :: ss) = none := nameStop_none hn
  constructor
  · intro hg
    refine writes_of _ hi he ?_
    have := sourceStop_none (acting := 0) (lanesFull_nil v 0) (hs hg) v.sl.mask
    rw [show lanesOf 0 = [] from List.isEmpty_iff.mp ((lanesOf_isEmpty 0).mpr rfl)] at this
    simp [scalarBody, hn', hg, this]
  · intro hg
    exact writes_of v.g hi he (by simp [scalarBody, hn', hg])

/-- The continuation of an instruction with a group guard, where its guard is true. -/
theorem cBody_true {guard : Nat} {named srcs : List Nat} {k : View → Res} {v : View} (hn : Named v [] named)
    (hs : ScalarsFull v srcs) (hg : v.g.cpred guard = true) : cBody guard named srcs k v = k v := by
  have hn' : nameStop v [] named = none := nameStop_none hn
  have := sourceStop_none (acting := 0) (lanesFull_nil v 0) hs v.sl.mask
  rw [show lanesOf 0 = [] from List.isEmpty_iff.mp ((lanesOf_isEmpty 0).mpr rfl)] at this
  simp [cBody, hn', hg, this]

/-- An instruction whose group guard is false changes nothing but its pc. -/
theorem cBody_false {guard : Nat} {named srcs : List Nat} {k : View → Res} {v : View} (hn : Named v [] named)
    (hg : v.g.cpred guard = false) : cBody guard named srcs k v = .done v := by
  have hn' : nameStop v [] named = none := nameStop_none hn
  simp [cBody, hn', hg]

/-- An instruction with a group guard whose continuation completes. -/
theorem cBody_cruns {i : Instr} {s : State} {v w : View} {guard : Nat} {named srcs : List Nat} {k : View → Res}
    (hi : exec i s = runSplit 4 (cBody guard named srcs k) s) (he : Executes 4 s v) (hn : Named v [] named)
    (hs : v.g.cpred guard = true → ScalarsFull v srcs) (hk : v.g.cpred guard = true → k v = .done w) (h1 : w.GoesOn)
    (h2 : w.gid = v.gid) (h3 : w.slotB = v.slotB) (h4 : w.sl = v.sl) : CRuns i s v guard w.s w.next w.g := by
  constructor
  · intro hg
    exact completes_of hi he (by rw [cBody_true hn (hs hg) hg, hk hg]) h1 h2 h3 h4
  · intro hg
    exact writes_of v.g hi he (by rw [cBody_false hn hg])

end Sys2Proof.Machine
end

