-- ==== Sys2Proof/Machine/AsmText.lean ====
section
/-! DEFINITION. The text of the assembly language: lexical rules, expressions and their values, operands (R49 to R54, R396; log 31).
-/

namespace Sys2Proof.Machine

/-! ## Errors (R61) -/

/-- What a source line is rejected for. -/
inductive AsmError where
  /-- characters that no token begins with, or a line that starts neither with a label nor with white space (R49) -/
  | lexical
  /-- a statement or an operand that no form of R49 to R60 matches -/
  | statement
  /-- a mnemonic or directive that does not exist -/
  | unknown (name : String)
  /-- a guard of the wrong kind, or where none may stand (R54) -/
  | guard
  /-- a value outside its field or its limits (R53, R57, R58) -/
  | range
  /-- a combination that is not an instruction (R46) -/
  | illegal
  /-- a branch out of reach, or a target that is not a label of `.text` (R28, R396) -/
  | target
  /-- a symbol without a definition -/
  | undefinedSymbol (name : String)
  /-- a label or symbol defined twice, or named as a register is -/
  | redefined (name : String)
  /-- a relocatable value where a constant is asked for (R396) -/
  | relocatable
  /-- a zero divisor or a shift count outside 0 to 63 (R50) -/
  | arithmetic
  /-- an override that R56 rejects -/
  | override
  /-- an instruction at an odd address or outside `.text` (R59) -/
  | placement
  /-- kernels that nest, that lack `.width` or `.end`, or a second directive of those that stand once (R57, R58) -/
  | shape
  deriving DecidableEq, Repr

/-! ## Tokens (R49) -/

inductive Tok where
  | name (s : String)
  /-- the name of a directive, with its dot -/
  | dotted (s : String)
  | num (n : Nat)
  | mark (c : Char)
  | shl
  | shr
  deriving DecidableEq, Repr

/-- Characters that an identifier begins with. -/
def isNameStart (c : Char) : Bool := c.isAlpha || c == '_'

/-- Characters that an identifier goes on with. -/
def isNameChar (c : Char) : Bool := c.isAlphanum || c == '_' || c == '.' || c == '$'

/-- Blank characters. -/
def isBlank (c : Char) : Bool := c == ' ' || c == '\t'

/-- Value of a digit in a base, none for another character. -/
def digitOf (base : Nat) (c : Char) : Option Nat :=
  let n := c.toNat
  let v := if 48 ≤ n ∧ n ≤ 57 then n - 48 else if 97 ≤ n ∧ n ≤ 102 then n - 87 else if 65 ≤ n ∧ n ≤ 70 then n - 55 else 99
  if v < base then some v else none

/-- Value of digits in a base; underscores may stand between digits. -/
def digitsFrom (base : Nat) : Nat → Bool → List Char → Option Nat
  | n, last, [] => if last then some n else none
  | n, last, c :: r =>
    if c == '_' then (if last then digitsUnder base n r else none)
    else match digitOf base c with
      | some d => digitsFrom base (n * base + d) true r
      | none => none
where
  /-- After an underscore: another, or a digit. -/
  digitsUnder (base : Nat) : Nat → List Char → Option Nat
    | _, [] => none
    | n, c :: r =>
      if c == '_' then digitsUnder base n r
      else match digitOf base c with
        | some d => digitsFrom base (n * base + d) true r
        | none => none

/-- A numeric literal: decimal, `0x` or `0b`. -/
def literalOf (l : List Char) : Option Nat :=
  match l with
  | '0' :: 'x' :: r => digitsFrom 16 0 false r
  | '0' :: 'b' :: r => digitsFrom 2 0 false r
  | l => digitsFrom 10 0 false l

/-- The characters that are tokens by themselves. -/
def markChars : List Char := ['#', ',', '[', ']', '(', ')', ':', '!', '=', '+', '-', '*', '/', '%', '&', '^', '|', '~', '.']

/-- Tokens of a line's text, up to its comment; the first argument bounds the count. -/
def tokensOf : Nat → List Char → Except AsmError (List Tok)
  | 0, _ => .ok []
  | _, [] => .ok []
  | k + 1, c :: r =>
    if c == ';' then .ok []
    else if isBlank c then tokensOf k r
    else if isNameStart c then
      (tokensOf k (r.dropWhile isNameChar)).map (Tok.name (String.ofList (c :: r.takeWhile isNameChar)) :: ·)
    else if c == '.' && (match r with | d :: _ => isNameStart d | [] => false) then
      (tokensOf k (r.dropWhile isNameChar)).map (Tok.dotted (String.ofList (c :: r.takeWhile isNameChar)) :: ·)
    else if c.isDigit then
      match literalOf (c :: r.takeWhile fun d => d.isAlphanum || d == '_') with
      | some n => (tokensOf k (r.dropWhile fun d => d.isAlphanum || d == '_')).map (Tok.num n :: ·)
      | none => .error .lexical
    else match c, r with
      | '<', '<' :: r' => (tokensOf k r').map (Tok.shl :: ·)
      | '>', '>' :: r' => (tokensOf k r').map (Tok.shr :: ·)
      | _, _ => if markChars.contains c then (tokensOf k r).map (Tok.mark c :: ·) else .error .lexical

/-! ## Register names (R23, R52) -/

inductive RegKind where
  | v | s | p | c | za | q
  deriving DecidableEq, Repr

/-- How many registers of a kind can be named. -/
def RegKind.count : RegKind → Nat
  | .v => 64
  | .s => 64
  | .p => 8
  | .c => 8
  | .za => 16
  | .q => 16

/-- A register number: decimal digits without a leading zero, below the kind's count. -/
def regNumber (k : RegKind) (l : List Char) : Option (RegKind × Nat) :=
  if l.contains '_' || (l.head? == some '0' && l.length != 1) then none
  else match digitsFrom 10 0 false l with
    | some n => if n < k.count then some (k, n) else none
    | none => none

/-- The register that a name spells. -/
def regOf (s : String) : Option (RegKind × Nat) :=
  match s.toList with
  | ['f', 'p'] => some (.s, 61)
  | ['l', 'k'] => some (.s, 62)
  | 'v' :: r => regNumber .v r
  | 's' :: r => regNumber .s r
  | 'p' :: r => regNumber .p r
  | 'c' :: r => regNumber .c r
  | 'z' :: 'a' :: r => regNumber .za r
  | 'q' :: r => regNumber .q r
  | _ => none

/-- The special registers in the order of their indices (R133). -/
def specialNames : List String :=
  ["clock", "cycle", "core", "reticle", "crew", "grp", "width", "ctx", "launch", "gstat", "gc", "fm", "mst", "prog", "bnc",
   "bnm", "ire", "splits", "wbase", "dress"]

/-! ## Expressions (R50) -/

inductive BinOp where
  | mul | div | rem | add | sub | shl | shr | and | xor | or
  deriving DecidableEq, Repr

inductive Expr where
  | num (n : Nat)
  | sym (s : String)
  | here
  | neg (e : Expr)
  | compl (e : Expr)
  | bin (op : BinOp) (a b : Expr)
  deriving DecidableEq, Repr

/-- The operator of a precedence level that a token is; level 0 binds least, level 5 most. -/
def operatorAt (level : Nat) (t : Tok) : Option BinOp :=
  match level, t with
  | 0, .mark '|' => some .or
  | 1, .mark '^' => some .xor
  | 2, .mark '&' => some .and
  | 3, .shl => some .shl
  | 3, .shr => some .shr
  | 4, .mark '+' => some .add
  | 4, .mark '-' => some .sub
  | 5, .mark '*' => some .mul
  | 5, .mark '/' => some .div
  | 5, .mark '%' => some .rem
  | _, _ => none

/-- Parses an expression of a precedence level; `acc` is what stands to the left of the next operator. The operators of a level
associate from the left (R50). -/
def parseExpr : Nat → Nat → Option Expr → List Tok → Except AsmError (Expr × List Tok)
  | 0, _, _, _ => .error .statement
  | k + 1, level, some l, ts =>
    match ts with
    | [] => .ok (l, [])
    | t :: rest =>
      match operatorAt level t with
      | none => .ok (l, ts)
      | some op =>
        match parseExpr k (level + 1) none rest with
        | .ok (r, rest') => parseExpr k level (some (.bin op l r)) rest'
        | .error e => .error e
  | k + 1, level, none, ts =>
    if level < 6 then
      match parseExpr k (level + 1) none ts with
      | .ok (l, rest) => parseExpr k level (some l) rest
      | .error e => .error e
    else match ts with
      | .num n :: rest => if n < 2 ^ 64 then .ok (.num n, rest) else .error .range
      | .mark '.' :: rest => .ok (.here, rest)
      | .name s :: rest => if (regOf s).isSome then .error .statement else .ok (.sym s, rest)
      | .mark '-' :: rest => (parseExpr k 6 none rest).map fun x => (.neg x.1, x.2)
      | .mark '~' :: rest => (parseExpr k 6 none rest).map fun x => (.compl x.1, x.2)
      | .mark '(' :: rest =>
        match parseExpr k 0 none rest with
        | .ok (e, .mark ')' :: rest') => .ok (e, rest')
        | .ok _ => .error .statement
        | .error e => .error e
      | _ => .error .statement

/-- An expression at the front of tokens. -/
def exprFront (ts : List Tok) : Except AsmError (Expr × List Tok) := parseExpr (16 * ts.length + 16) 0 none ts

/-- Tokens that are one expression. -/
def exprAll (ts : List Tok) : Except AsmError Expr :=
  match exprFront ts with
  | .ok (e, []) => .ok e
  | .ok _ => .error .statement
  | .error e => .error e

/-! ## Values (R50, R396) -/

/-- The sections that hold code and data (R58). -/
inductive Sec where
  | text | rodata | data
  deriving DecidableEq, Repr

/-- A constant, or a place: a section, an offset in it, and the label it was reckoned from. -/
inductive Val where
  | const (x : DWord)
  | loc (sec : Sec) (off : DWord) (label : Option String)
  deriving DecidableEq, Repr

/-- The constant operators. Division and remainder truncate toward zero, `>>` is arithmetic. -/
def BinOp.apply (op : BinOp) (a b : DWord) : Except AsmError DWord :=
  match op with
  | .mul => .ok (a * b)
  | .div => if b = 0 then .error .arithmetic else .ok (BitVec.sdiv a b)
  | .rem => if b = 0 then .error .arithmetic else .ok (BitVec.srem a b)
  | .add => .ok (a + b)
  | .sub => .ok (a - b)
  | .shl => if b.toNat < 64 then .ok (a <<< b.toNat) else .error .arithmetic
  | .shr => if b.toNat < 64 then .ok (BitVec.sshiftRight a b.toNat) else .error .arithmetic
  | .and => .ok (a &&& b)
  | .xor => .ok (a ^^^ b)
  | .or => .ok (a ||| b)

/-- The operators on both kinds of value: the table of R396. -/
def BinOp.combine (op : BinOp) (a b : Val) : Except AsmError Val :=
  match a, b with
  | .const x, .const y => (op.apply x y).map .const
  | .loc s o l, .const y =>
    match op with
    | .add => .ok (.loc s (o + y) l)
    | .sub => .ok (.loc s (o - y) l)
    | _ => .error .relocatable
  | .const x, .loc s o l =>
    match op with
    | .add => .ok (.loc s (x + o) l)
    | _ => .error .relocatable
  | .loc s o _, .loc s' o' _ => if op = .sub ∧ s = s' then .ok (.const (o - o')) else .error .relocatable

/-- The value of an expression, given the symbols and the current location. -/
def Expr.eval (env : List (String × Val)) (place : Val) : Expr → Except AsmError Val
  | .num n => .ok (.const (BitVec.ofNat 64 n))
  | .sym s => match env.lookup s with
    | some v => .ok v
    | none => .error (.undefinedSymbol s)
  | .here => .ok place
  | .neg e => match e.eval env place with
    | .ok (.const x) => .ok (.const (-x))
    | .ok _ => .error .relocatable
    | .error x => .error x
  | .compl e => match e.eval env place with
    | .ok (.const x) => .ok (.const (~~~x))
    | .ok _ => .error .relocatable
    | .error x => .error x
  | .bin op a b => match a.eval env place, b.eval env place with
    | .ok x, .ok y => op.combine x y
    | .error x, _ => .error x
    | _, .error x => .error x

/-- The constant that an expression is (R396). -/
def Expr.const (env : List (String × Val)) (place : Val) (e : Expr) : Except AsmError DWord :=
  match e.eval env place with
  | .ok (.const x) => .ok x
  | .ok _ => .error .relocatable
  | .error x => .error x

/-- Whether no label and no `.` stands in an expression. -/
def Expr.plain (env : List (String × Val)) : Expr → Bool
  | .num _ => true
  | .sym s => match env.lookup s with
    | some (.const _) => true
    | _ => false
  | .here => false
  | .neg e => e.plain env
  | .compl e => e.plain env
  | .bin _ a b => a.plain env && b.plain env

/-- Whether an expression is a label, plus or minus constants: the form of a branch target (R396; log 31). The constant
before a label, as in `4 + L`, is one without labels. -/
def Expr.isTarget (env : List (String × Val)) (place : Val) : Expr → Bool
  | .sym s => match env.lookup s with
    | some (.loc _ _ _) => true
    | _ => false
  | .bin .add a b => (a.isTarget env place && (b.const env place).isOk) || (a.plain env && b.isTarget env place)
  | .bin .sub a b => a.isTarget env place && (b.const env place).isOk
  | _ => false

/-! ## Operands (R52, R54, R56) -/

inductive Opd where
  /-- a register, with `!` where it is the last read (R30) -/
  | reg (k : RegKind) (n : Nat) (last : Bool)
  /-- `v2:v3`: first and last vector register -/
  | range (first last : Nat)
  | special (idx : Nat)
  | imm (e : Expr)
  /-- `[s4 + v3]` -/
  | addrSV (s v : Nat)
  /-- `[v2:v3]` -/
  | addrPair (first last : Nat)
  /-- `[v6 + e]`, `[s5 + e]`; `[v6]` and `[s5]` without an offset -/
  | addrReg (k : RegKind) (n : Nat) (off : Option Expr)
  | target (e : Expr)
  /-- `name=e` (R56) -/
  | keyed (name : String) (e : Expr)
  deriving DecidableEq, Repr

/-- The address between brackets, and what follows it. -/
def parseAddress (ts : List Tok) : Except AsmError (Opd × List Tok) :=
  match ts with
  | .name a :: .mark ':' :: .name b :: .mark ']' :: rest =>
    match regOf a, regOf b with
    | some (.v, x), some (.v, y) => .ok (.addrPair x y, rest)
    | _, _ => .error .statement
  | .name a :: .mark ']' :: rest =>
    match regOf a with
    | some (k, n) => .ok (.addrReg k n none, rest)
    | none => .error .statement
  | .name a :: .mark '+' :: rest =>
    match regOf a with
    | none => .error .statement
    | some (k, n) =>
      match (match rest with | .name b :: .mark ']' :: rest' => (regOf b).map fun x => (x, rest') | _ => none) with
      | some ((.v, m), rest') => if k = .s then .ok (.addrSV n m, rest') else .error .statement
      | some _ => .error .statement
      | none =>
        match exprFront rest with
        | .ok (e, .mark ']' :: rest') => .ok (.addrReg k n (some e), rest')
        | .ok _ => .error .statement
        | .error e => .error e
  | _ => .error .statement

/-- One operand, and what follows it. -/
def parseOperand (ts : List Tok) : Except AsmError (Opd × List Tok) :=
  match ts with
  | .mark '#' :: rest => (exprFront rest).map fun x => (.imm x.1, x.2)
  | .mark '[' :: rest => parseAddress rest
  | .mark '%' :: .name s :: rest =>
    match specialNames.findIdx? (· == s) with
    | some i => .ok (.special i, rest)
    | none => .error (.unknown s)
  | .name s :: .mark '=' :: rest => (exprFront rest).map fun x => (.keyed s x.1, x.2)
  | .name s :: rest =>
    match regOf s with
    | none => (exprFront ts).map fun x => (.target x.1, x.2)
    | some (k, n) =>
      match rest with
      | .mark '!' :: rest' => if k = .v then .ok (.reg .v n true, rest') else .error .statement
      | .mark ':' :: .name b :: rest' =>
        match k, regOf b with
        | .v, some (.v, m) => .ok (.range n m, rest')
        | _, _ => .error .statement
      | _ => .ok (.reg k n false, rest)
  | _ => (exprFront ts).map fun x => (.target x.1, x.2)

/-- Operands separated by commas; the first argument bounds their count. -/
def parseOperands : Nat → List Tok → Except AsmError (List Opd)
  | 0, _ => .error .statement
  | _, [] => .ok []
  | k + 1, ts =>
    match parseOperand ts with
    | .error e => .error e
    | .ok (o, []) => .ok [o]
    | .ok (o, .mark ',' :: t :: rest) => (parseOperands k (t :: rest)).map (o :: ·)
    | .ok _ => .error .statement

/-- A statement: guard, name and the tokens after it. -/
structure Stmt where
  /-- a guard as it is written, `p` or `c` and its number -/
  guard : Option (RegKind × Nat)
  name  : String
  rest  : List Tok
  deriving DecidableEq, Repr

/-- A statement of a line's tokens (R51, R54). -/
def parseStmt (ts : List Tok) : Except AsmError (Option Stmt) :=
  match ts with
  | [] => .ok none
  | .mark '(' :: .name g :: .mark ')' :: .name n :: rest =>
    match regOf g with
    | some (.p, i) => .ok (some { guard := some (.p, i), name := n, rest := rest })
    | some (.c, i) => .ok (some { guard := some (.c, i), name := n, rest := rest })
    | _ => .error .guard
  | .name n :: rest => .ok (some { guard := none, name := n, rest := rest })
  | .dotted n :: rest => .ok (some { guard := none, name := n, rest := rest })
  | _ => .error .statement

/-- The label of a line, and its text after it: a label starts in column 0, any other line with white space (R49). -/
def splitLabel (line : List Char) : Except AsmError (Option String × List Char) :=
  match line with
  | [] => .ok (none, [])
  | c :: r =>
    if isBlank c then .ok (none, line)
    else if isNameStart c then
      match r.dropWhile isNameChar with
      | ':' :: rest => .ok (some (String.ofList (c :: r.takeWhile isNameChar)), rest)
      | _ => .error .lexical
    else .error .lexical

/-! ## Reals (R58) -/

/-- An exact real: sign, magnitude m * 2^e / 10^d. -/
structure AsmReal where
  neg : Bool
  m   : Nat
  e   : Int
  d   : Nat
  deriving DecidableEq, Repr

/-- Characters without the underscores that stand between digits (R49); none where one stands elsewhere. -/
def withoutUnder (base : Nat) : Bool → List Char → Option (List Char)
  | _, [] => some []
  | prev, c :: r =>
    if c == '_' then
      if prev && (match r.dropWhile (· == '_') with | d :: _ => (digitOf base d).isSome | [] => false) then withoutUnder base true r
      else none
    else (withoutUnder base (digitOf base c).isSome r).map (c :: ·)

/-- Digits with at most one point: the number without its point, and the count of digits after it. -/
def pointDigitsFrom (base : Nat) : Nat → Option Nat → Bool → List Char → Option (Nat × Nat)
  | n, after, some1, [] => if some1 then some (n, after.getD 0) else none
  | n, after, some1, c :: r =>
    if c == '.' then (if after.isNone then pointDigitsFrom base n (some 0) some1 r else none)
    else match digitOf base c with
      | some v => pointDigitsFrom base (n * base + v) (after.map (· + 1)) true r
      | none => none

/-- The same with underscores between digits. -/
def pointDigits (base : Nat) (l : List Char) : Option (Nat × Nat) :=
  match withoutUnder base false l with
  | some x => pointDigitsFrom base 0 none false x
  | none => none

/-- An exponent: digits with an optional sign. -/
def exponentOf (l : List Char) : Option Int :=
  match l with
  | '-' :: r => (digitsFrom 10 0 false r).map fun n => -(n : Int)
  | '+' :: r => (digitsFrom 10 0 false r).map fun n => (n : Int)
  | r => (digitsFrom 10 0 false r).map fun n => (n : Int)

/-- A decimal real, with an optional exponent of ten, or a hexadecimal one, with an optional exponent of two (log 31). -/
def realOf (neg : Bool) (l : List Char) : Option AsmReal :=
  match l with
  | '0' :: 'x' :: r =>
    let i := r.takeWhile fun c => c != 'p'
    let e := match r.dropWhile fun c => c != 'p' with
      | _ :: x => exponentOf x
      | [] => some 0
    match pointDigits 16 i, e with
    | some (m, k), some e => some { neg := neg, m := m, e := e - 4 * k, d := 0 }
    | _, _ => none
  | r =>
    let i := r.takeWhile fun c => c != 'e'
    let e := match r.dropWhile fun c => c != 'e' with
      | _ :: x => exponentOf x
      | [] => some 0
    match pointDigits 10 i, e with
    | some (m, k), some e =>
      let s : Int := e - (k : Int)
      some (if 0 ≤ s then { neg := neg, m := m * 10 ^ s.toNat, e := 0, d := 0 } else { neg := neg, m := m, e := 0, d := (-s).toNat })
    | _, _ => none

/-- A real rounded once to a format, to nearest even. -/
def AsmReal.round (x : AsmReal) (f : Fmt) : Nat :=
  if x.d = 0 then (roundArith f 0 false x.neg x.m x.e false).1
  else
    let sh := 300 + 4 * x.d
    let n := x.m * 2 ^ sh
    (roundArith f 0 false x.neg (n / 10 ^ x.d) (x.e - sh) (n % 10 ^ x.d != 0)).1

/-- The pattern of one operand of `.f32` or `.bf16`. -/
def realPattern (f : Fmt) (l : List Char) : Option Nat :=
  if l == "nan".toList then some f.canonNan
  else if l == "inf".toList then some f.infMag
  else if l == "-inf".toList then some (f.signBit true + f.infMag)
  else match l with
    | '-' :: r => (realOf true r).map fun x => x.round f
    | r => (realOf false r).map fun x => x.round f

/-- Characters without the blanks at their ends. -/
def trimBlank (l : List Char) : List Char := ((l.dropWhile isBlank).reverse.dropWhile isBlank).reverse

/-- Characters split at commas. -/
def splitCommas : List Char → List Char → List (List Char)
  | acc, [] => [trimBlank acc.reverse]
  | acc, c :: r => if c == ',' then trimBlank acc.reverse :: splitCommas [] r else splitCommas (c :: acc) r

/-- Characters split at a character. -/
def splitOn (sep : Char) : List Char → List Char → List (List Char)
  | acc, [] => [acc.reverse]
  | acc, c :: r => if c == sep then acc.reverse :: splitOn sep [] r else splitOn sep (c :: acc) r

/-- The parts of a mnemonic between its dots (R51). -/
def nameParts (s : String) : List String := (splitOn '.' [] s.toList).map String.ofList

end Sys2Proof.Machine
end

