-- ==== Sys2Proof/Machine/AsmForms.lean ====
section
/-! DEFINITION. The forms of the assembly language: what operands each mnemonic takes and where they stand in the words (R51 to R56,
R60, R82 to R97, R113 to R143, R229 to R250, R260, R270, R302; log 31). -/

namespace Sys2Proof.Machine

/-! ## Forms -/

/-- Which offset of R28 a target operand fills. -/
inductive Reach where
  | off22 | off12 | j11
  deriving DecidableEq, Repr

/-- One operand of a form: what is written, and the lowest bit of its field. -/
inductive Pat where
  /-- vector register that holds a value of `span` registers, written as one register or as a range; `last` is the bit of its
  last-read mark -/
  | vec (lo span : Nat) (last : Option Nat)
  /-- `span` vector registers, written as a range -/
  | vecRange (lo span : Nat)
  /-- scalar register through which `span` registers are named (R206) -/
  | sca (lo span : Nat)
  | pred (lo : Nat)
  | cond (lo : Nat)
  | tile (lo : Nat)
  | queue (lo : Nat)
  /-- the predicate that the guard field names (`brx`, `brxr`) -/
  | guardPred
  /-- immediate of `width` bits from `min` to `max` -/
  | imm (lo width : Nat) (min max : Int)
  | special (lo : Nat)
  /-- `[sb + vo]` of GM -/
  | addrGM
  /-- `[va:va+1]` -/
  | addrPair (lo : Nat)
  /-- `[va]`, without an offset -/
  | addrVec (lo : Nat)
  /-- `[va + off]`, off a multiple of the access size (R52) -/
  | addrVecOff (size : Nat)
  /-- `[sa]` -/
  | addrSca (lo : Nat)
  /-- `[sa + off]` of `lq` -/
  | addrLq
  | target (r : Reach)
  deriving DecidableEq, Repr

/-- The kinds of guard (R27, R36, R43): `never` where no guard may be written. -/
inductive GuardForm where
  | p | c | never
  deriving DecidableEq, Repr

/-- A form of a 32-bit instruction: its class, its guard, its fixed fields (lowest bit, width, value) and its operands. -/
structure Form where
  cls   : Nat
  guard : GuardForm
  fixed : List (Nat × Nat × Nat)
  pats  : List Pat
  deriving DecidableEq, Repr

def formVR (cls fn3 : Nat) : Form :=
  { cls := cls, guard := .p, fixed := [(29, 3, fn3)], pats := [.vec 9 1 none, .vec 15 1 (some 27), .vec 21 1 (some 28)] }
def formVRS (cls fn3 : Nat) : Form :=
  { cls := cls, guard := .p, fixed := [(29, 3, fn3)], pats := [.vec 9 1 none, .vec 15 1 (some 27), .sca 21 1] }
def formVU (fn6 : Nat) : Form :=
  { cls := 0x05, guard := .p, fixed := [(21, 6, fn6)], pats := [.vec 9 1 none, .vec 15 1 (some 27)] }
def formVI (fn3 width : Nat) (min max : Int) : Form :=
  { cls := 0x0A, guard := .p, fixed := [(21, 3, fn3)], pats := [.vec 9 1 none, .vec 15 1 none, .imm 24 width min max] }
def formSR (fn5 : Nat) : Form := { cls := 0x0B, guard := .c, fixed := [(27, 5, fn5)], pats := [.sca 9 1, .sca 15 1, .sca 21 1] }
def formSRU (fn5 : Nat) : Form := { cls := 0x0B, guard := .c, fixed := [(27, 5, fn5)], pats := [.sca 9 1, .sca 15 1] }
def formSI (fn3 width : Nat) (min max : Int) : Form :=
  { cls := 0x0C, guard := .c, fixed := [(21, 3, fn3)], pats := [.sca 9 1, .sca 15 1, .imm 24 width min max] }
def formSLI (fn2 : Nat) (min max : Int) : Form :=
  { cls := 0x0D, guard := .c, fixed := [(15, 2, fn2)], pats := [.sca 9 1, .imm 17 15 min max] }
def formXS (fn3 : Nat) (g : GuardForm) (pats : List Pat) : Form := { cls := 0x0E, guard := g, fixed := [(29, 3, fn3)], pats := pats }
def formJR (fn3 : Nat) (g : GuardForm) (pats : List Pat) : Form := { cls := 0x12, guard := g, fixed := [(21, 3, fn3)], pats := pats }
def formFN (fn3 : Nat) (fixed : List (Nat × Nat × Nat)) (pats : List Pat) : Form :=
  { cls := 0x1B, guard := .c, fixed := (29, 3, fn3) :: fixed, pats := pats }
def formQ (fn3 : Nat) (pats : List Pat) : Form := { cls := 0x1C, guard := .c, fixed := [(19, 3, fn3)], pats := pats }
def formSY (fn5 : Nat) (g : GuardForm) (pats : List Pat) : Form := { cls := 0x1F, guard := g, fixed := [(27, 5, fn5)], pats := pats }

/-- The unary lane functions in the order of fn6 (R32). -/
def unaryNames : List String :=
  ["mov", "not", "neg.i32", "abs.i32", "popc", "clz", "brev", "sext8", "sext16", "fabs", "fneg", "frcp", "frsq", "fsqrt", "fexp2",
   "flog2", "fsin", "fcos", "ftanh", "ffloor"] ++
  ["fceil", "ftrunc", "frint", "ffract", "cvt.f32.s32", "cvt.f32.n32", "cvt.s32.f32.rz", "cvt.s32.f32.rn", "cvt.n32.f32.rz",
   "cvt.bf16.f32", "cvt.f32.bf16.lo", "cvt.f32.bf16.hi", "cvt.f16.f32", "cvt.f32.f16.lo", "cvt.f32.f16.hi", "cvt.e4m3.f32",
   "cvt.f32.e4m3", "cvt.e5m2.f32", "cvt.f32.e5m2", "fsat"]

/-- Names of a minor code, in the order of the code: the name at place i has the form `f i`. -/
def numbered (f : Nat → Form) (names : List String) : List (String × Form) :=
  ((List.range names.length).zip names).map fun x => (x.2, f x.1)

/-- The lane forms of R31 to R33. -/
def laneForms : List (String × Form) :=
  numbered (formVR 0x00) ["add.i32", "sub.i32", "mul.i32", "mulh.s32", "mulh.n32", "min.s32", "max.s32", "mad.i32"] ++
  numbered (formVR 0x01) ["and", "or", "xor", "shl", "shr.n32", "shr.s32", "min.n32", "max.n32"] ++
  numbered (formVRS 0x02) ["add.i32", "sub.i32", "mul.i32", "and", "or", "shl", "mad.i32"] ++
  numbered (formVR 0x03) ["fadd.f32", "fsub.f32", "fmul.f32", "ffma.f32", "ffms.f32", "fmin.f32", "fmax.f32", "pack.bf16x2"] ++
  numbered (formVRS 0x04) ["fadd.f32", "fsub.f32", "fmul.f32", "ffma.f32", "ffms.f32", "fmin.f32", "fmax.f32", "fscale.f32"] ++
  numbered formVU unaryNames ++
  [("addw", { cls := 0x02, guard := .p, fixed := [(29, 3, 7)], pats := [.vec 9 2 none, .vec 15 1 (some 27), .sca 21 1] }),
   ("sel", { cls := 0x0F, guard := .p, fixed := [], pats := [.vec 9 1 none, .pred 29, .vec 15 1 (some 27), .vec 21 1 (some 28)] }),
   ("addi", formVI 0 8 (-128) 127), ("andi", formVI 1 8 0 255), ("ori", formVI 2 8 0 255), ("xori", formVI 3 8 0 255),
   ("shli", formVI 4 5 0 31), ("shri.n32", formVI 5 5 0 31), ("shri.s32", formVI 6 5 0 31), ("muli", formVI 7 8 (-128) 127)]

/-- The scalar forms of R33, R34, R113 to R117. -/
def scalarForms : List (String × Form) :=
  numbered formSR ["add", "sub", "mul", "mulh.s", "mulh.n", "and", "or", "xor", "andn", "shl", "shr.n", "shr.s", "min.s", "max.s",
    "min.n", "max.n", "div.s", "div.n", "rem.s", "rem.n"] ++
  [("clz", formSRU 20), ("popc", formSRU 21), ("mov", formSRU 22), ("bfx", formSR 23),
   ("addi", formSI 0 8 (-128) 127), ("andi", formSI 1 8 0 255), ("ori", formSI 2 8 0 255), ("xori", formSI 3 8 0 255),
   ("shli", formSI 4 6 0 63), ("shri.n", formSI 5 6 0 63), ("shri.s", formSI 6 6 0 63), ("muli", formSI 7 8 (-128) 127),
   ("li", formSLI 0 (-16384) 16383), ("lis", formSLI 1 0 32767), ("addis", formSLI 2 (-16384) 16383)]

/-- Cross-lane forms and control (R36, R118 to R131). -/
def controlForms : List (String × Form) :=
  [("bcast", formXS 0 .p [.vec 9 1 none, .sca 15 1]),
   ("rdlane", formXS 1 .c [.sca 9 1, .vec 15 1 (some 27), .sca 21 1]),
   ("wrlane", formXS 2 .p [.vec 9 1 none, .sca 15 1, .sca 21 1]),
   ("shfl", formXS 3 .p [.vec 9 1 none, .vec 15 1 (some 27), .vec 21 1 (some 28)]),
   ("shfl.x", formXS 4 .p [.vec 9 1 none, .vec 15 1 (some 27), .vec 21 1 (some 28)]),
   ("ballot", formXS 5 .c [.sca 9 1, .pred 15]),
   ("redi", formXS 6 .c [.sca 9 1, .vec 15 1 (some 27)]),
   ("redf", formXS 7 .c [.sca 9 1, .vec 15 1 (some 27)]),
   ("bra", { cls := 0x10, guard := .c, fixed := [(9, 1, 1)], pats := [.target .off22] }),
   ("bra", { cls := 0x10, guard := .p, fixed := [(9, 1, 0)], pats := [.target .off22] }),
   ("brx", { cls := 0x11, guard := .never, fixed := [], pats := [.guardPred, .target .off12, .target .j11] }),
   ("call", { cls := 0x13, guard := .c, fixed := [], pats := [.target .off22] }),
   ("join", formJR 0 .never []), ("jmpr", formJR 1 .c [.sca 9 1]), ("callr", formJR 2 .c [.sca 9 1]), ("ret", formJR 3 .c []),
   ("brxr", formJR 4 .never [.guardPred, .sca 9 1, .sca 15 1]), ("trap", formJR 6 .c [.imm 24 8 0 255]), ("yield", formJR 7 .c [])]

/-- System functions, synchronisation, queues and matrix operations with fixed names (R39, R40, R42, R43). -/
def systemForms : List (String × Form) :=
  [("gsr", formSY 0 .c [.sca 9 1, .special 15]), ("ssr", formSY 1 .c [.special 15, .sca 21 1]),
   ("wid", formSY 2 .p [.vec 9 1 none, .imm 15 6 0 6]), ("topo", formSY 3 .c [.sca 9 1, .imm 15 6 0 9]),
   ("chk", formSY 4 .p [.pred 9, .vec 15 1 none]), ("idem", formSY 5 .c []), ("idemx", formSY 6 .c []),
   ("brk", formSY 7 .c [.imm 15 12 0 4095]), ("launch", formSY 8 .c [.sca 9 1, .sca 15 1, .sca 21 1]),
   ("evpost", formSY 9 .c [.sca 15 1]), ("ldw", formSY 10 .p [.vec 9 1 none, .addrPair 15, .sca 21 1]),
   ("lodge", formSY 11 .c [.sca 9 1, .addrSca 15]), ("pfg", formSY 12 .c [.addrSca 15]), ("lq", formSY 13 .c [.sca 9 1, .addrLq])] ++
  [("marm", formFN 1 [] [.addrSca 9]), ("mwait", formFN 2 [] [.sca 9 1, .sca 15 1]),
   ("bseal.copy", formFN 3 [(21, 1, 0)] [.sca 9 1]), ("bseal.mat", formFN 3 [(21, 1, 1)] [.sca 9 1]),
   ("bwait.copy", formFN 4 [(21, 1, 0)] [.sca 9 1]), ("bwait.mat", formFN 4 [(21, 1, 1)] [.sca 9 1]),
   ("bar", formFN 5 [] [.imm 21 3 0 6, .sca 15 1]), ("bar.lanes", formFN 5 [(21, 3, 7)] [.sca 9 1]),
   ("tgate", formFN 6 [] [.imm 21 3 0 2])] ++
  [("qpush", formQ 0 [.queue 15, .sca 9 1]), ("qpop", formQ 1 [.sca 9 1, .queue 15]),
   ("qtpush", formQ 2 [.queue 15, .sca 9 1, .cond 22]), ("qtpop", formQ 3 [.sca 9 1, .queue 15, .cond 22]),
   ("qinit", formQ 4 [.queue 15, .sca 9 1, .imm 22 7 1 64]), ("qstat", formQ 5 [.sca 9 1, .queue 15])]

/-- The forms of mnemonics that have no suffix of their own. -/
def fixedForms : List (String × Form) := laneForms ++ scalarForms ++ controlForms ++ systemForms

/-! ## Mnemonics with suffixes (R51) -/

/-- Scopes and orderings (R38). -/
def scopeNames : List (String × Nat) := [("grp", 0), ("crew", 1), ("ret", 2), ("dev", 3), ("sys", 4)]
def ordNames : List (String × Nat) := [("rlx", 0), ("acq", 1), ("rel", 2), ("ar", 3)]

/-- Sizes of loads, stores and private accesses: code, bytes, registers (R37). -/
def loadSizes : List (String × Nat × Nat × Nat) :=
  [("n8", 0, 1, 1), ("s8", 1, 1, 1), ("n16", 2, 2, 1), ("s16", 3, 2, 1), ("b32", 4, 4, 1), ("b64", 5, 8, 2), ("b128", 6, 16, 4)]
def storeSizes : List (String × Nat × Nat × Nat) :=
  [("b8", 0, 1, 1), ("b16", 2, 2, 1), ("b32", 4, 4, 1), ("b64", 5, 8, 2), ("b128", 6, 16, 4)]
def privateSizes : List (String × Nat × Nat × Nat) := [("b32", 0, 4, 1), ("b64", 1, 8, 2), ("b128", 2, 16, 4)]

/-- Placement hints (R37). -/
def hintNames : List (String × Nat) := [("pin", 1), ("strm", 2), ("repl", 3)]

/-- `ldg` and `stg` (R97). -/
def formGM (isLoad : Bool) (size : String) (hint : Option Nat) : List Form :=
  match (if isLoad then loadSizes else storeSizes).lookup size, hint with
  | some (sz, _, span), some ph =>
    [{ cls := if isLoad then 0x14 else 0x15, guard := .p, fixed := [(26, 3, sz), (29, 2, ph)],
       pats := if isLoad then [.vec 9 span none, .addrGM] else [.addrGM, .vec 9 span none] }]
  | _, _ => []

/-- `lds`, `sts`, `ldp` and `stp` (R97). -/
def formWindow (isLoad isPrivate : Bool) (size : String) : List Form :=
  match (if isPrivate then privateSizes else if isLoad then loadSizes else storeSizes).lookup size with
  | some (sz, bytes, span) =>
    [{ cls := if isPrivate then 0x18 else if isLoad then 0x16 else 0x17, guard := .p,
       fixed := if isPrivate then [(21, 2, sz), (23, 1, if isLoad then 0 else 1)] else [(21, 3, sz)],
       pats := if isLoad then [.vec 9 span none, .addrVecOff bytes] else [.addrVecOff bytes, .vec 9 span none] }]
  | none => []

/-- The atomic operations by their suffixes (R229). -/
def atomicNames : List (List String × Nat) :=
  [(["add"], 0), (["add", "i32"], 0), (["min", "s"], 1), (["max", "s"], 2), (["min", "n"], 3), (["max", "n"], 4), (["and"], 5),
   (["or"], 6), (["xor"], 7), (["xchg"], 8), (["cas"], 9), (["fadd", "f32"], 10), (["fmin", "f32"], 11), (["fmax", "f32"], 12)]

/-- The two forms of an atomic: on a register pair, global, and on one register, scratch (R229). -/
def formAtomic (op w ord scope nr : Nat) (valueFirst : Bool) : List Form :=
  let value : Pat := if op = 9 then .vecRange 9 (if w = 1 then 4 else 2) else if w = 1 then .vecRange 9 2 else .vec 9 1 none
  let mk (cls : Nat) (addr : Pat) : Form :=
    { cls := cls, guard := .p, fixed := [(21, 4, op), (25, 1, w), (26, 2, ord), (28, 3, scope), (31, 1, nr)],
      pats := if valueFirst then [value, addr] else [addr, value] }
  [mk 0x19 (.addrPair 15), mk 0x1A (.addrVec 15)]

/-- An atomic's suffixes `op[.w64].ord.scope`, read from the end. -/
def atomicSuffixes (parts : List String) : Option (List String × Nat × Nat × Nat) :=
  match parts.reverse with
  | sc :: o :: r =>
    match scopeNames.lookup sc, ordNames.lookup o with
    | some scope, some ord =>
      match r with
      | "w64" :: r' => some (r'.reverse, 1, ord, scope)
      | _ => some (r.reverse, 0, ord, scope)
    | _, _ => none
  | _ => none

/-- `atom`, `red`, `ld` and `st` (R60, R229). -/
def formAT (base : String) (parts : List String) : List Form :=
  match atomicSuffixes parts with
  | none => []
  | some (op, w, ord, scope) =>
    match base, op with
    | "ld", [] => formAtomic 13 w ord scope 0 true
    | "st", [] => formAtomic 14 w ord scope 0 false
    | "atom", _ => match atomicNames.lookup op with
      | some n => formAtomic n w ord scope 0 true
      | none => []
    | "red", _ => match atomicNames.lookup op with
      | some n => formAtomic n w ord scope 1 false
      | none => []
    | _, _ => []

/-- Relations by class (R35), and the types of compare. -/
def condNames (cls : Nat) : List (List String × Nat) :=
  if cls = 9 then [(["eq"], 0), (["lt", "s"], 1), (["le", "s"], 2), (["lt", "n"], 3)]
  else [(["eq"], 0), (["lt"], 1), (["le"], 2), ([if cls = 8 then "un" else "tst"], 3)]
def ctypeNames : List (List String × Nat) :=
  [([], 0), (["norm"], 0), (["unc"], 1), (["and"], 2), (["or"], 3), (["or", "andcm"], 4), (["and", "orcm"], 5), (["set"], 6)]

/-- The compares (R121): two predicates, or one, and then pd2 is 7. -/
def formCP (cls : Nat) (parts : List String) : List Form :=
  match (condNames cls).find? fun x => x.1.isPrefixOf parts with
  | none => []
  | some (c, cond) =>
    match ctypeNames.lookup (parts.drop c.length) with
    | none => []
    | some ctype =>
      let q := cls = 9
      let pd (lo : Nat) : Pat := if q then .cond lo else .pred lo
      let src (lo : Nat) : Pat := if q then .sca lo 1 else .vec lo 1 none
      let f : Form := { cls := cls, guard := if q then .c else .p, fixed := [(27, 3, ctype), (30, 2, cond)],
                        pats := [pd 9, pd 12, src 15, src 21] }
      [f, { f with fixed := (12, 3, 7) :: f.fixed, pats := [pd 9, src 15, src 21] }]

/-- `.xN` of the matrix operations (R260). -/
def repeatNames : List (List String × Nat) :=
  [([], 0), (["x1"], 0), (["x2"], 1), (["x4"], 2), (["x8"], 3), (["x16"], 4), (["x32"], 5), (["x64"], 6), (["x128"], 7)]

/-- A matrix form (R42). -/
def formMM (mop4 : Nat) (fixed : List (Nat × Nat × Nat)) (pats : List Pat) : Form :=
  { cls := 0x1E, guard := .c, fixed := (25, 4, mop4) :: fixed, pats := pats }

/-- A k-repeating operation. -/
def formRepeat (mop4 : Nat) (suffix : List String) : List Form :=
  match repeatNames.lookup suffix with
  | some r => [formMM mop4 [(29, 3, r)] [.tile 9, .sca 13 2, .sca 19 2]]
  | none => []

/-- Suffixes of `mst`: bit 0 of rep3 normalises, the bits above it choose the output (R271). -/
def storeNames : List (List String × Nat) :=
  [([], 0), (["norm"], 1), (["bf16"], 2), (["bf16", "norm"], 3), (["f16"], 4), (["f16", "norm"], 5)]

/-- The transforms in the order of xop5 (R305), and the directions (R302). -/
def transformNames : List (String × Nat) :=
  [("copy", 0), ("strided", 1), ("swizzle", 2), ("cbexp", 3), ("txb4c", 4), ("txb4x", 5), ("sgnpk", 6), ("sgnun", 7), ("shenc", 8),
   ("shdec", 9), ("gather", 10), ("fill", 11)]
def directionNames : List (String × Nat) := [("gs", 0), ("sg", 1), ("gg", 2), ("ss", 3)]

/-- The forms of a mnemonic with suffixes. -/
def suffixForms (parts : List String) : List Form :=
  match parts with
  | ["ldg", sz] => formGM true sz (some 0)
  | ["ldg", sz, h] => formGM true sz (hintNames.lookup h)
  | ["stg", sz] => formGM false sz (some 0)
  | ["stg", sz, h] => formGM false sz (hintNames.lookup h)
  | ["lds", sz] => formWindow true false sz
  | ["sts", sz] => formWindow false false sz
  | ["ldp", sz] => formWindow true true sz
  | ["stp", sz] => formWindow false true sz
  | "atom" :: r => formAT "atom" r
  | "red" :: r => formAT "red" r
  | "ld" :: r => formAT "ld" r
  | "st" :: r => formAT "st" r
  | "cmps" :: r => formCP 6 r
  | "cmpn" :: r => formCP 7 r
  | "cmpf" :: r => formCP 8 r
  | "cmpq" :: r => formCP 9 r
  | ["exit", sc] => match scopeNames.lookup sc with
    | some n => [formJR 5 .p [] |> fun f => { f with fixed := (24, 3, n) :: f.fixed }]
    | none => []
  | ["fence", o, sc] => match ordNames.lookup o, scopeNames.lookup sc with
    | some ord, some scope => [formFN 0 [(24, 3, scope), (27, 2, ord)] [.imm 21 2 0 3, .sca 9 1, .sca 15 1]]
    | _, _ => []
  | ["wdrain", sc] => match scopeNames.lookup sc with
    | some n => [formFN 7 [(24, 3, n)] [.sca 9 1, .sca 15 1]]
    | none => []
  | "mma" :: "bt" :: r => formRepeat 1 r
  | "mma" :: "rs" :: r => formRepeat 2 r
  | "mma" :: r => formRepeat 0 r
  | "mdf" :: "sp" :: r => formRepeat 4 r
  | "mdf" :: r => formRepeat 3 r
  | ["msmx"] => [formMM 5 [] [.tile 9, .sca 13 2, .sca 19 1]]
  | ["mzero"] => [formMM 6 [] [.tile 9]]
  | ["mld"] => [formMM 7 [] [.tile 9, .sca 13 2]]
  | "mst" :: r => match storeNames.lookup r with
    | some n => [formMM 8 [(29, 3, n)] [.sca 13 2, .tile 9]]
    | none => []
  | ["mside"] => [formMM 9 [] [.sca 13 2, .tile 9]]
  | ["xcp", tf, dr] => match transformNames.lookup tf, directionNames.lookup dr with
    | some x, some d => [{ cls := 0x1D, guard := .c, fixed := [(21, 5, x), (26, 2, d)], pats := [.sca 9 4] }]
    | _, _ => []
  | _ => []

/-- All forms of a mnemonic, in the order in which they are tried. -/
def formsOf (name : String) : List Form :=
  (fixedForms.filter fun x => x.1 == name).map (·.2) ++ suffixForms (nameParts name)

/-! ## Words of a form -/

/-- A field set in a word: lowest bit, width, value. -/
abbrev FieldSet := Nat × Nat × Nat

/-- The highest registers named, plus one: vector, scalar (s60 to s63 apart), accumulator (R57, R206). -/
structure RegCounts where
  v  : Nat
  s  : Nat
  za : Nat
  deriving DecidableEq, Repr

def RegCounts.max (a b : RegCounts) : RegCounts := { v := Nat.max a.v b.v, s := Nat.max a.s b.s, za := Nat.max a.za b.za }
def RegCounts.none : RegCounts := { v := 0, s := 0, za := 0 }

/-- The scalars that a field names: those below s60 count. -/
def namedScalar (n span : Nat) : RegCounts :=
  { v := 0, s := ((List.range span).map fun i => if n + i < 60 then n + i + 1 else 0).foldl Nat.max 0, za := 0 }

/-- What matching operands with a form gives: the fields, the targets left for later, the registers named. -/
structure Filled where
  fields  : List FieldSet
  targets : List (Reach × Expr)
  named   : RegCounts
  deriving DecidableEq, Repr

/-- Whether an operand has the shape of a pattern. -/
def Pat.fits (p : Pat) (o : Opd) : Bool :=
  match p, o with
  | .vec _ _ last, .reg .v _ l => !l || last.isSome
  | .vec _ span _, .range _ _ => decide (1 < span)
  | .vecRange _ _, .range _ _ => true
  | .sca _ _, .reg .s _ _ => true
  | .pred _, .reg .p _ _ => true
  | .cond _, .reg .c _ _ => true
  | .tile _, .reg .za _ _ => true
  | .queue _, .reg .q _ _ => true
  | .guardPred, .reg .p _ _ => true
  | .imm _ _ _ _, .imm _ => true
  | .special _, .special _ => true
  | .addrGM, .addrSV _ _ => true
  | .addrPair _, .addrPair _ _ => true
  | .addrVec _, .addrReg .v _ none => true
  | .addrVecOff _, .addrReg .v _ _ => true
  | .addrSca _, .addrReg .s _ none => true
  | .addrLq, .addrReg .s _ _ => true
  | .target _, .target _ => true
  | _, _ => false

/-- A vector register of a value of `span` registers: it is aligned to its span (R24). -/
def vecField (lo span n : Nat) : Except AsmError FieldSet :=
  if n % span = 0 then .ok (lo, 6, n) else .error .illegal

/-- A constant between two bounds (R53), its low bits as a field. -/
def immField (lo width : Nat) (min max : Int) (x : DWord) : Except AsmError FieldSet :=
  if min ≤ x.toInt ∧ x.toInt ≤ max then .ok (lo, width, x.toNat % 2 ^ width) else .error .range

/-- The scaled offset of an address: a multiple of the size, its quotient within `most` (R52). -/
def offField (lo width size most : Nat) (x : DWord) : Except AsmError FieldSet :=
  if 0 ≤ x.toInt ∧ x.toNat % size = 0 ∧ x.toNat / size ≤ most then .ok (lo, width, x.toNat / size) else .error .range

/-- The fields that an operand sets. -/
def Pat.fill (env : List (String × Val)) (place : Val) (p : Pat) (o : Opd) : Except AsmError Filled :=
  let one (f : FieldSet) (n : RegCounts) : Filled := { fields := [f], targets := [], named := n }
  let vecs (n span : Nat) : RegCounts := { v := n + span, s := 0, za := 0 }
  match p, o with
  | .vec lo span last, .reg .v n l =>
    (vecField lo span n).map fun f =>
      { fields := f :: (match last with | some b => [(b, 1, if l then 1 else 0)] | none => []), targets := [], named := vecs n span }
  | .vec lo span _, .range a b =>
    if b + 1 = a + span then (vecField lo span a).map fun f => one f (vecs a span) else .error .statement
  | .vecRange lo span, .range a b => if b + 1 = a + span then .ok (one (lo, 6, a) (vecs a span)) else .error .statement
  | .sca lo span, .reg .s n _ => .ok (one (lo, 6, n) (namedScalar n span))
  | .pred lo, .reg .p n _ => .ok (one (lo, 3, n) .none)
  | .cond lo, .reg .c n _ => .ok (one (lo, 3, n) .none)
  | .tile lo, .reg .za n _ => .ok (one (lo, 4, n) { v := 0, s := 0, za := n + 1 })
  | .queue lo, .reg .q n _ => .ok (one (lo, 4, n) .none)
  | .guardPred, .reg .p n _ => .ok (one (6, 3, n) .none)
  | .imm lo width min max, .imm e =>
    match e.const env place with
    | .ok x => (immField lo width min max x).map fun f => one f .none
    | .error e => .error e
  | .special lo, .special n => .ok (one (lo, 6, n) .none)
  | .addrGM, .addrSV s v =>
    if s < 32 then .ok { fields := [(21, 5, s), (15, 6, v)], targets := [], named := { v := v + 1, s := s + 1, za := 0 } }
    else .error .range
  | .addrPair lo, .addrPair a b =>
    if b = a + 1 ∧ a % 2 = 0 then .ok (one (lo, 6, a) (vecs a 2)) else .error .illegal
  | .addrVec lo, .addrReg .v n _ => .ok (one (lo, 6, n) (vecs n 1))
  | .addrVecOff size, .addrReg .v n off =>
    match (match off with | some e => e.const env place | none => .ok 0) with
    | .ok x => (offField 24 8 size 255 x).map fun f => { fields := [(15, 6, n), f], targets := [], named := vecs n 1 }
    | .error e => .error e
  | .addrSca lo, .addrReg .s n _ => .ok (one (lo, 6, n) (namedScalar n 1))
  | .addrLq, .addrReg .s n off =>
    match (match off with | some e => e.const env place | none => .ok 0) with
    | .ok x => (offField 21 6 8 63 x).map fun f => { fields := [(15, 6, n), f], targets := [], named := namedScalar n 1 }
    | .error e => .error e
  | .target r, .target e => .ok { fields := [], targets := [(r, e)], named := .none }
  | _, _ => .error .statement

/-- The fields that all operands of a form set. -/
def fillAll (env : List (String × Val)) (place : Val) : List Pat → List Opd → Except AsmError Filled
  | [], [] => .ok { fields := [], targets := [], named := .none }
  | p :: ps, o :: os =>
    match p.fill env place o, fillAll env place ps os with
    | .ok x, .ok y => .ok { fields := x.fields ++ y.fields, targets := x.targets ++ y.targets, named := x.named.max y.named }
    | .error e, _ => .error e
    | _, .error e => .error e
  | _, _ => .error .statement

/-- The value of the guard field, none where the form does not take the guard that is written: its kind must be the form's (R54). -/
def Form.guardField (f : Form) (g : Option (RegKind × Nat)) : Option (List FieldSet) :=
  let set (n : Nat) : Option (List FieldSet) := some [(6, 3, n)]
  match f.guard, g with
  | .never, none => if f.pats.contains .guardPred then some [] else set 7
  | .never, some _ => none
  | _, none => set 7
  | .p, some (.p, n) => set n
  | .c, some (.c, n) => set n
  | _, some _ => none

/-- Whether a form takes operands of these shapes. -/
def Form.fits (f : Form) (os : List Opd) : Bool := f.pats.length == os.length && (f.pats.zip os).all fun x => x.1.fits x.2

/-- The word that fields make. -/
def wordOfFields (l : List FieldSet) : Nat := l.foldl (fun w x => w ||| (x.2.2 % 2 ^ x.2.1) <<< x.1) 0

/-- The bits that fields fill. -/
def maskOfFields (l : List FieldSet) : Nat := l.foldl (fun w x => w ||| (2 ^ x.2.1 - 1) <<< x.1) 0

/-! ## The 16-bit forms (R18, R55) -/

/-- The sixteen operations in the order of op4. -/
def shortNames : List String :=
  ["mov", "add.i32", "sub.i32", "and", "or", "xor", "shl", "shr.n32", "shr.s32", "movi", "addi", "shli", "fadd.f32", "fmul.f32",
   "fmax.f32", "fmin.f32"]

/-- The halfword of a two-operand form, where R55 encodes it so: no guard, no `!`, b within v0 to v31 or the immediate in imm5. -/
def shortWord (env : List (String × Val)) (place : Val) (name : String) (guarded : Bool) (os : List Opd) : Option (Nat × RegCounts) :=
  match shortNames.findIdx? (· == name), os with
  | some op, [.reg .v d false, .reg .v b false] =>
    if !guarded ∧ b < 32 ∧ op ≠ 9 ∧ op ≠ 10 ∧ op ≠ 11 then
      some (op * 2 + d * 32 + b * 2048, { v := Nat.max d b + 1, s := 0, za := 0 })
    else none
  | some op, [.reg .v d false, .imm e] =>
    match e.const env place with
    | .ok x =>
      let fits := if op = 11 then 0 ≤ x.toInt ∧ x.toInt ≤ 31 else -16 ≤ x.toInt ∧ x.toInt ≤ 15
      if !guarded ∧ fits ∧ (op = 9 ∨ op = 10 ∨ op = 11) then
        some (op * 2 + d * 32 + x.toNat % 32 * 2048, { v := d + 1, s := 0, za := 0 })
      else none
    | .error _ => none
  | _, _ => none

/-- The operands of the 32-bit form that a two-operand form stands for: a = d, but for `mov` (R55). A `!` on the first operand is
one on a. -/
def longOperands (name : String) (os : List Opd) : List Opd :=
  match os with
  | [.reg .v d l, b] =>
    let isB := match b with
      | .reg .v _ _ => true
      | .imm _ => true
      | _ => false
    if shortNames.contains name && name != "mov" && name != "movi" && isB then [.reg .v d false, .reg .v d l, b] else os
  | _ => os

/-! ## Reserved fields (R44, R45, R56) -/

/-- The fields of a class by name (R25, R27). -/
def fieldNames (cls : Nat) : List (String × Nat × Nat) :=
  if cls ≤ 5 ∨ cls = 0x0E ∨ cls = 0x0F then
    [("d", 9, 6), ("a", 15, 6), ("b", 21, 6), ("La", 27, 1), ("Lb", 28, 1), ("fn3", 29, 3)]
  else match cls with
  | 0x0A => [("d", 9, 6), ("a", 15, 6), ("fn3", 21, 3), ("imm8", 24, 8)]
  | 0x0C => [("d", 9, 6), ("a", 15, 6), ("fn3", 21, 3), ("imm8", 24, 8)]
  | 0x0B => [("d", 9, 6), ("a", 15, 6), ("b", 21, 6), ("fn5", 27, 5)]
  | 0x1F => [("d", 9, 6), ("a", 15, 6), ("b", 21, 6), ("fn5", 27, 5)]
  | 0x12 => [("sa", 9, 6), ("sb", 15, 6), ("fn3", 21, 3), ("imm8", 24, 8)]
  | 0x13 => [("k", 9, 1), ("off22", 10, 22)]
  | 0x14 => [("rh", 31, 1)]
  | 0x15 => [("rh", 31, 1)]
  | 0x1B => [("sa", 9, 6), ("sb", 15, 6), ("k3", 21, 3), ("scope", 24, 3), ("ord", 27, 2), ("fn3", 29, 3)]
  | 0x1C => [("sd", 9, 6), ("q", 15, 4), ("fn3", 19, 3), ("imm10", 22, 10)]
  | 0x1D => [("sa", 9, 6), ("sb", 15, 6), ("xop5", 21, 5), ("dir2", 26, 2), ("qos", 28, 4)]
  | 0x1E => [("za", 9, 4), ("sA", 13, 6), ("sB", 19, 6), ("mop4", 25, 4), ("rep3", 29, 3)]
  | _ => []

/-- The bit of the note's ignore mask that a field of an instruction sets, none for a trap-class field (R44). -/
def ignoreBit (cls fn3 : Nat) (field : String) : Option Nat :=
  if (cls = 0x14 ∨ cls = 0x15) ∧ field = "rh" then some 0
  else if cls = 0x1D ∧ field = "qos" then some 1
  else if cls = 0x12 ∧ fn3 = 7 ∧ field = "imm8" then some 2
  else if cls = 0x1D ∧ field = "sb" then some 3
  else none

/-- The bit of the note's trap mask for an instruction (R45). -/
def trapBit (cls fn3 : Nat) : Nat :=
  match cls with
  | 0x12 => if fn3 = 5 then 0 else if fn3 = 0 ∨ fn3 = 3 then 1 else if fn3 = 1 ∨ fn3 = 2 then 2 else if fn3 = 4 then 3 else 4
  | 0x05 => 5
  | 0x02 => 6
  | 0x04 => 6
  | 0x0A => 7
  | 0x0C => 8
  | 0x0E => 9
  | 0x0B => 10
  | 0x13 => 11
  | 0x1B => 12
  | 0x1C => 13
  | 0x1E => 14
  | _ => 15

end Sys2Proof.Machine
end

