-- ==== Sys2Proof/Machine/Assembler.lean ====
section
/-! DEFINITION. The assembler: statements and directives of a source file, the object they make and its ELF64 image (R44, R45, R49 to
R61, R149 to R152, R396; log 31). -/

namespace Sys2Proof.Machine

/-! ## Items of the sections -/

/-- What a statement leaves in its section, before symbols that stand later are known. -/
inductive AsmItem where
  /-- bytes that are known -/
  | raw (l : List Byte)
  /-- an instruction of 32 bits: its fields, its targets and its overrides -/
  | word (cls : Nat) (fields : List FieldSet) (targets : List (Reach × Expr)) (overrides : List (String × Expr))
  /-- a value of `size` bytes -/
  | value (size : Nat) (e : Expr)
  deriving DecidableEq, Repr

/-- Bytes that an item takes. -/
def AsmItem.size : AsmItem → Nat
  | .raw l => l.length
  | .word _ _ _ _ => 4
  | .value n _ => n

/-- An item in its place. -/
structure AsmPlaced where
  line : Nat
  sec  : Sec
  off  : Nat
  item : AsmItem
  deriving DecidableEq, Repr

/-- A kernel and its shape (R57). -/
structure AsmKernel where
  name       : String
  /-- offset of its template in `.rodata` -/
  template   : Nat
  gated      : Bool
  debug      : Bool
  preload    : Nat
  fm         : Nat
  gc         : Nat
  width      : Option Nat
  /-- w1 to w5 -/
  fields     : List Nat
  /-- n1 to n5 -/
  counts     : List Nat
  /-- vector, scalar and accumulator counts of `.regs` -/
  regs       : Option (Nat × Nat × Nat)
  scratch    : Nat
  priv       : Nat
  splitStack : Nat
  named      : RegCounts
  deriving DecidableEq, Repr

/-- The assembler's state between two lines. -/
structure Asm where
  sec      : Sec
  text     : Nat
  rodata   : Nat
  data     : Nat
  syms     : List (String × Val)
  /-- newest first -/
  items    : List AsmPlaced
  isa      : Option Nat
  /-- items of `.uses`, in their order: line, place, name and mask, which may hold symbols that stand later (R50, R58) -/
  uses     : List (Nat × Val × String × Expr)
  handler  : Option (Nat × String)
  kernel   : Option AsmKernel
  /-- closed kernels, newest first -/
  kernels  : List AsmKernel
  /-- newest first -/
  errors   : List (Nat × AsmError)
  deriving DecidableEq, Repr

/-- The state before the first line; `.text` is the section before the first directive that names one (log 31, DESIGN CHOICE). -/
def Asm.start : Asm :=
  { sec := .text, text := 0, rodata := 0, data := 0, syms := [], items := [], isa := none, uses := [], handler := none,
    kernel := none, kernels := [], errors := [] }

/-- Current location in a section. -/
def Asm.locOf (a : Asm) : Sec → Nat
  | .text => a.text
  | .rodata => a.rodata
  | .data => a.data

/-- The value of `.` (R50, R396). -/
def Asm.place (a : Asm) : Val := .loc a.sec (BitVec.ofNat 64 (a.locOf a.sec)) none

/-- Appends an item to a section. -/
def Asm.put (a : Asm) (line : Nat) (sec : Sec) (i : AsmItem) : Asm :=
  let a1 := { a with items := { line := line, sec := sec, off := a.locOf sec, item := i } :: a.items }
  match sec with
  | .text => { a1 with text := a.text + i.size }
  | .rodata => { a1 with rodata := a.rodata + i.size }
  | .data => { a1 with data := a.data + i.size }

/-- Defines a symbol; a second definition, of an `.equ` name too (log 31, DESIGN CHOICE), and a register's name are errors (R49,
R61). -/
def Asm.define (a : Asm) (name : String) (v : Val) : Except AsmError Asm :=
  if (regOf name).isSome || (a.syms.lookup name).isSome then .error (.redefined name) else .ok { a with syms := (name, v) :: a.syms }

/-- A constant whose value must be known where it stands (R50). -/
def Asm.known (a : Asm) (e : Expr) : Except AsmError Int := (e.const a.syms a.place).map BitVec.toInt

/-- A known constant between two bounds. -/
def Asm.within (a : Asm) (e : Expr) (lo hi : Nat) : Except AsmError Nat :=
  match a.known e with
  | .ok x => if (lo : Int) ≤ x ∧ x ≤ (hi : Int) then .ok x.toNat else .error .range
  | .error x => .error x

/-! ## Instructions (R51 to R60) -/

/-- The overrides at the end of an operand list: they follow every other operand (R56). -/
def splitKeyed : List Opd → Except AsmError (List Opd × List (String × Expr))
  | [] => .ok ([], [])
  | .keyed n e :: r =>
    match splitKeyed r with
    | .ok ([], k) => .ok ([], (n, e) :: k)
    | .ok _ => .error .statement
    | .error x => .error x
  | o :: r => (splitKeyed r).map fun x => (o :: x.1, x.2)

/-- The item of an instruction, and the registers it names. -/
def instructionItem (a : Asm) (st : Stmt) (os : List Opd) (keys : List (String × Expr)) : Except AsmError (AsmItem × RegCounts) :=
  if st.name == "nop" then
    if st.guard.isSome then .error .guard
    else if os.isEmpty && keys.isEmpty then .ok (.raw [0, 0], { v := 1, s := 0, za := 0 })
    else .error .statement
  else match shortWord a.syms a.place st.name st.guard.isSome os with
    | some (w, n) => if keys.isEmpty then .ok (.raw (leBytes w 2), n) else .error .override
    | none =>
      let os := longOperands st.name os
      let forms := formsOf st.name
      if forms.isEmpty then .error (if st.name == "movi" then .range else .unknown st.name)
      else
        let shaped := forms.filter fun f => f.fits os
        if shaped.isEmpty then .error .statement
        else match shaped.findSome? fun f => (f.guardField st.guard).map fun g => (f, g) with
          | none => .error .guard
          | some (f, g) =>
            match fillAll a.syms a.place f.pats os with
            | .error e => .error e
            | .ok x => .ok (.word f.cls (g ++ f.fixed ++ x.fields) x.targets keys, x.named)

/-- Places an instruction: only in `.text`, at an even address (R59). -/
def Asm.instruction (a : Asm) (line : Nat) (st : Stmt) : Except AsmError Asm :=
  match parseOperands (st.rest.length + 1) st.rest with
  | .error e => .error e
  | .ok all =>
    match splitKeyed all with
    | .error e => .error e
    | .ok (os, keys) =>
      match instructionItem a st os keys with
      | .error e => .error e
      | .ok (i, n) =>
        if a.sec ≠ .text ∨ a.text % 2 = 1 then .error .placement
        else
          let b : Asm := { a with kernel := a.kernel.map fun k => { k with named := k.named.max n } }
          .ok (b.put line .text i)

/-! ## Directives (R57, R58) -/

/-- Expressions separated by commas. -/
def exprList : Nat → List Tok → Except AsmError (List Expr)
  | 0, _ => .error .statement
  | k + 1, ts =>
    match exprFront ts with
    | .error e => .error e
    | .ok (e, []) => .ok [e]
    | .ok (e, .mark ',' :: r) => (exprList k r).map (e :: ·)
    | .ok _ => .error .statement

/-- Known constants of a list, each between two bounds. -/
def Asm.withinAll (a : Asm) (lo hi : Nat) : List Expr → Except AsmError (List Nat)
  | [] => .ok []
  | e :: r =>
    match a.within e lo hi, a.withinAll lo hi r with
    | .ok x, .ok y => .ok (x :: y)
    | .error x, _ => .error x
    | _, .error x => .error x

/-- `key=e` items separated by commas. -/
def keyList : Nat → List Tok → Except AsmError (List (String × Expr))
  | 0, _ => .error .statement
  | k + 1, .name n :: .mark '=' :: ts =>
    match exprFront ts with
    | .error e => .error e
    | .ok (e, []) => .ok [(n, e)]
    | .ok (e, .mark ',' :: r) => (keyList k r).map ((n, e) :: ·)
    | .ok _ => .error .statement
  | _, _ => .error .statement

/-- Whether a value passes the check of R45 row 16: bit 13 and bits 31 to 23 are zero. -/
def fmOk (n : Nat) : Bool := n % 2 ^ 23 == n && !natBit n 13

/-- The options after a kernel's name (R57). That they may stand in any order, and that the last of an option given twice holds, is
DESIGN CHOICE (log 31). -/
def Asm.kernelOptions (a : Asm) (k : AsmKernel) : Nat → List Tok → Except AsmError AsmKernel
  | 0, _ => .error .statement
  | _, [] => .ok k
  | j + 1, .mark ',' :: .name "gated" :: r => a.kernelOptions { k with gated := true } j r
  | j + 1, .mark ',' :: .name "debug" :: r => a.kernelOptions { k with debug := true } j r
  | j + 1, .mark ',' :: .name n :: .mark '=' :: ts =>
    match exprFront ts with
    | .error e => .error e
    | .ok (e, r) =>
      if n == "preload" then
        match a.within e 0 8 with
        | .ok x => a.kernelOptions { k with preload := x } j r
        | .error e => .error e
      else match a.within e 0 (2 ^ 32 - 1) with
        | .error e => .error e
        | .ok x =>
          if n == "fm" then (if fmOk x then a.kernelOptions { k with fm := x } j r else .error .range)
          else if n == "gc" then a.kernelOptions { k with gc := x } j r
          else .error (.unknown n)
  | _, _ => .error .statement

/-- `.kernel`: the entry and the template (R57); templates begin at multiples of 8, as waybills do (R155). -/
def Asm.openKernel (a : Asm) (line : Nat) (ts : List Tok) : Except AsmError Asm :=
  match ts with
  | .name n :: r =>
    if a.kernel.isSome then .error .shape
    else if a.text % 2 = 1 then .error .placement
    else
      let at8 := (a.rodata + 7) / 8 * 8
      let k : AsmKernel :=
        { name := n, template := at8, gated := false, debug := false, preload := 0, fm := 0, gc := 0, width := none,
          fields := List.replicate 5 0, counts := List.replicate 5 1, regs := none, scratch := 0, priv := 0, splitStack := 0,
          named := .none }
      match a.kernelOptions k (r.length + 1) r with
      | .error e => .error e
      | .ok k =>
        match a.define n (.loc .text (BitVec.ofNat 64 a.text) (some n)) with
        | .error e => .error e
        | .ok a =>
          (a.define (n ++ ".wb") (.loc .rodata (BitVec.ofNat 64 at8) (some (n ++ ".wb")))).map fun a =>
            { (a.put line .rodata (.raw (List.replicate (at8 - a.rodata) 0))).put line .rodata (.raw (List.replicate 128 0))
              with kernel := some k }
  | _ => .error .statement

/-- Register counts of a kernel: those of `.regs`, or one more than the highest register that it names (R57). -/
def AsmKernel.counted (k : AsmKernel) : Nat × Nat × Nat := k.regs.getD (Nat.max k.named.v 1, Nat.max k.named.s 1, k.named.za)

/-- Whether a kernel keeps the limits of R57 that concern more than one directive. -/
def AsmKernel.check (k : AsmKernel) : Except AsmError Unit :=
  match k.width with
  | none => .error .shape
  | some w =>
    let (v, s, z) := k.counted
    if Nat.log2 w + k.fields.sum ≤ 64 ∧ ((k.counts.zip k.fields).all fun x => decide (x.1 ≤ 2 ^ x.2)) ∧ k.counts.headD 1 ≤ 32 ∧
        k.counts.headD 1 * w ≤ 2048 ∧ k.named.v ≤ v ∧ k.named.s ≤ s ∧ k.named.za ≤ z then .ok ()
    else .error .range

/-- A directive that shapes the open kernel. -/
def Asm.shape (a : Asm) (name : String) (ts : List Tok) : Except AsmError Asm :=
  match a.kernel with
  | none => .error .shape
  | some k =>
    let put (k : AsmKernel) : Except AsmError Asm := .ok { a with kernel := some k }
    if name == ".regs" then
      match keyList (ts.length + 1) ts with
      | .ok [("v", v), ("s", s), ("za", z)] =>
        match a.within v 1 64, a.within s 1 64, a.within z 0 16 with
        | .ok v, .ok s, .ok z => put { k with regs := some (v, s, z) }
        | .error e, _, _ => .error e
        | _, .error e, _ => .error e
        | _, _, .error e => .error e
      | .ok _ => .error .statement
      | .error e => .error e
    else match exprList (ts.length + 1) ts with
    | .error e => .error e
    | .ok es =>
      let one (lo hi : Nat) (f : Nat → Except AsmError Asm) : Except AsmError Asm :=
        match es with
        | [e] => match a.within e lo hi with
          | .ok x => f x
          | .error x => .error x
        | _ => .error .statement
      if name == ".width" then
        one 8 64 fun x => if x = 8 ∨ x = 16 ∨ x = 32 ∨ x = 64 then put { k with width := some x } else .error .range
      else if name == ".fields" then
        if es.length = 5 then
          match a.withinAll 0 32 es with
          | .ok l => put { k with fields := l }
          | .error e => .error e
        else .error .statement
      else if name == ".counts" then
        if es.length = 5 then
          match a.withinAll 1 (2 ^ 32 - 1) es with
          | .ok l => put { k with counts := l }
          | .error e => .error e
        else .error .statement
      else if name == ".scratch" then one 0 1048576 fun x => put { k with scratch := x }
      else if name == ".private" then one 0 (2 ^ 32 - 1) fun x => if x % 8 = 0 then put { k with priv := x } else .error .range
      else one 0 (2 ^ 32 - 1) fun x => if x % 32 = 0 then put { k with splitStack := x } else .error .range

/-- Whether a number is a power of two. -/
def isPowerOfTwo (n : Nat) : Bool := n == 2 ^ Nat.log2 n

/-- Values of a size, one item each. -/
def Asm.putValues (a : Asm) (line size : Nat) : List Expr → Asm
  | [] => a
  | e :: r => (a.put line a.sec (.value size e)).putValues line size r

/-- A directive (R57, R58). -/
def Asm.directive (a : Asm) (line : Nat) (name : String) (ts : List Tok) : Except AsmError Asm :=
  let values (size : Nat) : Except AsmError Asm := (exprList (ts.length + 1) ts).map fun l => a.putValues line size l
  if name == ".kernel" then a.openKernel line ts
  else if [".width", ".fields", ".counts", ".regs", ".scratch", ".private", ".splitstack"].contains name then a.shape name ts
  else if name == ".end" then
    match a.kernel, ts with
    | some k, [] => k.check.map fun _ => { a with kernel := none, kernels := k :: a.kernels }
    | _, _ => .error .shape
  else if name == ".isa" then
    match ts with
    | [.num m, .mark '.', .num n] =>
      if a.isa.isSome then .error .shape
      else if m < 2 ^ 24 ∧ n < 256 then .ok { a with isa := some (m * 256 + n) } else .error .range
    | _ => .error .statement
  else if name == ".uses" then
    match keyList (ts.length + 1) ts with
    | .error e => .error e
    | .ok l =>
      match l.find? fun x => x.1 != "ignore" && x.1 != "trap" with
      | some x => .error (.unknown x.1)
      | none => .ok { a with uses := a.uses ++ l.map fun x => (line, a.place, x) }
  else if name == ".trap" then
    match ts with
    | [.name n] => if a.handler.isSome then .error .shape else .ok { a with handler := some (line, n) }
    | _ => .error .statement
  else if name == ".text" then (if ts.isEmpty then .ok { a with sec := .text } else .error .statement)
  else if name == ".data" then
    match ts with
    | [] => .ok { a with sec := .data }
    | [.name "ro"] => .ok { a with sec := .rodata }
    | _ => .error .statement
  else if name == ".align" then
    match exprAll ts with
    | .error e => .error e
    | .ok e =>
      match a.within e 1 (2 ^ 63) with
      | .error e => .error e
      | .ok n =>
        let o := a.locOf a.sec
        if isPowerOfTwo n then .ok (a.put line a.sec (.raw (List.replicate ((o + n - 1) / n * n - o) 0))) else .error .range
  else if name == ".byte" then values 1
  else if name == ".half" then values 2
  else if name == ".word" then values 4
  else if name == ".dword" then values 8
  else if name == ".equ" then
    match ts with
    | .name n :: .mark ',' :: r =>
      match exprAll r with
      | .error e => .error e
      | .ok e =>
        match e.const a.syms a.place with
        | .ok x => a.define n (.const x)
        | .error x => .error x
    | _ => .error .statement
  else .error (.unknown name)

/-- `.f32` and `.bf16`, read from the line's text. -/
def Asm.reals (a : Asm) (line : Nat) (f : Fmt) (size : Nat) (l : List Char) : Except AsmError Asm :=
  (splitCommas [] (l.takeWhile fun c => c != ';')).foldl (fun r x =>
    match r, realPattern f x with
    | .ok b, some n => .ok (b.put line b.sec (.raw (leBytes n size)))
    | .ok _, none => .error .statement
    | .error e, _ => .error e) (.ok a)

/-- Whether text begins with a word that ends there. -/
def startsWord (w : String) (l : List Char) : Bool :=
  w.toList.isPrefixOf l && (match l.drop w.toList.length with | c :: _ => !isNameChar c | [] => true)

/-- One line: label, statement and comment (R49). -/
def Asm.lineOf (a : Asm) (line : Nat) (l : List Char) : Except AsmError Asm :=
  match splitLabel l with
  | .error e => .error e
  | .ok (label, rest) =>
    match (match label with
      | some n => a.define n (.loc a.sec (BitVec.ofNat 64 (a.locOf a.sec)) (some n))
      | none => .ok a) with
    | .error e => .error e
    | .ok a =>
      let text := rest.dropWhile isBlank
      if startsWord ".f32" text then a.reals line fp32 4 (text.drop 4)
      else if startsWord ".bf16" text then a.reals line bf16 2 (text.drop 5)
      else match tokensOf (text.length + 1) text with
        | .error e => .error e
        | .ok ts =>
          match parseStmt ts with
          | .error e => .error e
          | .ok none => .ok a
          | .ok (some st) =>
            if st.name.toList.head? == some '.' then
              (if st.guard.isSome then .error .guard else a.directive line st.name st.rest)
            else a.instruction line st

/-- All lines, from a line number on; a line in error leaves the state as it was, and its error. -/
def Asm.lines : Asm → Nat → List (List Char) → Asm
  | a, _, [] => a
  | a, n, l :: r =>
    match a.lineOf n l with
    | .ok b => b.lines (n + 1) r
    | .error e => { a with errors := (n, e) :: a.errors }.lines (n + 1) r

/-! ## The second pass: symbols that stand later -/

/-- A signed count of halfwords within a field (R28). -/
def reachField (lo width : Nat) (d : Int) : Except AsmError FieldSet :=
  if d % 2 = 0 ∧ -(2 : Int) ^ (width - 1) ≤ d / 2 ∧ d / 2 < 2 ^ (width - 1) then
    .ok (lo, width, (d / 2 % 2 ^ width).toNat)
  else .error .target

/-- The field of a target, from the instruction's own offset (R28, R52, R396). -/
def targetField (env : List (String × Val)) (off : Nat) (r : Reach) (e : Expr) : Except AsmError FieldSet :=
  match e.eval env (.loc .text (BitVec.ofNat 64 off) none) with
  | .error x => .error x
  | .ok (.loc .text o _) =>
    if !e.isTarget env (.loc .text (BitVec.ofNat 64 off) none) then .error .target
    else
      let d : Int := o.toInt - off
      match r with
      | .off22 => reachField 10 22 d
      | .off12 => reachField 9 12 d
      | .j11 => if d % 2 = 0 ∧ 0 < d ∧ d / 2 < 2048 then .ok (21, 11, (d / 2).toNat) else .error .target
  | .ok _ => .error .target

/-- The fields of all targets. -/
def targetFields (env : List (String × Val)) (off : Nat) : List (Reach × Expr) → Except AsmError (List FieldSet)
  | [] => .ok []
  | (r, e) :: t =>
    match targetField env off r e, targetFields env off t with
    | .ok x, .ok y => .ok (x :: y)
    | .error x, _ => .error x
    | _, .error x => .error x

/-- An override: the bits it sets, and the bits of the note's ignore and trap masks (R56). -/
def overrideBits (env : List (String × Val)) (off level cls word used : Nat) (n : String) (e : Expr) :
    Except AsmError (Nat × Nat × Nat) :=
  match (fieldNames cls).lookup n, e.const env (.loc .text (BitVec.ofNat 64 off) none) with
  | _, .error x => .error x
  | none, _ => .error .override
  | some (lo, width), .ok x =>
    let field := (2 ^ width - 1) <<< lo
    let v := x.toNat <<< lo
    if field &&& used = field ∨ 2 ^ width ≤ x.toNat ∨ v &&& used ≠ 0 then .error .override
    else match ignoreBit cls (natBits word 23 21) n with
      | some b => .ok (v, 2 ^ b, 0)
      | none => if level ≤ 0x0100 then .error .override else .ok (v, 0, 2 ^ trapBit cls (natBits word 23 21))

/-- All overrides of an instruction. -/
def overridesOf (env : List (String × Val)) (off level cls word used : Nat) : List (String × Expr) → Except AsmError (Nat × Nat × Nat)
  | [] => .ok (0, 0, 0)
  | (n, e) :: r =>
    match overrideBits env off level cls word used n e, overridesOf env off level cls word used r with
    | .ok (v, i, t), .ok (v', i', t') => .ok (v ||| v', i ||| i', t ||| t')
    | .error x, _ => .error x
    | _, .error x => .error x

/-- A relocation of the object: its section and offset, the symbol it is against (none for a section's own) and its addend. -/
structure AsmReloc where
  sec    : Sec
  off    : Nat
  symbol : Option String
  base   : Sec
  addend : DWord
  deriving DecidableEq, Repr

/-- What an item becomes: its bytes, bits of the two masks, a relocation. -/
structure Settled where
  bytes  : List Byte
  ignore : Nat
  trap   : Nat
  reloc  : Option AsmReloc
  deriving DecidableEq, Repr

/-- The names that the object makes global: kernels and templates (R57). -/
def Asm.globals (a : Asm) : List String := a.kernels.reverse.flatMap fun k => [k.name, k.name ++ ".wb"]

/-- A data value: it fits the signed or the unsigned range of its size, and only `.dword` takes a place (R58, R396). In the second
and later values of a directive `.` is the value's own offset (log 31, DESIGN CHOICE). -/
def settleValue (a : Asm) (p : AsmPlaced) (size : Nat) (e : Expr) : Except AsmError Settled :=
  match e.eval a.syms (.loc p.sec (BitVec.ofNat 64 p.off) none) with
  | .error x => .error x
  | .ok (.const x) =>
    if size = 8 ∨ (-(2 : Int) ^ (8 * size - 1) ≤ x.toInt ∧ x.toInt < 2 ^ (8 * size)) then
      .ok { bytes := leBytes x.toNat size, ignore := 0, trap := 0, reloc := none }
    else .error .range
  | .ok (.loc sec off label) =>
    if size ≠ 8 then .error .relocatable
    else
      let r : AsmReloc :=
        match label.filter fun n => a.globals.contains n with
        | some n => match a.syms.lookup n with
          | some (.loc _ o _) => { sec := p.sec, off := p.off, symbol := some n, base := sec, addend := off - o }
          | _ => { sec := p.sec, off := p.off, symbol := none, base := sec, addend := off }
        | none => { sec := p.sec, off := p.off, symbol := none, base := sec, addend := off }
      .ok { bytes := List.replicate 8 0, ignore := 0, trap := 0, reloc := some r }

/-- An item with all symbols known. An encoding that is not an instruction is an error (R61); the overrides come after that check.
-/
def settleItem (legal : Nat → Bool) (a : Asm) (p : AsmPlaced) : Except AsmError Settled :=
  match p.item with
  | .raw l => .ok { bytes := l, ignore := 0, trap := 0, reloc := none }
  | .value size e => settleValue a p size e
  | .word cls fields targets keys =>
    match targetFields a.syms p.off targets with
    | .error x => .error x
    | .ok t =>
      let all : List FieldSet := (0, 1, 1) :: (1, 5, cls) :: (fields ++ t)
      let w := wordOfFields all
      if !legal w then .error .illegal
      else match overridesOf a.syms p.off (a.isa.getD 0x0100) cls w (maskOfFields all) keys with
        | .error x => .error x
        | .ok (v, i, tr) => .ok { bytes := leBytes (w ||| v) 4, ignore := i, trap := tr, reloc := none }

/-! ## The object (R149 to R152) -/

/-- A code object before it is laid out as a file. -/
structure AsmObject where
  text    : List Byte
  rodata  : List Byte
  data    : List Byte
  relocs  : List AsmReloc
  /-- kernels: name, offset in `.text`, offset of the template in `.rodata` -/
  kernels : List (String × Nat × Nat)
  /-- the trap handler: name and offset in `.text` -/
  handler : Option (String × Nat)
  level   : Nat
  ignore  : Nat
  trap    : Nat
  deriving DecidableEq, Repr

/-- A template (R57, R155); what the host fills in is zero. -/
def AsmKernel.bytes (k : AsmKernel) (handler : Bool) : List Byte :=
  let (v, s, z) := k.counted
  let flags := (if k.gated then 1 else 0) + (if k.debug then 2 else 0) + (if handler then 4 else 0)
  List.replicate 16 0 ++ leBytes (Nat.log2 (k.width.getD 8)) 1 ++ k.fields.flatMap (fun n => leBytes n 1) ++ [0, 0] ++
    k.counts.flatMap (fun n => leBytes n 4) ++ leBytes v 1 ++ leBytes s 1 ++ leBytes z 1 ++ leBytes flags 1 ++ leBytes k.scratch 4 ++
    leBytes k.priv 4 ++ leBytes k.splitStack 4 ++ [0] ++ leBytes k.preload 1 ++ List.replicate 34 0 ++ leBytes k.fm 4 ++
    leBytes k.gc 4 ++ List.replicate 24 0

/-- Settles the items of the file, in their order: what they become, and the errors. -/
def settleAll (legal : Nat → Bool) (a : Asm) : List AsmPlaced → List (AsmPlaced × Settled) × List (Nat × AsmError)
  | [] => ([], [])
  | p :: r =>
    let (l, es) := settleAll legal a r
    match settleItem legal a p with
    | .ok x => ((p, x) :: l, es)
    | .error e => (l, (p.line, e) :: es)

/-- The masks that `.uses` gives, ignore and trap, and the errors of its expressions (R58). -/
def Asm.usesMasks (a : Asm) : List (Nat × Val × String × Expr) → (Nat × Nat) × List (Nat × AsmError)
  | [] => ((0, 0), [])
  | (line, place, n, e) :: r =>
    let ((i, t), es) := a.usesMasks r
    match e.const a.syms place with
    | .error x => ((i, t), (line, x) :: es)
    | .ok x =>
      if 2 ^ 32 ≤ x.toNat then ((i, t), (line, .range) :: es)
      else if n == "ignore" then ((i ||| x.toNat, t), es) else ((i, t ||| x.toNat), es)

/-- Bytes of a section. -/
def sectionOf (l : List (AsmPlaced × Settled)) (s : Sec) : List Byte :=
  (l.filter fun x => x.1.sec = s).flatMap fun x => x.2.bytes

/-- The handler symbol's place in `.text`. -/
def Asm.handlerPlace (a : Asm) : Except (Nat × AsmError) (Option (String × Nat)) :=
  match a.handler with
  | none => .ok none
  | some (line, n) =>
    match a.syms.lookup n with
    | none => .error (line, .undefinedSymbol n)
    | some (.loc .text o _) => if o.toNat % 2 = 0 then .ok (some (n, o.toNat)) else .error (line, .placement)
    | some _ => .error (line, .target)

/-- The object of a source file, or its errors by line; no object where there is an error (R61). `legal` tells instructions from
other patterns of 32 bits. -/
def assembleWith (legal : Nat → Bool) (source : List (List Char)) : Except (List (Nat × AsmError)) AsmObject :=
  let a := Asm.start.lines 1 source
  let (l, late) := settleAll legal a a.items.reverse
  let ((ignore, trap), uses) := a.usesMasks a.uses
  let ends := if a.kernel.isSome then [(source.length, AsmError.shape)] else []
  match a.errors.reverse ++ late ++ uses ++ ends, a.handlerPlace with
  | [], .ok handler =>
    let templates := a.kernels.reverse.foldl (fun b k => putField b k.template (k.bytes handler.isSome)) (sectionOf l .rodata)
    .ok { text := sectionOf l .text, rodata := templates, data := sectionOf l .data, relocs := l.filterMap fun x => x.2.reloc,
          kernels := a.kernels.reverse.map fun k =>
            (k.name, (match a.syms.lookup k.name with | some (.loc _ o _) => o.toNat | _ => 0), k.template),
          handler := handler, level := a.isa.getD 0x0100,
          ignore := l.foldl (fun n x => n ||| x.2.ignore) ignore, trap := l.foldl (fun n x => n ||| x.2.trap) trap }
  | es, .error e => .error (es ++ [e])
  | es, .ok _ => .error es

/-- Whether 32 bits are an instruction (R46). -/
noncomputable def isLongInstruction (w : Nat) : Bool := (decodeLong w).isSome

/-- `ifx-as`: a source file's lines to its object (02_assembly_language.md). -/
noncomputable def assemble (source : List String) : Except (List (Nat × AsmError)) AsmObject :=
  assembleWith isLongInstruction (source.map String.toList)

/-! ## The file (R149 to R152; ELF64's own layout, log 25) -/

/-- A symbol table entry. -/
def symbolBytes (name info shndx value size : Nat) : List Byte :=
  leBytes name 4 ++ leBytes info 1 ++ [0] ++ leBytes shndx 2 ++ leBytes value 8 ++ leBytes size 8

/-- A section header. -/
def sectionHeader (name kind flags off size link info entry : Nat) : List Byte :=
  leBytes name 4 ++ leBytes kind 4 ++ leBytes flags 8 ++ leBytes 0 8 ++ leBytes off 8 ++ leBytes size 8 ++ leBytes link 4 ++
    leBytes info 4 ++ leBytes 1 8 ++ leBytes entry 8

/-- Index of a section in the file. -/
def Sec.index : Sec → Nat
  | .text => 1
  | .rodata => 2
  | .data => 3

/-- Names as a string table: the table's bytes, and the place of each name in it. -/
def stringTable (names : List String) : List Byte × List Nat :=
  names.foldl (fun x n => (x.1 ++ nameBytes n ++ [0], x.2 ++ [x.1.length])) ([0], [])

/-- The symbols of the file: section symbols, a handler that is no kernel (local), kernels and templates (global). -/
def AsmObject.symbols (o : AsmObject) : List (String × Nat × Nat × Nat × Nat) :=
  [("", 0, 0, 0, 0), ("", 3, 1, 0, 0), ("", 3, 2, 0, 0), ("", 3, 3, 0, 0)] ++
    (match o.handler with
      | some (n, v) => if o.kernels.any fun k => k.1 == n then [] else [(n, 2, 1, v, 0)]
      | none => []) ++
    o.kernels.flatMap fun k => [(k.1, 0x12, 1, k.2.1, 0), (k.1 ++ ".wb", 0x11, 2, k.2.2, 128)]

/-- Index of a symbol by name. -/
def AsmObject.symbolIndex (o : AsmObject) (n : String) : Nat := (o.symbols.findIdx? fun x => x.1 == n).getD 0

/-- The relocations of a section: type 1, ABS64. -/
def AsmObject.relocBytes (o : AsmObject) (s : Sec) : List Byte :=
  (o.relocs.filter fun r => r.sec = s).flatMap fun r =>
    leBytes r.off 8 ++ leBytes 1 4 ++ leBytes (match r.symbol with | some n => o.symbolIndex n | none => r.base.index) 4 ++
      leBytes r.addend.toNat 8

/-- The version note (R152). -/
def AsmObject.noteBytes (o : AsmObject) : List Byte :=
  leBytes 7 4 ++ leBytes 16 4 ++ leBytes 1 4 ++ nameBytes "Hexrov" ++ leBytes 0 2 ++ leBytes o.level 4 ++ leBytes o.ignore 4 ++
    leBytes o.trap 4 ++ leBytes (match o.handler with | some (n, _) => o.symbolIndex n | none => 0) 4

/-- The bytes of the ELF64 file. -/
def AsmObject.image (o : AsmObject) : List Byte :=
  let syms := o.symbols
  let (strtab, places) := stringTable (syms.map (·.1))
  let symtab := (syms.zip places).flatMap fun x => symbolBytes x.2 x.1.2.1 x.1.2.2.1 x.1.2.2.2.1 x.1.2.2.2.2
  let locals := (syms.takeWhile fun x => decide (x.2.1 < 16)).length
  -- name, kind, flags, contents, link, info, entry size
  let secs : List (String × Nat × Nat × List Byte × Nat × Nat × Nat) :=
    [(".text", 1, 6, o.text, 0, 0, 0), (".rodata", 1, 2, o.rodata, 0, 0, 0), (".data", 1, 3, o.data, 0, 0, 0),
     (".note.hexrov", 7, 0, o.noteBytes, 0, 0, 0), (".symtab", 2, 0, symtab, 6, locals, 24), (".strtab", 3, 0, strtab, 0, 0, 0),
     (".rela.text", 4, 0, o.relocBytes .text, 5, 1, 24), (".rela.rodata", 4, 0, o.relocBytes .rodata, 5, 2, 24),
     (".rela.data", 4, 0, o.relocBytes .data, 5, 3, 24)]
  let (shstr, names) := stringTable (secs.map (·.1) ++ [".shstrtab"])
  let all := secs ++ [(".shstrtab", 3, 0, shstr, 0, 0, 0)]
  let (contents, headers) := (all.zip names).foldl (fun (x : List Byte × List Byte) y =>
    (x.1 ++ y.1.2.2.2.1,
     x.2 ++ sectionHeader y.2 y.1.2.1 y.1.2.2.1 (64 + x.1.length) y.1.2.2.2.1.length y.1.2.2.2.2.1 y.1.2.2.2.2.2.1 y.1.2.2.2.2.2.2))
    ([], [])
  ([0x7F, 0x45, 0x4C, 0x46, 2, 1, 1, 0] : List Byte) ++ leBytes 0 8 ++ leBytes 3 2 ++ leBytes 0x4858 2 ++ leBytes 1 4 ++ leBytes 0 8 ++
    leBytes 0 8 ++ leBytes (64 + contents.length) 8 ++ leBytes 0 4 ++ leBytes 64 2 ++ leBytes 0 4 ++ leBytes 64 2 ++
    leBytes 11 2 ++ leBytes 10 2 ++ contents ++ List.replicate 64 0 ++ headers

end Sys2Proof.Machine
end

