-- ==== Sys2Proof/Tests/Slice0.lean ====
section
/-! SUPPORT. Tests of the model: words of every class written out from the encoding tables, ill-formed instructions, states that meet the
hypotheses of the statements, and single steps whose results the manual works out. -/

namespace Sys2Proof.Tests

open Sys2Proof Sys2Proof.Machine

set_option Elab.async false

/-! ## Decoding: words written out from R18, R21 and R25 to R43 -/

/-- Halfwords (R18). -/
theorem test_decode_short :
    [0x96A0, 0x96A2, 0x96A4, 0x96A6, 0x96A8, 0x96AA, 0x96AC, 0x96AE, 0x96B0, 0x96B2, 0x96B4, 0x96B6, 0x96B8, 0x96BA, 0x96BC, 0x96BE].map decodeShort =
    [.shortMov 53 18, .shortAddI32 53 18, .shortSubI32 53 18, .shortAnd 53 18, .shortOr 53 18, .shortXor 53 18, .shortShl 53 18,
    .shortShrN32 53 18, .shortShrS32 53 18, .movi 53 18, .shortAddi 53 18, .shortShli 53 18, .shortFaddF32 53 18, .shortFmulF32 53 18,
    .shortFmaxF32 53 18, .shortFminF32 53 18] := by
  rfl

/-- Class IA (R31). -/
theorem test_decode_ia :
    [0x0CC298C1, 0x34C298C1, 0x4CC298C1, 0x74C298C1, 0x8CC298C1, 0xB4C298C1, 0xCCC298C1, 0xF4C298C1].map decodeLong =
    [some (.addI32 3 12 5 38 1 0), some (.subI32 3 12 5 38 0 1), some (.mulI32 3 12 5 38 1 0), some (.mulhS32 3 12 5 38 0 1),
    some (.mulhN32 3 12 5 38 1 0), some (.minS32 3 12 5 38 0 1), some (.maxS32 3 12 5 38 1 0), some (.madI32 3 12 5 38 0 1)] := by
  rfl

/-- Class IB (R31). -/
theorem test_decode_ib :
    [0x0CC298C3, 0x34C298C3, 0x4CC298C3, 0x74C298C3, 0x8CC298C3, 0xB4C298C3, 0xCCC298C3, 0xF4C298C3].map decodeLong =
    [some (.and 3 12 5 38 1 0), some (.or 3 12 5 38 0 1), some (.xor 3 12 5 38 1 0), some (.shl 3 12 5 38 0 1),
    some (.shrN32 3 12 5 38 1 0), some (.shrS32 3 12 5 38 0 1), some (.minN32 3 12 5 38 1 0), some (.maxN32 3 12 5 38 0 1)] := by
  rfl

/-- Class IC (R31). -/
theorem test_decode_ic :
    [0x092AC585, 0x212AC585, 0x492AC585, 0x612AC585, 0x892AC585, 0xA12AC585, 0xC92AC585, 0xE12AC585].map decodeLong =
    [some (.addI32Ic 6 34 21 9 1), some (.subI32Ic 6 34 21 9 0), some (.mulI32Ic 6 34 21 9 1), some (.andIc 6 34 21 9 0),
    some (.orIc 6 34 21 9 1), some (.shlIc 6 34 21 9 0), some (.madI32Ic 6 34 21 9 1), some (.addw 6 34 21 9 0)] := by
  rfl

/-- Class FA (R31). -/
theorem test_decode_fa :
    [0x0CC298C7, 0x34C298C7, 0x4CC298C7, 0x74C298C7, 0x8CC298C7, 0xB4C298C7, 0xCCC298C7, 0xF4C298C7].map decodeLong =
    [some (.faddF32 3 12 5 38 1 0), some (.fsubF32 3 12 5 38 0 1), some (.fmulF32 3 12 5 38 1 0), some (.ffmaF32 3 12 5 38 0 1),
    some (.ffmsF32 3 12 5 38 1 0), some (.fminF32 3 12 5 38 0 1), some (.fmaxF32 3 12 5 38 1 0), some (.packBf16x2 3 12 5 38 0 1)] := by
  rfl

/-- Class FB (R31). -/
theorem test_decode_fb :
    [0x092AC589, 0x212AC589, 0x492AC589, 0x612AC589, 0x892AC589, 0xA12AC589, 0xC92AC589, 0xE12AC589].map decodeLong =
    [some (.faddF32Fb 6 34 21 9 1), some (.fsubF32Fb 6 34 21 9 0), some (.fmulF32Fb 6 34 21 9 1), some (.ffmaF32Fb 6 34 21 9 0),
    some (.ffmsF32Fb 6 34 21 9 1), some (.fminF32Fb 6 34 21 9 0), some (.fmaxF32Fb 6 34 21 9 1), some (.fscaleF32 6 34 21 9 0)] := by
  rfl

/-- Class VU (R32). -/
theorem test_decode_vu_1 :
    [0x0009574B, 0x0829574B, 0x0049574B, 0x0869574B, 0x0089574B, 0x08A9574B, 0x00C9574B, 0x08E9574B, 0x0109574B, 0x0929574B, 0x0149574B,
    0x0969574B, 0x0189574B, 0x09A9574B, 0x01C9574B, 0x09E9574B, 0x0209574B, 0x0A29574B, 0x0249574B, 0x0A69574B].map decodeLong =
    [some (.mov 5 43 18 0), some (.not 5 43 18 1), some (.negI32 5 43 18 0), some (.absI32 5 43 18 1), some (.popc 5 43 18 0),
    some (.clz 5 43 18 1), some (.brev 5 43 18 0), some (.sext8 5 43 18 1), some (.sext16 5 43 18 0), some (.fabs 5 43 18 1),
    some (.fneg 5 43 18 0), some (.frcp 5 43 18 1), some (.frsq 5 43 18 0), some (.fsqrt 5 43 18 1), some (.fexp2 5 43 18 0),
    some (.flog2 5 43 18 1), some (.fsin 5 43 18 0), some (.fcos 5 43 18 1), some (.ftanh 5 43 18 0), some (.ffloor 5 43 18 1)] := by
  rfl

/-- Class VU (R32). -/
theorem test_decode_vu_2 :
    [0x0289574B, 0x0AA9574B, 0x02C9574B, 0x0AE9574B, 0x0309574B, 0x0B29574B, 0x0349574B, 0x0B69574B, 0x0389574B, 0x0BA9574B, 0x03C9574B,
    0x0BE9574B, 0x0409574B, 0x0C29574B, 0x0449574B, 0x0C69574B, 0x0489574B, 0x0CA9574B, 0x04C9574B, 0x0CE9574B].map decodeLong =
    [some (.fceil 5 43 18 0), some (.ftrunc 5 43 18 1), some (.frint 5 43 18 0), some (.ffract 5 43 18 1), some (.cvtF32S32 5 43 18 0),
    some (.cvtF32N32 5 43 18 1), some (.cvtS32F32Rz 5 43 18 0), some (.cvtS32F32Rn 5 43 18 1), some (.cvtN32F32Rz 5 43 18 0),
    some (.cvtBf16F32 5 43 18 1), some (.cvtF32Bf16Lo 5 43 18 0), some (.cvtF32Bf16Hi 5 43 18 1), some (.cvtF16F32 5 43 18 0),
    some (.cvtF32F16Lo 5 43 18 1), some (.cvtF32F16Hi 5 43 18 0), some (.cvtE4m3F32 5 43 18 1), some (.cvtF32E4m3 5 43 18 0),
    some (.cvtE5m2F32 5 43 18 1), some (.cvtF32E5m2 5 43 18 0), some (.fsat 5 43 18 1)] := by
  rfl

/-- Class CMPS, CMPN, CMPF, CMPQ (R35). -/
theorem test_decode_cmps_cmpn_cmpf_cmpq :
    [0x72343A8D, 0x9A347E8D, 0x72343A8F, 0x9A347E8F, 0x72343A91, 0x9A347E91, 0x72343A93, 0x9A347E93].map decodeLong =
    [some (.cmps 2 5 3 40 17 6 1), some (.cmps 2 7 7 40 17 3 2), some (.cmpn 2 5 3 40 17 6 1), some (.cmpn 2 7 7 40 17 3 2),
    some (.cmpf 2 5 3 40 17 6 1), some (.cmpf 2 7 7 40 17 3 2), some (.cmpq 2 5 3 40 17 6 1), some (.cmpq 2 7 7 40 17 3 2)] := by
  rfl

/-- Class VI, SI (R33). -/
theorem test_decode_vi_si :
    [0xEC054315, 0xEC254315, 0xEC454315, 0xEC654315, 0x1D854315, 0x1DA54315, 0x1DC54315, 0xECE54315, 0xEC054319, 0xEC254319, 0xEC454319,
    0xEC654319, 0x3D854319, 0x3DA54319, 0x3DC54319, 0xECE54319].map decodeLong =
    [some (.addi 4 33 10 236), some (.andi 4 33 10 236), some (.ori 4 33 10 236), some (.xori 4 33 10 236), some (.shli 4 33 10 29),
    some (.shriN32 4 33 10 29), some (.shriS32 4 33 10 29), some (.muli 4 33 10 236), some (.addiSi 4 33 10 236),
    some (.andiSi 4 33 10 236), some (.oriSi 4 33 10 236), some (.xoriSi 4 33 10 236), some (.shliSi 4 33 10 61),
    some (.shriNSi 4 33 10 61), some (.shriSSi 4 33 10 61), some (.muliSi 4 33 10 236)] := by
  rfl

/-- Class SR (R34). -/
theorem test_decode_sr_1 :
    [0x0172E457, 0x0972E457, 0x1172E457, 0x1972E457, 0x2172E457, 0x2972E457, 0x3172E457, 0x3972E457, 0x4172E457, 0x4972E457, 0x5172E457,
    0x5972E457, 0x6172E457, 0x6972E457, 0x7172E457, 0x7972E457, 0x8172E457, 0x8972E457, 0x9172E457, 0x9972E457].map decodeLong =
    [some (.addSr 1 50 37 11), some (.subSr 1 50 37 11), some (.mulSr 1 50 37 11), some (.mulhSSr 1 50 37 11),
    some (.mulhNSr 1 50 37 11), some (.andSr 1 50 37 11), some (.orSr 1 50 37 11), some (.xorSr 1 50 37 11), some (.andnSr 1 50 37 11),
    some (.shlSr 1 50 37 11), some (.shrNSr 1 50 37 11), some (.shrSSr 1 50 37 11), some (.minSSr 1 50 37 11),
    some (.maxSSr 1 50 37 11), some (.minNSr 1 50 37 11), some (.maxNSr 1 50 37 11), some (.divSSr 1 50 37 11),
    some (.divNSr 1 50 37 11), some (.remSSr 1 50 37 11), some (.remNSr 1 50 37 11)] := by
  rfl

/-- Class SR (R34). -/
theorem test_decode_sr_2 :
    [0xA012E457, 0xA812E457, 0xB012E457, 0xB972E457].map decodeLong =
    [some (.clzSr 1 50 37), some (.popcSr 1 50 37), some (.movSr 1 50 37), some (.bfx 1 50 37 11)] := by
  rfl

/-- Class SLI, XS, SEL (R34, R36). -/
theorem test_decode_sli_xs_sel :
    [0xB4625BDB, 0xB462DBDB, 0xB4635BDB, 0x001612DD, 0x2AB612DD, 0x42B612DD, 0x6AB612DD, 0x92B612DD, 0xA00312DD, 0xC81612DD, 0xE01612DD,
    0xAE41909F].map decodeLong =
    [some (.li 7 45 0x5A31), some (.lis 7 45 0x5A31), some (.addis 7 45 0x5A31), some (.bcast 3 9 44), some (.rdlane 3 9 44 21 1),
    some (.wrlane 3 9 44 21), some (.shfl 3 9 44 21 1 0), some (.shflX 3 9 44 21 0 1), some (.ballot 3 9 6), some (.redi 3 9 44 1),
    some (.redf 3 9 44 0), some (.sel 2 8 3 50 1 0 5)] := by
  rfl

/-- Class BRA, BRX, CALL, JR (R28, R36). -/
theorem test_decode_bra_brx_call_jr :
    [0xBFFFC061, 0x048D1721, 0x080040A3, 0xFFFFF9A7, 0x000001E5, 0x002052A5, 0x004052A5, 0x00600165, 0x008B5265, 0x04A000E5, 0xA7C001A5,
    0x81E00025].map decodeLong =
    [some (.braP 1 0x2FFFF0), some (.braC 4 0x12345), some (.brx 2 0x020 0x040), some (.call 6 0x3FFFFE), some .join, some (.jmpr 2 41),
    some (.callr 2 41), some (.ret 5), some (.brxr 1 41 22), some (.exit 3 4), some (.trap 6 0xA7), some (.yield 0 0x81)] := by
  rfl

/-- Class LDG, STG (R37). -/
theorem test_decode_ldg_stg :
    [0x0271B869, 0xA671B869, 0x4A71B869, 0xEE71B869, 0x1271B869, 0xB671B869, 0x5A71B869, 0xA271B86B, 0xEA71B86B, 0xB271B86B, 0xD671B86B,
    0xFA71B86B].map decodeLong =
    [some (.ldgN8 1 0 28 35 19 0), some (.ldgS8 1 1 28 35 19 1), some (.ldgN16 1 2 28 35 19 0), some (.ldgS16 1 3 28 35 19 1),
    some (.ldgB32 1 0 28 35 19 0), some (.ldgB64 1 1 28 35 19 1), some (.ldgB128 1 2 28 35 19 0), some (.stgB8 1 1 28 35 19 1),
    some (.stgB16 1 3 28 35 19 1), some (.stgB32 1 1 28 35 19 1), some (.stgB64 1 2 28 35 19 1), some (.stgB128 1 3 28 35 19 1)] := by
  rfl

/-- Class LDS, STS, PRV (R37). -/
theorem test_decode_lds_sts_prv :
    [0x9311B9AD, 0x9331B9AD, 0x9351B9AD, 0x9371B9AD, 0x9391B9AD, 0x93B1B9AD, 0x93D1B9AD, 0x9311B9AF, 0x9351B9AF, 0x9391B9AF, 0x93B1B9AF,
    0x93D1B9AF, 0x6D0EF971, 0x6D8EF971, 0x6D2EF971, 0x6DAEF971, 0x6D4EF971, 0x6DCEF971].map decodeLong =
    [some (.ldsN8 6 28 35 0x93), some (.ldsS8 6 28 35 0x93), some (.ldsN16 6 28 35 0x93), some (.ldsS16 6 28 35 0x93),
    some (.ldsB32 6 28 35 0x93), some (.ldsB64 6 28 35 0x93), some (.ldsB128 6 28 35 0x93), some (.stsB8 6 28 35 0x93),
    some (.stsB16 6 28 35 0x93), some (.stsB32 6 28 35 0x93), some (.stsB64 6 28 35 0x93), some (.stsB128 6 28 35 0x93),
    some (.ldpB32 5 60 29 0x6D), some (.stpB32 5 60 29 0x6D), some (.ldpB64 5 60 29 0x6D), some (.stpB64 5 60 29 0x6D),
    some (.ldpB128 5 60 29 0x6D), some (.stpB128 5 60 29 0x6D)] := by
  rfl

/-- Class ATOM (R38). -/
theorem test_decode_atom :
    [0x021110B3, 0x943110B3, 0x2A5110B3, 0xBC7110B3, 0x429110B3, 0x84B110B3, 0x1AD110B3, 0xACF110B3, 0x331110B3, 0xC53110B3, 0xC95110B3,
    0xCD7110B3, 0xC19110B3, 0x37B110B3, 0x99D110B3].map decodeLong =
    [some (.atomAdd 2 8 34 0 0 0 1), some (.atomMinS 2 8 34 1 1 1 0), some (.atomMaxS 2 8 34 2 2 0 1), some (.atomMinN 2 8 34 3 3 1 0),
    some (.atomMaxN 2 8 34 0 4 0 1), some (.atomAnd 2 8 34 1 0 1 0), some (.atomOr 2 8 34 2 1 0 1), some (.atomXor 2 8 34 3 2 1 0),
    some (.atomXchg 2 8 34 0 3 0 1), some (.atomCas 2 8 34 1 4 1 0), some (.atomFaddF32 2 8 34 2 4 1),
    some (.atomFminF32 2 8 34 3 4 1), some (.atomFmaxF32 2 8 34 0 4 1), some (.atomLd 2 8 34 1 3 1), some (.atomSt 2 8 34 2 1 1 0)] := by
  rfl

/-- Class ATOMS (R38). -/
theorem test_decode_atoms :
    [0x021090B5, 0x943090B5, 0x2A5090B5, 0xBC7090B5, 0x429090B5, 0x84B090B5, 0x1AD090B5, 0xACF090B5, 0x331090B5, 0xC53090B5, 0xC95090B5,
    0xCD7090B5, 0xC19090B5, 0x37B090B5, 0x99D090B5].map decodeLong =
    [some (.atomsAdd 2 8 33 0 0 0 1), some (.atomsMinS 2 8 33 1 1 1 0), some (.atomsMaxS 2 8 33 2 2 0 1),
    some (.atomsMinN 2 8 33 3 3 1 0), some (.atomsMaxN 2 8 33 0 4 0 1), some (.atomsAnd 2 8 33 1 0 1 0),
    some (.atomsOr 2 8 33 2 1 0 1), some (.atomsXor 2 8 33 3 2 1 0), some (.atomsXchg 2 8 33 0 3 0 1), some (.atomsCas 2 8 33 1 4 1 0),
    some (.atomsFaddF32 2 8 33 2 4 1), some (.atomsFminF32 2 8 33 3 4 1), some (.atomsFmaxF32 2 8 33 0 4 1),
    some (.atomsLd 2 8 33 1 3 1), some (.atomsSt 2 8 33 2 1 1 0)] := by
  rfl

/-- Class SYNC (R39). -/
theorem test_decode_sync :
    [0x147A94F7, 0x200014F7, 0x401A94F7, 0x600014F7, 0x602014F7, 0x800014F7, 0x802014F7, 0xA0DA80F7, 0xA0E014F7, 0xC00000F7, 0xC02000F7,
    0xC04000F7, 0xE41A94F7].map decodeLong =
    [some (.fence 3 10 53 2 4 3), some (.marm 3 10), some (.mwait 3 10 53), some (.bsealCopy 3 10), some (.bsealMat 3 10),
    some (.bwaitCopy 3 10), some (.bwaitMat 3 10), some (.bar 3 53 6), some (.barLanes 3 10), some (.tgateArriveWait 3),
    some (.tgateArrive 3), some (.tgateWait 3), some (.wdrain 3 10 53 4)] := by
  rfl

/-- Class QUE (R40). -/
theorem test_decode_que :
    [0x0006CF39, 0x000ECF39, 0x0196CF39, 0x015ECF39, 0x1026CF39, 0x002ECF39].map decodeLong =
    [some (.qpush 4 13 39), some (.qpop 4 13 39), some (.qtpush 4 13 39 6), some (.qtpop 4 13 39 5), some (.qinit 4 13 39 64),
    some (.qstat 4 13 39)] := by
  rfl

/-- Class XCP (R41). -/
theorem test_decode_xcp :
    [0x9003C97B, 0x9423C97B, 0x9843C97B, 0x9C63C97B, 0x9083C97B, 0x94A3C97B, 0x98C3C97B, 0x9CE3C97B, 0x9103C97B, 0x9523C97B, 0x9943C97B,
    0x9D63C97B].map decodeLong =
    [some (.xcpCopy 5 36 7 9 0), some (.xcpStrided 5 36 7 9 1), some (.xcpSwizzle 5 36 7 9 2), some (.xcpCbexp 5 36 7 9 3),
    some (.xcpTxb4c 5 36 7 9 0), some (.xcpTxb4x 5 36 7 9 1), some (.xcpSgnpk 5 36 7 9 2), some (.xcpSgnun 5 36 7 9 3),
    some (.xcpShenc 5 36 7 9 0), some (.xcpShdec 5 36 7 9 1), some (.xcpGather 5 36 7 9 2), some (.xcpFill 5 36 7 9 3)] := by
  rfl

/-- Class MMA (R42). -/
theorem test_decode_mma :
    [0x40A4567D, 0x62A4567D, 0x84A4567D, 0xA6A4567D, 0xC8A4567D, 0x0AA4567D, 0x0C00167D, 0x0E04567D, 0xB004567D, 0x1204567D].map decodeLong =
    [some (.mma 1 11 34 20 2), some (.mmaBt 1 11 34 20 3), some (.mmaRs 1 11 34 20 4), some (.mdf 1 11 34 20 5),
    some (.mdfSp 1 11 34 20 6), some (.msmx 1 11 34 20), some (.mzero 1 11), some (.mld 1 11 34), some (.mst 1 11 34 5),
    some (.mside 1 11 34)] := by
  rfl

/-- Class SYS (R43). -/
theorem test_decode_sys :
    [0x00099CBF, 0x0E6480BF, 0x0E6500BF, 0x0E6580BF, 0x0E6600BF, 0x10031CBF, 0x18049CBF, 0x200E8CBF, 0x280000BF, 0x300000BF, 0x3C7A00BF,
    0x466E9CBF, 0x480E80BF, 0x566E1CBF, 0x580E9CBF, 0x600E80BF, 0x6FEE9CBF].map decodeLong =
    [some (.gsr 2 14 19), some (.ssrGstat 2 51), some (.ssrGc 2 51), some (.ssrFm 2 51), some (.ssrMst 2 51), some (.wid 2 14 6),
    some (.topo 2 14 9), some (.chk 2 6 29), some (.idem 2), some (.idemx 2), some (.brk 2 35 52), some (.launch 2 14 29 51),
    some (.evpost 2 29), some (.ldw 2 14 28 51), some (.lodge 2 14 29), some (.pfg 2 29), some (.lq 2 14 29 63)] := by
  rfl

/-! ## Ill-formed instructions, and patterns that are not instructions -/

/-- One ill-formed instruction for each check of R24, R28 and R31 to R37. -/
theorem test_ill_formed_fields :
    [Instr.addw 7 5 0 0 0, .cmps 7 5 5 0 0 0 0, .cmps 7 1 2 0 0 7 0, .cmpn 7 5 5 0 0 0 0, .cmpf 7 0 0 0 0 0 0, .cmpq 7 6 6 0 0 1 0,
      .brx 7 0 0, .exit 7 5, .ldgB64 7 0 3 0 0 0, .ldgB128 7 0 6 0 0 0, .stgB64 7 0 63 0 0 0, .stgB128 7 0 2 0 0 0, .ldsB64 7 1 0 0,
      .ldsB128 7 2 0 0, .stsB64 7 1 0 0, .stsB128 7 62 0 0, .ldpB64 7 1 0 0, .ldpB128 7 1 0 0, .stpB64 7 1 0 0, .stpB128 7 6 0 0].map
        wellFormed = List.replicate 20 false := by
  decide

/-- One for each combination that R38 names. -/
theorem test_ill_formed_atomics :
    [Instr.atomAdd 7 0 1 0 0 0 0, .atomMinS 7 1 0 0 0 0 1, .atomMaxS 7 0 0 0 5 0 0, .atomMinN 7 0 1 0 0 0 0, .atomMaxN 7 1 0 0 0 0 1,
      .atomAnd 7 0 3 0 0 0 0, .atomOr 7 0 0 0 6 0 0, .atomXor 7 3 0 0 0 0 1, .atomXchg 7 0 0 0 7 0 0, .atomCas 7 63 0 0 0 0 0,
      .atomCas 7 1 0 0 0 0 1, .atomCas 7 62 0 0 0 0 1, .atomFaddF32 7 0 1 0 0 0, .atomFminF32 7 0 0 0 5 0, .atomFmaxF32 7 0 3 0 0 0,
      .atomLd 7 0 0 2 0 0, .atomLd 7 0 0 3 0 0, .atomSt 7 0 0 1 0 0 0, .atomSt 7 0 0 3 0 0 0, .atomSt 7 1 0 0 0 0 1].map
        wellFormed = List.replicate 20 false ∧
    [Instr.atomsAdd 7 1 0 0 0 0 1, .atomsMinS 7 0 0 0 5 0 0, .atomsMaxS 7 1 0 0 0 0 1, .atomsMinN 7 0 0 0 6 0 0, .atomsMaxN 7 1 0 0 0 0 1,
      .atomsAnd 7 0 0 0 7 0 0, .atomsOr 7 1 0 0 0 0 1, .atomsXor 7 0 0 0 5 0 0, .atomsXchg 7 1 0 0 0 0 1, .atomsCas 7 63 0 0 0 0 0,
      .atomsCas 7 62 0 0 0 0 1, .atomsFaddF32 7 0 0 0 5 0, .atomsFminF32 7 0 0 0 6 0, .atomsFmaxF32 7 0 0 0 7 0, .atomsLd 7 0 0 2 0 0,
      .atomsSt 7 0 0 1 0 0 0].map wellFormed = List.replicate 16 false := by
  decide

/-- One for each check of R39 to R43. -/
theorem test_ill_formed_system :
    [Instr.fence 7 0 0 1 0 0, .fence 7 0 0 0 0 1, .fence 7 0 0 1 5 1, .bar 7 0 7, .wdrain 7 0 0 5, .qinit 7 0 0 0, .qinit 7 0 0 65,
      .xcpCopy 7 1 0 0 0, .xcpStrided 7 2 0 0 0, .xcpSwizzle 7 3 0 0 0, .xcpCbexp 7 5 0 0 0, .xcpTxb4c 7 6 0 0 0, .xcpTxb4x 7 7 0 0 0,
      .xcpSgnpk 7 9 0 0 0, .xcpSgnun 7 10 0 0 0, .xcpShenc 7 11 0 0 0, .xcpShdec 7 13 0 0 0, .xcpGather 7 14 0 0 0, .xcpFill 7 62 0 0 0,
      .mma 7 0 1 0 0, .mma 7 0 0 1 0, .mmaBt 7 0 1 0 0, .mmaRs 7 0 0 3 0, .mdf 7 0 5 0 0, .mdfSp 7 0 0 7 0, .msmx 7 0 1 0, .mld 7 0 1,
      .mst 7 0 1 0, .mst 7 0 0 6, .mst 7 0 0 7, .mside 7 0 1, .gsr 7 0 20, .wid 7 0 7, .topo 7 0 10, .ldw 7 0 1 0].map wellFormed =
      List.replicate 35 false := by
  decide

/-- The table at the end of section 1, the word behind it, and `red.fadd.f32` with w = 1 (R32, R35, R36, R38). -/
theorem test_not_instructions :
    [0x05A0000B, 0x00005A0D, 0x08000E25, 0xB34111F3].map decodeLong = [none, none, none, none] ∧
      (decodeLong 0x00001A0D).isSome = true ∧ decodeLong 0xB14111F3 = some (.atomFaddF32 7 8 2 0 3 1) := ⟨rfl, rfl, rfl⟩

/-- A word for each row of R45 and each instruction that it names, with a field set that must be zero. -/
theorem test_trap_class :
    [0x08A001E5, 0x00A003E5, 0x00A081E5, 0x00000FE5, 0x016001E5, 0x002081E5, 0x014001E5, 0x018001E5, 0x00C003E5, 0x00E081E5, 0x200001CB,
      0x100001CB, 0x100001C5, 0x100001C9, 0x208001D5, 0x40C001D9, 0x002001DD, 0x080001DD, 0x300001DD, 0x480001DD, 0xA00401DD, 0xC02001DD,
      0xF00001DD, 0xA02001D7, 0x000003E7, 0x08A001F7, 0x200081F7, 0x402001F7, 0x604001F7, 0x880001F7, 0xA02003F7, 0xA0E081F7, 0xC00003F7,
      0xE02001F7, 0x004001F9, 0x020801F9, 0x021001F9, 0x206001F9, 0x006801F9, 0x0C0041FD, 0x0E1001FD, 0x2A0001FD, 0x320001FD, 0x002001FF,
      0x080483FF, 0x102001FF, 0x200011FF, 0x280081FF, 0x380003FF, 0x482001FF, 0x600003FF].all
        (fun w => (decodeLong w).isNone) = true := by
  decide +kernel

/-- Words with a minor code that R31 to R43 leave unassigned or name ILLEGAL. -/
theorem test_unassigned :
    [0x050001CB, 0x000181DB, 0xC00001D7, 0xF80001D7, 0x1C0001E9, 0x040001EB, 0x0C0001EB, 0x00E001ED, 0x006001EF, 0x006001F1, 0x00E001F1,
      0x01E001F3, 0x01E001F5, 0x034001F3, 0x81A001F3, 0xC06001F7, 0x003001F9, 0x003801F9, 0x018001FB, 0x03E001FB, 0x140001FD, 0x1E0001FD,
      0x700001FF, 0xF80001FF, 0x080401FF, 0x080681FF, 0x000001A5].all
        (fun w => (decodeLong w).isNone) = true := by
  decide +kernel

/-- The ignore-class fields of R44: an instruction decodes whatever they hold. -/
theorem test_ignored :
    [0x800001E9, 0x800001EB, 0xF00001FB, 0xFFE001E5, 0x001F81FB].all (fun w => (decodeLong w).isSome) = true := by
  decide +kernel

/-! ## A small machine -/

/-- Eight full lanes of a register. -/
def kitLanes (f : Nat → Word) : Tbl LaneCell := (List.range 8).map fun l => (l, { val := f l, st := .full })

/-- The group of `State.placeWord` with vector registers, scalars and predicates of its own: v1 counts, v2 holds addresses, v6 and v7
hold a pair, c0 and c1 are true, p0 names lanes 0 and 1. -/
def kitGroup : Group :=
  { Group.start placedWaybill 0 0 0 privateLow (0, []) with
    vregs := [(1, kitLanes fun l => BitVec.ofNat 32 l), (2, kitLanes fun l => BitVec.ofNat 32 (16 * l)), (3, kitLanes fun _ => 0),
              (6, kitLanes fun l => BitVec.ofNat 32 (0x10000 + 16 * l)), (7, kitLanes fun _ => 0)]
    scalars := [(1, { val := 5, st := .full }), (2, { val := 0x10000, st := .full }), (4, { val := 1, st := .full }),
                (5, { val := 3, st := .full }), (62, { val := 0x10008, st := .full })]
    c := 3
    preds := [(0, 3)] }

/-- The machine of `State.placeWord` with a group, whose slot A executes. -/
def kitWith (g : Group) : State :=
  { State.reset.placeWord [] with groups := [(0, g)], cur := some { group := 0, slotB := false, enc := 0 } }

/-- The split in slot A of that group, at its first instruction. -/
def kitSplit : Split := Split.start (BitVec.ofNat 64 placedVa) 0xFF 0

/-- The view of that split. -/
def kitView (len : Nat) (g : Group) (sl : Split) : View :=
  { s := { kitWith g with cur := none }, gid := 0, slotB := false, enc := 0, g := g, sl := sl,
    next := sl.pc + BitVec.ofNat 64 len, idle := false, rest := .none, joined := false }

def kit : State := kitWith kitGroup
def kv : View := kitView 4 kitGroup kitSplit

theorem kit_executes (len : Nat) (g : Group) (sl : Split) (h : g.slotA = some sl)
    (d : softRead len (kitView len g sl) = none) : Executes len (kitWith g) (kitView len g sl) := by
  exact ⟨by simp [viewOf, kitWith, kitView, State.group?, tblGet?, Group.slot, h], d⟩

/-- Every cell of these registers in these lanes is full. -/
def fullB (g : Group) (lanes : DWord) (vs : List Nat) : Bool :=
  (List.range 64).all fun l => !lanes.getLsbD l || vs.all fun r => (g.lane? r l).all fun c => c.st == .full

theorem lanesFull_of (v : View) (lanes : DWord) (vs : List Nat) (h : fullB v.g lanes vs = true) : LanesFull v lanes vs := by
  intro l hl hm r hr c hc
  have h1 := List.all_eq_true.mp h l (List.mem_range.mpr hl)
  rw [hm] at h1
  have h2 := List.all_eq_true.mp (by simpa using h1) r hr
  rw [hc] at h2
  simpa using h2

/-- The kernel may name these registers. -/
def namedB (v : View) (vs ss : List Nat) : Bool :=
  vs.all (fun r => decide (r < wbVregs v.wb)) && ss.all fun r => decide (r < wbSregs v.wb) || decide (60 ≤ r)

/-- None of these scalars is empty, poisoned or damaged. -/
def scalarsB (v : View) (ss : List Nat) : Bool := ss.all fun r => (v.g.scalar r).st == .full

theorem named_of (v : View) (vs ss : List Nat) (h : namedB v vs ss = true) : Named v vs ss := by
  simpa [namedB, Named] using h

theorem scalarsFull_of (v : View) (ss : List Nat) (h : scalarsB v ss = true) : ScalarsFull v ss := by
  simpa [scalarsB, ScalarsFull] using h

/-- What `LaneReady` asks beside `Executes`. -/
def readyB (v : View) (guard : Nat) (ds vs ss : List Nat) : Bool :=
  namedB v (ds ++ vs) ss && fullB v.g (v.acting guard) vs && scalarsB v ss &&
    v.s.allocServed v.core v.g.crew (v.g.needs (lanesOf (v.acting guard)) ds)

theorem laneReady_of (len : Nat) (s : State) (v : View) (guard : Nat) (ds vs ss : List Nat) (h : Executes len s v)
    (b : readyB v guard ds vs ss = true) : LaneReady len s v guard ds vs ss := by
  simp only [readyB, Bool.and_eq_true] at b
  exact ⟨h, named_of _ _ _ b.1.1.1, lanesFull_of v _ vs b.1.1.2, fun _ => scalarsFull_of _ _ b.1.2, b.2⟩

theorem scalarReady_of (s : State) (v : View) (guard : Nat) (ds ss : List Nat) (h : Executes 4 s v)
    (b : (namedB v [] (ds ++ ss) && scalarsB v ss) = true) : ScalarReady s v guard ds ss := by
  simp only [Bool.and_eq_true] at b
  exact ⟨h, named_of _ _ _ b.1, fun _ => scalarsFull_of _ _ b.2⟩

theorem kv_executes : Executes 4 kit kv := kit_executes 4 _ _ rfl rfl

/-- The kit is ready for a lane instruction. -/
theorem kit_lane (guard : Nat) (ds vs ss : List Nat) (b : readyB kv guard ds vs ss = true) : LaneReady 4 kit kv guard ds vs ss :=
  laneReady_of 4 kit kv guard ds vs ss kv_executes b

/-- The kit is ready for a c-guarded instruction. -/
theorem kit_scalar (guard : Nat) (ds ss : List Nat) (b : (namedB kv [] (ds ++ ss) && scalarsB kv ss) = true) :
    ScalarReady kit kv guard ds ss := scalarReady_of kit kv guard ds ss kv_executes b

/-! ## Witnesses: states and operands that meet the hypotheses of the statements -/

theorem witness_DecodeEncode :
    wellFormed (.madI32 7 63 0 63 1 0) = true ∧ encode (.madI32 7 63 0 63 1 0) = some (4, 0xEFE07FC1) := ⟨rfl, rfl⟩

theorem witness_EncodeDecode :
    0x0A8218C7 < 2 ^ 32 ∧ 0x0A8218C7 % 2 = 1 ∧ decodeLong 0x0A8218C7 = some (.faddF32 3 12 4 20 1 0) ∧
      0x48A2 < 2 ^ 16 ∧ 0x48A2 % 2 = 0 := by
  refine ⟨by decide, rfl, rfl, by decide, rfl⟩

theorem witness_IntegerLanes :
    LaneReady 4 kit kv 7 [4] [1, 2] [] ∧ LaneReady 4 kit kv 7 [4] [1, 2, 4] [] ∧ LaneReady 4 kit kv 0 [4] [1] [] ∧
      (∃ p : Word, p ≠ 0) :=
  ⟨kit_lane _ _ _ _ rfl, kit_lane _ _ _ _ rfl, kit_lane _ _ _ _ rfl, 1, by decide⟩

theorem witness_ScalarAndShortLanes :
    LaneReady 4 kit kv 7 [4] [1] [5] ∧ LaneReady 4 kit kv 7 [4] [1, 4] [5] ∧ LaneReady 4 kit kv 7 [4, 5] [1] [5] :=
  ⟨kit_lane _ _ _ _ rfl, kit_lane _ _ _ _ rfl, kit_lane _ _ _ _ rfl⟩

/-- The view of the kit's split at a halfword. -/
def kv2 : View := kitView 2 kitGroup kitSplit

theorem witness_ScalarAndShortLanes_short :
    LaneReady 2 kit kv2 7 [1] [1, 2] [] ∧ LaneReady 2 kit kv2 7 [63] [31] [] ∧ LaneReady 2 kit kv2 7 [63] [] [] ∧
      LaneReady 2 kit kv2 7 [1] [1] [] :=
  have h := kit_executes 2 kitGroup kitSplit rfl rfl
  ⟨laneReady_of _ _ _ _ _ _ _ h rfl, laneReady_of _ _ _ _ _ _ _ h rfl, laneReady_of _ _ _ _ _ _ _ h rfl,
    laneReady_of _ _ _ _ _ _ _ h rfl⟩

theorem witness_FloatLanes :
    LaneReady 4 kit kv 7 [4] [1, 2] [] ∧ LaneReady 4 kit kv 7 [1] [1, 2, 1] [] ∧ LaneReady 4 kit kv 7 [4] [1] [5] ∧
      LaneReady 4 kit kv 7 [4] [1, 4] [5] ∧ LaneReady 4 kit kv 0 [4] [1] [] :=
  ⟨kit_lane _ _ _ _ rfl, kit_lane _ _ _ _ rfl, kit_lane _ _ _ _ rfl, kit_lane _ _ _ _ rfl, kit_lane _ _ _ _ rfl⟩

/-- Every cell of the kit is full. -/
theorem kit_full (r l : Nat) (c : LaneCell) (h : kv.g.lane? r l = some c) : c.st = .full := by
  have k : (kitGroup.vregs.all fun x => x.2.all fun y => y.2.st == CellSt.full) = true := rfl
  have m : ∀ {α : Type} (t : Tbl α) (i : Nat) (x : α), tblGet? t i = some x → ∃ y ∈ t, y.2 = x := by
    intro α t i x hx
    induction t with
    | nil => simp [tblGet?] at hx
    | cons y r ih =>
      simp only [tblGet?] at hx
      split at hx
      · exact ⟨y, List.mem_cons_self, by simpa using hx⟩
      · obtain ⟨z, hz, e⟩ := ih hx
        exact ⟨z, List.mem_cons_of_mem _ hz, e⟩
  cases e : tblGet? kv.g.vregs r with
  | none => simp [Group.lane?, e] at h
  | some w =>
    simp only [Group.lane?, e, Option.map_some, Option.some.injEq] at h
    obtain ⟨y, hy, rfl⟩ := m _ _ _ e
    have h1 := List.all_eq_true.mp k y hy
    rw [tblGet] at h
    cases f : tblGet? y.2 l with
    | none => rw [f] at h; exact h ▸ rfl
    | some z =>
      obtain ⟨x, hx, rfl⟩ := m _ _ _ f
      rw [f] at h
      exact h ▸ by simpa using List.all_eq_true.mp h1 x hx

theorem witness_LaneMoves :
    LaneReady 4 kit kv 7 [4] [1, 2] [] ∧ LaneReady 4 kit kv 7 [4] [] [5] ∧
      (∀ l, l < 64 → (kv.acting 7).getLsbD l = true → ∀ k c, kv.g.lane? 1 k = some c → c.st = .full) ∧
      Named kv [4] [5, 1] ∧ ScalarsFull kv [5, 1] ∧ Served kv (kv.acting 7 &&& 8) [4] :=
  ⟨kit_lane _ _ _ _ rfl, kit_lane _ _ _ _ rfl, fun _ _ _ k c => kit_full 1 k c, named_of _ _ _ rfl, scalarsFull_of _ _ rfl, rfl⟩

theorem witness_Reductions :
    Executes 4 kit kv ∧ Named kv [1] [9, 5] ∧ kv.g.cpred 7 = true ∧ kv.g.cpred 6 = false ∧ ScalarsFull kv [5] ∧
      (∀ c, kv.g.lane? 1 3 = some c → c.st = .full) ∧ ScalarReady kit kv 7 [9] [] ∧ LanesFull kv kv.sl.mask [1] :=
  ⟨kv_executes, named_of _ _ _ rfl, rfl, rfl, scalarsFull_of _ _ rfl, fun c => kit_full 1 3 c, kit_scalar _ _ _ rfl,
    lanesFull_of _ _ _ rfl⟩

theorem witness_Compares :
    Executes 4 kit kv ∧ Named kv [1, 2] [] ∧ LanesFull kv (kv.acting 0) [1, 2] ∧ ScalarReady kit kv 7 [] [1, 2] ∧
      ScalarReady kit kv 6 [] [1, 2] :=
  ⟨kv_executes, named_of _ _ _ rfl, lanesFull_of _ _ _ rfl, kit_scalar _ _ _ rfl, kit_scalar _ _ _ rfl⟩

theorem witness_ScalarOperations :
    ScalarReady kit kv 7 [9] [1, 2] ∧ ScalarReady kit kv 7 [9] [1] ∧ ScalarReady kit kv 7 [9] [] ∧ ScalarReady kit kv 7 [1] [1] ∧
      ScalarReady kit kv 6 [0] [0] ∧
      (61 ≤ 64 ∧ (∀ k, k < 64 → 64 - 61 ≤ k → (kv.g.sval 1).getLsbD k = false) ∧ (kv.g.sval 1).getLsbD (63 - 61) = true) :=
  ⟨kit_scalar _ _ _ rfl, kit_scalar _ _ _ rfl, kit_scalar _ _ _ rfl, kit_scalar _ _ _ rfl, kit_scalar _ _ _ rfl, by decide, by
    have e : kv.g.sval 1 = 5 := rfl
    rw [e]; decide, rfl⟩

/-- A scalar of the kit with another value. -/
def kitScalar (r : Nat) (x : DWord) : Group := kitGroup.setScalar r x

/-- The kit with another group whose slot A holds the kit's split. -/
theorem with_scalar (g : Group) (guard : Nat) (ds ss : List Nat) (h : g.slotA = some kitSplit) (d : softRead 4 (kitView 4 g kitSplit) = none)
    (b : (namedB (kitView 4 g kitSplit) [] (ds ++ ss) && scalarsB (kitView 4 g kitSplit) ss) = true) :
    ScalarReady (kitWith g) (kitView 4 g kitSplit) guard ds ss :=
  scalarReady_of _ _ _ _ _ (kit_executes 4 g kitSplit h d) b

theorem witness_Branches :
    (Executes 4 kit kv ∧ kv.acting 7 = kv.sl.mask ∧ kv.acting 1 = 0 ∧ kv.sl.mask ≠ 0 ∧ kv.acting 0 ≠ kv.sl.mask ∧ kv.acting 0 ≠ 0) ∧
      (ScalarReady kit kv 7 [] [2] ∧ (kv.g.sval 2).toNat % 2 = 0 ∧ (kv.g.sval 2).toNat < 2 ^ 56) ∧
      (ScalarsFull kv [62] ∧ (kv.g.sval 62).toNat % 2 = 0 ∧ (kv.g.sval 62).toNat < 2 ^ 56) ∧
      (Named kv [] [1] ∧ ScalarsFull kv [1] ∧ (kv.g.sval 1).toNat % 2 = 1) ∧
      ∃ g, Executes 4 (kitWith g) (kitView 4 g kitSplit) ∧ Named (kitView 4 g kitSplit) [] [1] ∧ g.cpred 7 = true ∧
        ScalarsFull (kitView 4 g kitSplit) [1] ∧ (g.sval 1).toNat % 2 = 0 ∧ 2 ^ 56 ≤ (g.sval 1).toNat :=
  ⟨⟨kv_executes, rfl, rfl, by decide, by decide, by decide⟩, ⟨kit_scalar _ _ _ rfl, rfl, by decide⟩,
    ⟨scalarsFull_of _ _ rfl, rfl, by decide⟩, ⟨named_of _ _ _ rfl, scalarsFull_of _ _ rfl, rfl⟩, kitScalar 1 0x0100000000000000,
    kit_executes 4 _ _ rfl rfl, named_of _ _ _ rfl, rfl, scalarsFull_of _ _ rfl, rfl, by decide⟩

/-- A half of a split, with its record. -/
def kitHalf (mask : DWord) : Split := { kitSplit with mask := mask, link := some 0 }

/-- A group whose slot A holds one half of a split that rejoins at its own instruction; slot B and a spilled split as given. -/
def kitSplitGroup (mask : DWord) (j : DWord) (arrived : DWord) (b : Option Split) (spilled : List Split) : Group :=
  { kitGroup with slotA := some (kitHalf mask), slotB := b, spilled := spilled
                  records := [(0, { j := j, union := 0xFF, arrived := arrived, fm := 0, outer := none, entry := 0, index := 0, soft := false })] }

theorem witness_DivergeAndJoin :
    (Executes 4 kit kv ∧ kv.sl.mask &&& ~~~(kv.acting 7) = 0 ∧ kv.sl.mask &&& ~~~(kv.acting 1) ≠ 0 ∧ kv.acting 1 = 0 ∧
      kv.sl.mask &&& ~~~(kv.acting 0) ≠ 0 ∧ kv.acting 0 ≠ 0 ∧ 32 * ((0 + 1 - 2) + 0 + 0) ≤ wbStack kv.wb) ∧
      (let g := { kitGroup with slotB := some (kitHalf 0), spilled := List.replicate 32 (kitHalf 0) }
       let v := kitView 4 g kitSplit
       Executes 4 (kitWith g) v ∧ v.acting 0 ≠ 0 ∧
        ¬ 32 * ((v.g.records.length + 1 - 2) + v.g.spilled.length + if (v.g.slot (!v.slotB)).isSome then 1 else 0) ≤ wbStack v.wb) ∧
      (Named kv [] [2, 62] ∧ ScalarsFull kv [2, 62]) ∧
      (kv.sl.link = none) ∧
      (let g := kitSplitGroup 0xF0 0x20000 0 none []
       Executes 4 (kitWith g) (kitView 4 g (kitHalf 0xF0)) ∧
        ∃ r, tblGet? g.records 0 = some r ∧ r.j ≠ (kitHalf 0xF0).pc) ∧
      (let g := kitSplitGroup 0xF0 0x10000 0x0F none []
       Executes 4 (kitWith g) (kitView 4 g (kitHalf 0xF0)) ∧
        ∃ r, tblGet? g.records 0 = some r ∧ r.j = (kitHalf 0xF0).pc ∧ r.union &&& ~~~(r.arrived ||| 0xF0 ||| g.exited) = 0) ∧
      (let g := kitSplitGroup 0xF0 0x10000 0 none []
       Executes 4 (kitWith g) (kitView 4 g (kitHalf 0xF0)) ∧
        ∃ r, tblGet? g.records 0 = some r ∧ r.j = (kitHalf 0xF0).pc ∧ r.union &&& ~~~(r.arrived ||| 0xF0 ||| g.exited) ≠ 0) :=
  ⟨⟨kv_executes, rfl, by decide, rfl, by decide, by decide, by decide⟩, ⟨kit_executes 4 _ _ rfl rfl, by decide, by decide⟩,
    ⟨named_of _ _ _ rfl, scalarsFull_of _ _ rfl⟩, rfl, ⟨kit_executes 4 _ _ rfl rfl, _, rfl, by decide⟩,
    ⟨kit_executes 4 _ _ rfl rfl, _, rfl, rfl, by decide⟩, ⟨kit_executes 4 _ _ rfl rfl, _, rfl, rfl, by decide⟩⟩

/-- The waybill of the kit with other bytes from an offset on. -/
def kitWaybill (at_ : Nat) (b : List Byte) : List Byte := placedWaybill.take at_ ++ b ++ placedWaybill.drop (at_ + b.length)

/-- The kit with another waybill, without a cursor. -/
def kitLaunched (g : Group) (w : List Byte) : State :=
  { kitWith g with cur := none, launches := tblMap (fun _ l => { l with wb := w }) (kitWith g).launches }

theorem witness_HandlersAndFaults :
    (15 < 2 ^ 16 ∧ 255 < 2 ^ 8 ∧ kitGroup.splits < 2 ^ 16) ∧
      (let s := kitLaunched kitGroup (kitWaybill 0x2F [4])
       restarts kitGroup causeALIGN = false ∧ wbHandler (s.groupWb kitGroup) = true ∧ kitGroup.handler = none ∧
        s.handling (s.ctxOf kitGroup) 0 = false ∧ kitGroup.slot false = some kitSplit) ∧
      (∃ g h, g.handler = some h ∧ h.lanes &&& 0xFF ≠ 0 ∧ h.lanes &&& 0xF00 = 0 ∧ Group.frozen g true = true) :=
  ⟨⟨by decide, by decide, by decide⟩, ⟨rfl, rfl, rfl, rfl, rfl⟩,
    { kitGroup with handler := some { slotB := false, other := true, lanes := 0xFF } }, _, rfl, by decide, by decide, rfl⟩

theorem witness_HandlersAndFaults_context :
    (let s := kitLaunched kitGroup placedWaybill
     restarts kitGroup causeALIGN = false ∧ wbHandler (s.groupWb kitGroup) = false ∧ kitGroup.slot false = some kitSplit ∧
      ∃ c, s.context? (s.ctxOf kitGroup) = some c ∧ c.st = .running) ∧
      (let g := { kitGroup with handler := some { slotB := false, other := false, lanes := 0xFF } }
       restarts g causeALIGN = false ∧ g.handler ≠ none ∧ g.slot false = some kitSplit) ∧
      (let s := (kitLaunched kitGroup placedWaybill).modContext 0 fun c => { c with st := .halted }
       ∃ c, s.context? (s.ctxOf kitGroup) = some c ∧ c.st ≠ .running) ∧
      (let s := kitLaunched kitGroup (kitWaybill 0x2F [4])
       let other : Group := { kitGroup with handler := some { slotB := true, other := false, lanes := 0xFF } }
       State.handling { s with groups := s.groups ++ [(1, other)] } 0 0 = true) ∧
      ∃ g : Group, restarts g causeUCE = true :=
  ⟨⟨rfl, rfl, rfl, _, rfl, rfl⟩, ⟨rfl, by simp, rfl⟩, ⟨_, rfl, by decide⟩, by decide +kernel,
    { kitGroup with region := some { mask := 0xFF, fm := 0, restarts := 2, firstOp := 0 } }, rfl⟩

/-- The kit with another cell in lane 1 of v1. -/
def kitCell (st : CellSt) (gc : DWord) : Group :=
  { kitGroup with vregs := tblMod (fun t => tblSet t 1 { val := 0, st := st }) kitGroup.vregs 1, gc := gc }

theorem witness_SourcesNotReady :
    Executes 4 kit kv ∧ (.mov 7 4 1 0 : Instr) ∈ [.mov 7 4 1 0, .not 7 4 1 0] ∧
      (∃ s v, Executes 4 s v ∧ ¬ Named v [4, 1] []) ∧
      (let v := kitView 4 (kitCell (.empty 0) 0) kitSplit
       Executes 4 (kitWith (kitCell (.empty 0) 0)) v ∧ Named v [4, 1] [] ∧ (v.acting 7).getLsbD 1 = true ∧
        (∀ k, k < 1 → (v.acting 7).getLsbD k = true → v.g.laneEmpty 1 k = false) ∧ v.g.laneEmpty 1 1 = true ∧ v.g.fetrap = false) ∧
      (let v := kitView 4 (kitCell (.empty 0) 1) kitSplit
       Executes 4 (kitWith (kitCell (.empty 0) 1)) v ∧ v.g.laneEmpty 1 1 = true ∧ v.g.fetrap = true) ∧
      (let v := kitView 4 (kitCell (.poisoned true 64) 0) kitSplit
       Executes 4 (kitWith (kitCell (.poisoned true 64) 0)) v ∧ (∃ c, v.g.lane? 1 1 = some c ∧ c.st = .poisoned true 64) ∧
        (∀ k, k < 64 → v.g.laneEmpty 1 k = false) ∧
        ∀ k, k < 1 → (v.acting 7).getLsbD k = true → v.g.lanePoison 1 k = none) := by
  refine ⟨kv_executes, by simp, ⟨_, kitView 4 { kitGroup with crew := 9 } kitSplit, kit_executes 4 _ _ rfl rfl, ?_⟩,
    ⟨kit_executes 4 _ _ rfl rfl, named_of _ _ _ rfl, rfl, ?_, rfl, rfl⟩, ⟨kit_executes 4 _ _ rfl rfl, rfl, rfl⟩,
    ⟨kit_executes 4 _ _ rfl rfl, ⟨_, rfl, rfl⟩, by decide, ?_⟩⟩
  · intro h
    exact absurd (h.1 4 (by simp)) (by decide)
  · intro k hk
    obtain rfl : k = 0 := by omega
    decide
  · intro k hk
    obtain rfl : k = 0 := by omega
    decide

theorem witness_TrapYieldExit :
    kv.g.cpred 7 = true ∧ kv.g.cpred 6 = false ∧
    (let v := kv
     Executes 4 kit v ∧ v.acting 1 = 0 ∧ v.acting 0 ≠ 0 ∧ v.g.dzwDue = [] ∧ (performAt v 4).2 = false ∧
      ¬ fullMask v.width &&& ~~~(v.g.exited ||| v.acting 0) = 0 ∧ v.sl.mask &&& ~~~(v.acting 0) ≠ 0 ∧ v.g.lanePhase = none ∧
      (∀ c, (performAt v 4).1.crew? v.g.crew = some c → c.bars = []) ∧
      fullMask v.width &&& ~~~(v.g.exited ||| v.acting 7) = 0 ∧ v.sl.mask = v.acting 7 ∧ v.sl.link = none ∧ v.g.handler = none ∧
      v.g.failures = [] ∧ (performAt v 4).1.opsOut v.core v.gid false (fun _ => true) = false ∧
      (performAt v 4).1.opsOut v.core v.gid true (fun _ => true) = false) ∧
      (let g := { kitGroup with remoteOut := 1 }
       Executes 4 (kitWith g) (kitView 4 g kitSplit) ∧ (performAt (kitView 4 g kitSplit) 0).2 = true) ∧
      (let g := { kitGroup with dzwDue := [64, 128], gc := 2 }
       Executes 4 (kitWith g) (kitView 4 g kitSplit) ∧ g.asynctrap = true ∧ g.dzwDue = 64 :: [128]) :=
  ⟨rfl, rfl, ⟨kv_executes, rfl, by decide, rfl, rfl, by decide, by decide, rfl, by
      intro c h
      have : some c = some placedCrew := h.symm.trans rfl
      exact (Option.some.inj this) ▸ rfl, rfl, rfl, rfl, rfl, rfl, rfl, rfl⟩, ⟨kit_executes 4 _ _ rfl rfl, rfl⟩, kit_executes 4 _ _ rfl rfl, rfl, rfl⟩

theorem witness_MemoryBytes :
    memWf [(3, 1), (9, 2)] = true ∧ 3 < 4 ∧ ((7 : Nat) ≤ 7 ∧ 7 < 7 + [(1 : Byte)].length) := by decide

/-- A lane-wise condition over the 64 lanes. -/
theorem lanes_of (p : Nat → Prop) (q : Nat → Bool) (h : ∀ l, q l = true → p l) (a : (List.range 64).all q = true) (l : Nat) (k : l < 64) :
    p l := h l (List.all_eq_true.mp a l (List.mem_range.mpr k))

theorem witness_WindowLoadsAndArrivals :
    LaneReady 4 kit kv 7 [4] [2] [] ∧ LaneReady 4 kit kv 7 [4, 5] [2] [] ∧ LaneReady 4 kit kv 7 [8, 9, 10, 11] [2] [] ∧
      kv.s.crew? kv.g.crew = some placedCrew ∧ kv.acting 7 ≠ 0 ∧ kv.acting 1 = 0 ∧
      (∀ l, l < 64 → (kv.acting 7).getLsbD l = true →
        ((kv.lane 2 l).toNat + 248 * 16) % 16 = 0 ∧ (kv.lane 2 l).toNat + 248 * 16 + 16 ≤ wbScratch kv.wb) ∧
      (∀ l, l < 64 → (kv.acting 7).getLsbD l = true →
        ((kv.lane 2 l).toNat + 8 * 16) % 16 = 0 ∧ (kv.lane 2 l).toNat + 8 * 16 + 16 ≤ wbPrivate kv.wb) :=
  ⟨kit_lane _ _ _ _ rfl, kit_lane _ _ _ _ rfl, kit_lane _ _ _ _ rfl, rfl, by decide, rfl, by decide +kernel, by decide +kernel⟩

/-- The line of a private byte: in the core's L1 where it has been stored to, and not there. -/
theorem witness_WindowLoadsAndArrivals_line :
    (let s := kv.s.areaStores 0 0 (privateLow + 8) [1, 2, 3, 4]
     ((s.coreSt 0).find 0 ((privateLow + 8) / 128)).map (fun y => y.covers ((privateLow + 8) % 128) 4) = some true) ∧
      (let s := kv.s.ensureLine 0 0 (privateLow / 128) (areaLine 0 (privateLow / 128)) (areaLeaf (privateLow / 128)) false
       (kv.s.coreSt 0).find 0 (privateLow / 128) = none ∧
        (s.1.group? 0).map (fun g => g.privBase) = some kv.g.privBase ∧ kv.g.privBase.toNat % 128 = 0) ∧
      privateLow % 128 + 16 ≤ 128 ∧ (kitWith { kitGroup with privBad := [5] }).areaBad 0 privateLow 16 = true := by
  decide +kernel

theorem witness_WindowStores :
    Executes 4 kit kv ∧ Named kv [2, 4, 5, 6, 7] [] ∧ LanesFull kv (kv.acting 7) [2, 4, 5, 6, 7] ∧
      kv.s.crew? kv.g.crew = some placedCrew ∧
      (∀ l, l < 64 → (kv.acting 7).getLsbD l = true →
        ((kv.lane 2 l).toNat + 248 * 16) % 16 = 0 ∧ (kv.lane 2 l).toNat + 248 * 16 + 16 ≤ wbScratch kv.wb) ∧
      (∀ l, l < 64 → (kv.acting 7).getLsbD l = true →
        ((kv.lane 2 l).toNat + 8 * 16) % 16 = 0 ∧ (kv.lane 2 l).toNat + 8 * 16 + 16 ≤ wbPrivate kv.wb) ∧
      ([1#8, 2#8] ≠ [] ∧ (privateLow + 126) % 128 + [1#8, 2#8].length ≤ 128) :=
  ⟨kv_executes, named_of _ _ _ rfl, lanesFull_of _ _ _ rfl, rfl, by decide +kernel, by decide +kernel, by decide, by decide⟩

/-- The kit with one acting lane and an address of its own in it. -/
def kitOne (lane : Nat) (va : DWord) : Group :=
  { kitGroup with preds := [(0, (1 : DWord) <<< lane)], scalars := tblSet kitGroup.scalars 2 { val := va, st := .full } }

theorem witness_AccessTraps :
    (let addr (l : Nat) : Nat := (kv.lane 1 l).toNat + 4 * 0
     (kv.acting 7).getLsbD 1 = true ∧ ¬ (addr 1 % 4 = 0 ∧ addr 1 + 4 ≤ wbScratch kv.wb) ∧ addr 1 % 4 ≠ 0 ∧
      ∀ k, k < 1 → (kv.acting 7).getLsbD k = true → addr k % 4 = 0 ∧ addr k + 4 ≤ wbScratch kv.wb) ∧
      (let v := kitView 4 { kitGroup with vregs := [(1, kitLanes fun l => BitVec.ofNat 32 (4088 + 4 * l))] } kitSplit
       let addr (l : Nat) : Nat := (v.lane 1 l).toNat + 4 * 0
       addr 2 % 4 = 0 ∧ ¬ addr 2 + 4 ≤ wbScratch v.wb ∧ ∀ k, k < 2 → addr k % 4 = 0 ∧ addr k + 4 ≤ wbScratch v.wb) ∧
      (LaneReady 4 kit kv 7 [4] [1] [] ∧ Named kv [1, 4] [] ∧ LanesFull kv (kv.acting 7) [1, 4]) ∧
      (let f := atomForm .cas 4 1 3 4 false true
       Named kv (f.resultRegs ++ f.a :: f.valueRegs) [] ∧ LanesFull kv (kv.acting 7) (f.a :: f.valueRegs) ∧
        Served kv (kv.acting 7) f.resultRegs ∧ kv.g.dzwDue = [] ∧ (kv.lane 1 1).toNat % f.n ≠ 0) :=
  ⟨⟨rfl, by decide, by decide, by decide⟩, ⟨rfl, by decide, by decide⟩,
    ⟨kit_lane _ _ _ _ rfl, named_of _ _ _ rfl, lanesFull_of _ _ _ rfl⟩, named_of _ _ _ rfl, lanesFull_of _ _ _ rfl, rfl, rfl, by decide⟩

/-- The accesses of the kit's lane 3 at an address. -/
def kitReach (va : DWord) : List (Nat × Nat × Route) :=
  let g := kitOne 3 va
  (Fates (kitView 4 g kitSplit) 4 .load ((kitView 4 g kitSplit).acting 0) fun l => (g.sval 2).toNat + (g.lane 3 l).toNat).2

/-- A misaligned access, one past the address space, and one to a page that is not there. -/
theorem witness_AccessTraps_global :
    (let g := kitOne 3 2
     LaneReady 4 (kitWith g) (kitView 4 g kitSplit) 0 [4] [3] [2]) ∧
      firstCause (kitReach 2) = some (3, 2, causeALIGN) ∧
      firstCause (kitReach 0x0100000000000000) = some (3, 0x0100000000000000, causeADDR) ∧
      firstCause (kitReach 0x18000) = none ∧ heldAddrs (kitReach 0x18000) = [(0x18000, smallPage 0x18000)] :=
  ⟨laneReady_of _ _ _ _ _ _ _ (kit_executes 4 _ _ rfl rfl) rfl, by decide +kernel, by decide +kernel, by decide +kernel, by decide +kernel⟩

/-- How an access goes: a cause, memory, a peer, held, a private area. -/
def fateKind : Route → Nat × Nat
  | .cause c => (0, c)
  | .mem _ _ => (1, 0)
  | .remote _ _ => (2, 0)
  | .held _ => (3, 0)
  | .area _ => (4, 0)

/-- The kit where the entry of its page is another. -/
def kitPte (e : Nat) : State :=
  let s := (kitWith kitGroup).modContext 0 fun c => { c with peers := [(0, { ip := 7, tag := 0 })] }
  { s with mem := memWriteBytes s.mem (0x20000 + 8 * tableIndex placedVa 4) (leBytes e 8) }

/-- The causes of an access, one by one: the reserved page; the private range, outside an area, in one, and written; an entry that is
not valid, with and without a verdict of the host; a malformed one; reading, executing and writing denied; copy-on-write, with a
refusal of the copy; a listed peer and an unlisted one; a line in the L1. -/
theorem witness_AccessTraps_causes :
    (let at_ (e va : Nat) (need : Need) (l : List (PageRef × Bool)) : Nat × Nat := fateKind ((kitPte e).fateOf 0 0 va 4 need l).2
     [at_ 0x2802F (addressEnd - 4) .load [], at_ 0x2802F (privateEnd - 4) .load [], at_ 0x2802F privateLow .load [],
      at_ 0x2802F privateLow .store [], at_ 0x2802E 0x10000 .load [], at_ 0x2802E 0x10000 .load [(smallPage 0x10000, false)],
      at_ 0x2800F 0x10000 .load [], at_ 0x28029 0x10000 .load [], at_ 0x28027 0x10000 .exec [], at_ 0x2802B 0x10000 .store [],
      at_ 0x2803B 0x10000 .store [], at_ 0x2803B 0x10000 .store [(smallPage 0x10000, true)], at_ 0x280A7 0x10000 .load [],
      at_ 0x2000000280A7 0x10000 .load [], at_ 0x2802F 0x10000 .both []] =
      [(0, causeADDR), (0, causeADDR), (4, 0), (0, causePERM), (3, 0), (0, causeADDR), (0, causeADDR), (0, causePERM), (0, causePERM),
       (0, causePERM), (3, 0), (0, causePERM), (2, 0), (0, causeADDR), (1, 0)]) ∧
      ((kitPte 0x2802F).l1Hit 0 0 0x10000 4 .load).isNone = true ∧
      (((kitPte 0x2802F).l1Load 0 0 0x10000 4 0x28000 hintNorm 0 { pte := 0x2802F, lvl := 4 } .load).1.l1Hit 0 0 0x10000 4 .load).isSome =
        true := by
  decide +kernel

/-- What a fetch of a halfword answers: the halfword, a cause, or something else. -/
def fetchKind : Fetched → Nat × Nat
  | .half _ h => (1, h.toNat)
  | .fault _ c => (0, c)
  | _ => (2, 0)

/-- A fetch past the address space, in the reserved page, in the private range, held, refused by the host, malformed, denied, from an
unlisted peer, and at a damaged byte; and an odd halfword at the end of the page behind which nothing is mapped. -/
theorem witness_FetchStops :
    viewOf 4 kit = some kv ∧ causeADDR ≠ 0 ∧
      (let at_ (e va : Nat) (l : List (PageRef × Bool)) : Nat × Nat := fetchKind ((kitPte e).fetchHalf 0 0 0 false 0x10000 va l)
       [at_ 0x2802F addressEnd [], at_ 0x2802F privateEnd [], at_ 0x2802F privateLow [], at_ 0x2802E 0x10000 [],
        at_ 0x2802E 0x10000 [(smallPage 0x10000, false)], at_ 0x2800F 0x10000 [], at_ 0x28027 0x10000 [], at_ 0x2000000280AF 0x10000 []] =
        [(0, causeADDR), (0, causeADDR), (0, causePERM), (0, 0), (0, causeADDR), (0, causeADDR), (0, causePERM), (0, causeADDR)]) ∧
      fetchKind (State.fetchHalf { kitPte 0x2802F with bad := [0x28001] } 0 0 0 false 0x10000 0x10000 []) = (0, causeUCE) ∧
      (let s := kitPte 0x2802F
       let u := { s with mem := memWrite s.mem 0x2FFFE 1 }
       fetchKind (u.fetchHalf 0 0 0 false 0x17FFE 0x17FFE []) = (1, 1) ∧ fetchKind (u.fetchHalf 0 0 0 false 0x17FFE 0x18000 []) = (0, 0)) :=
  ⟨kv_executes.1, by decide, by decide +kernel, by decide +kernel, by decide +kernel, by decide +kernel⟩

theorem witness_WindowLoadsAndArrivals_arrival :
    (∃ g, (kitWith (kitCell (.empty 4) 0)).group? 0 = some g ∧ g.swapped = false ∧ (g.lane? 1 1).map LaneCell.st = some (.empty 4)) ∧
      ([{ reg := 1, lane := 1, val := 7, poison := 2 }, { reg := 9, lane := 64, val := 5, poison := 0 }] : List Arriving).find?
        (fun a => a.reg == 1 && a.lane == 1) = some { reg := 1, lane := 1, val := 7, poison := 2 } ∧
      ((kitGroup.emptyScalar 9 4).scalar 9).st = .empty 4 := ⟨⟨_, rfl, rfl, rfl⟩, rfl, rfl⟩

/-- The accesses of the kit's lanes to its one page. -/
def kitFates (n : Nat) (need : Need) (r : Nat) : State × List (Nat × Nat × Route) :=
  Fates kv n need (kv.acting 7) fun l => (kv.g.sval r).toNat + (kv.lane 2 l).toNat

theorem kit_permitted_load : Permitted kv (kv.acting 7) (kitFates 16 .load 2) := by
  exact ⟨rfl, rfl⟩

/-- The load of `lq` at the end of its reach. -/
def kitLq : State × Route := kv.s.fateOf kv.core kv.ctx (0x10000 + 8 * 63) 8 .load kv.sl.verdicts

theorem kit_lq :
    Permitted kv kv.sl.mask (kitLq.1, [(64, 0x10000 + 8 * 63, kitLq.2)]) ∧
      (kitLq.1.readLane kv.core kv.ctx kv.gid kitLq.1.nextTag 9 8 hintNorm false (64, 0x10000 + 8 * 63, kitLq.2)).2.length = 2 :=
  ⟨⟨rfl, rfl⟩, by decide +kernel⟩

theorem witness_GlobalLoads :
    (LaneReady 4 kit kv 7 [4] [2] [2] ∧ LaneReady 4 kit kv 7 [8, 9, 10, 11] [2] [2] ∧ Permitted kv (kv.acting 7) (kitFates 16 .load 2) ∧
      Permitted kv (kv.acting 7) (kitFates 1 .load 2) ∧ kv.acting 7 ≠ 0 ∧ kv.acting 1 = 0) ∧
      (ScalarReady kit kv 7 [9] [2] ∧ Permitted kv kv.sl.mask (kitLq.1, [(64, 0x10000 + 8 * 63, kitLq.2)])) ∧
      LaneReady 4 kit kv 7 [4] [6, 7] [0] ∧
      Permitted kv (kv.acting 7) (Fates kv 4 .load (kv.acting 7) fun l => (kv.lane 7 l).toNat * 2 ^ 32 + (kv.lane 6 l).toNat) :=
  ⟨⟨kit_lane _ _ _ _ rfl, kit_lane _ _ _ _ rfl, ⟨rfl, rfl⟩, ⟨rfl, rfl⟩, by decide, rfl⟩, ⟨kit_scalar _ _ _ rfl, kit_lq.1⟩,
    kit_lane _ _ _ _ rfl, rfl, rfl⟩

theorem witness_GlobalStores :
    Executes 4 kit kv ∧ Named kv [2, 4, 5, 6, 7] [2] ∧ LanesFull kv (kv.acting 7) [2, 4, 5, 6, 7] ∧ ScalarsFull kv [2] ∧
      Permitted kv (kv.acting 7) (kitFates 16 .store 2) :=
  ⟨kv_executes, named_of _ _ _ rfl, lanesFull_of _ _ _ rfl, scalarsFull_of _ _ rfl, rfl, rfl⟩

theorem witness_ScratchAtomics :
    (let f := atomForm .cas 4 2 3 4 false true
     Executes 4 kit kv ∧ Named kv (f.resultRegs ++ f.a :: f.valueRegs) [] ∧ LanesFull kv (kv.acting 7) (f.a :: f.valueRegs) ∧
      Served kv (kv.acting 7) f.resultRegs ∧ kv.g.dzwDue = [] ∧ kv.g.remoteOut = 0 ∧ kv.s.crew? kv.g.crew = some placedCrew ∧
      placedCrew.scratchBad = [] ∧ kv.acting 7 ≠ 0 ∧ kv.acting 1 = 0 ∧ f.result = true ∧
      ∀ l, l < 64 → (kv.acting 7).getLsbD l = true → (kv.lane 2 l).toNat % f.n = 0 ∧ (kv.lane 2 l).toNat + f.n ≤ wbScratch kv.wb) ∧
      (atomForm .add 4 2 0 0 true false).result = false :=
  ⟨⟨kv_executes, named_of _ _ _ rfl, lanesFull_of _ _ _ rfl, rfl, rfl, rfl, rfl, rfl, by decide, rfl, rfl, by decide +kernel⟩, rfl⟩

/-- The accesses of a global atomic of the kit, and what its order awaits. -/
def kitAtomic (f : AtomForm) : State × List (Nat × Nat × Route) :=
  let c := Fates kv f.n f.op.need (kv.acting 7) fun l => (kv.lane (f.a + 1) l).toNat * 2 ^ 32 + (kv.lane f.a l).toNat
  c

theorem witness_GlobalAtomics :
    (let f := atomForm .cas 4 6 3 4 false true
     Executes 4 kit kv ∧ Named kv (f.resultRegs ++ ([f.a, f.a + 1] ++ f.valueRegs)) [] ∧
      LanesFull kv (kv.acting 7) ([f.a, f.a + 1] ++ f.valueRegs) ∧ Served kv (kv.acting 7) f.resultRegs ∧ kv.g.dzwDue = [] ∧
      Permitted kv (kv.acting 7) (kitAtomic f) ∧ (orderWait kv (kitAtomic f).1 f.ord f.scope (localLines (kitAtomic f).2) [] false).2 = false ∧
      kv.acting 7 ≠ 0 ∧ f.result = true) ∧
      (let f := atomForm .fadd 4 6 0 3 true false
       Permitted kv (kv.acting 7) (kitAtomic f) ∧ f.result = false ∧
        (orderWait kv (kitAtomic f).1 f.ord f.scope (localLines (kitAtomic f).2) [] false).2 = false) :=
  ⟨⟨kv_executes, named_of _ _ _ rfl, lanesFull_of _ _ _ rfl, rfl, rfl, ⟨rfl, rfl⟩, rfl, by decide, rfl⟩, ⟨rfl, rfl⟩, rfl, rfl⟩

/-- A group of the kit with a length in s1. -/
def kitRange (len : DWord) : Group := kitScalar 1 len

theorem witness_Fences :
    (ScalarReady kit kv 7 [] [2, 1] ∧ kv.g.dzwDue = [] ∧ kv.g.sval 1 ≠ 0 ∧ (kv.g.sval 2).toNat + (kv.g.sval 1).toNat ≤ 2 ^ 56 ∧
      (2#2).toNat % 2 = 0 ∧ (3#2).toNat % 2 = 1 ∧ (kv.s.drain kv.core kv.ctx true 0 lineEnd).invalsPending kv.core 4 = false ∧
      kv.g.remoteOut = 0 ∧ kv.s.deltasIn kv.ctx (kv.s.scopeCores kv.core 4) 0 lineEnd = []) ∧
      (let g := kitRange 0x0100000000000000
       ScalarReady (kitWith g) (kitView 4 g kitSplit) 7 [] [2, 1] ∧ 2 ^ 56 < (g.sval 2).toNat + (g.sval 1).toNat) ∧
      (let g := { kitGroup with remoteOut := 1 }
       ScalarReady (kitWith g) (kitView 4 g kitSplit) 7 [] [2, 1] ∧ g.remoteOut ≠ 0 ∧ ordReleases (2#2).toNat = true) ∧
      (let s := (kitWith kitGroup).setDelta 0 (Delta.new 0 1280 512)
       s.deltasIn 0 (s.scopeCores 0 4) 0 lineEnd ≠ []) :=
  ⟨⟨kit_scalar _ _ _ rfl, rfl, by decide, by decide, rfl, rfl, rfl, rfl, rfl⟩,
    ⟨with_scalar _ _ _ _ rfl rfl rfl, by decide⟩, ⟨with_scalar _ _ _ _ rfl rfl rfl, by decide, rfl⟩, by decide +kernel⟩

/-- A watch of the kit. -/
def kitWatch (fired lost : Bool) : Watch :=
  { vline := 512, pline := 1280, remote := false, parks := false, fired := fired, lost := lost, bytes := [] }

theorem witness_Monitors :
    (ScalarReady kit kv 7 [] [2] ∧ ∃ l pa, (kv.s.fateOf kv.core kv.ctx (kv.g.sval 2).toNat 1 .load kv.sl.verdicts).2 = .mem l pa) ∧
      (ScalarReady kit kv 7 [9] [4] ∧ kv.g.watch = none) ∧
      ∀ w ∈ [kitWatch false true, kitWatch true false, kitWatch false false],
        let g := { kitGroup with watch := some w }
        ScalarReady (kitWith g) (kitView 4 g kitSplit) 7 [9] [4] ∧ (kitView 4 g kitSplit).g.watch = some w ∧ w.remote = false := by
  refine ⟨⟨kit_scalar _ _ _ rfl, _, _, rfl⟩, ⟨kit_scalar _ _ _ rfl, rfl⟩, ?_⟩
  intro w hw
  simp only [List.mem_cons, List.not_mem_nil, or_false] at hw
  rcases hw with rfl | rfl | rfl <;> exact ⟨with_scalar _ _ _ _ rfl rfl rfl, rfl, rfl⟩

/-- An engine operation of the kit's group. -/
def kitOp (matrix : Bool) (batch : Nat) : EngOp := { kv.newOp matrix 0 0 3 [] 0 0 with batch := batch }

/-- The kit with operations in its engine queues and a group. -/
def kitQueues (g : Group) (copy mat : List EngOp) : State := (kitWith g).modCore 0 fun c => { c with copyQ := copy, matQ := mat }

theorem witness_EngineIssueAndBatches :
    (ScalarReady kit kv 7 [9] [] ∧ ScalarReady kit kv 7 [] [4] ∧ kv.g.dzwDue = []) ∧
      (let s := kitQueues { kitGroup with bnc := 2 } [kitOp false 1] []
       s.opsOut 0 0 false (fun o => decide (o.batch ≤ 1)) = true ∧ s.opsOut 0 0 false (fun o => decide (o.batch ≤ 0)) = false) ∧
      kv.g.asynctrap = false ∧
      (let f : Failure := { matrix := true, num := 0, batch := 0, code := 5, addr := 0 }
       let g := { kitGroup with failures := [f], gc := 2 }
       g.asynctrap = true ∧ earliest (g.failures.filter fun x => x.matrix == true && decide (x.batch ≤ 0)) = some f) :=
  ⟨⟨kit_scalar _ _ _ rfl, kit_scalar _ _ _ rfl, rfl⟩, ⟨rfl, rfl⟩, rfl, rfl, rfl⟩

theorem witness_BarriersAndTollgates :
    (ScalarReady kit kv 7 [] [4] ∧ kv.s.crew? kv.g.crew = some placedCrew ∧
      (BarPhase.new.reach 0 kv.sl.mask kv.g.present (some 1)).1.complete placedCrew.live.length = true ∧
      kv.g.allSplits.all (fun x => !Wait.isBar 6 x.wait) = true ∧ kv.g.spilled = [] ∧
      (let c : Crew := { placedCrew with groups := [0, 1] }
       (BarPhase.new.reach 0 kv.sl.mask kv.g.present (some 2)).1.complete c.live.length = false)) ∧
      (ScalarReady kit kv 7 [] [2] ∧ kv.g.lanePhase = none ∧
        (kv.g.sval 0 &&& fullMask kv.width) &&& (fullMask kv.width &&& ~~~kv.g.exited) = 0 ∧
        (kv.g.sval 1 &&& fullMask kv.width) &&& ~~~(kv.sl.mask ||| kv.g.exited) = 0) ∧
      (let g := { kitScalar 1 0x81 with slotA := some (kitHalf 0x0F) }
       let v := kitView 4 g (kitHalf 0x0F)
       let m := v.g.sval 1 &&& fullMask v.width
       ScalarReady (kitWith g) v 7 [] [1] ∧ v.g.lanePhase = none ∧ m &&& ~~~(v.sl.mask ||| v.g.exited) ≠ 0 ∧ v.sl.mask &&& m ≠ 0 ∧
        m &&& (fullMask v.width &&& ~~~v.g.exited) ≠ 0) ∧
      (let g := { kitScalar 1 0x80 with slotA := some (kitHalf 0x0F) }
       let v := kitView 4 g (kitHalf 0x0F)
       let m := v.g.sval 1 &&& fullMask v.width
       v.g.lanePhase = none ∧ m &&& (fullMask v.width &&& ~~~v.g.exited) ≠ 0 ∧ v.sl.mask &&& m = 0) ∧
      (let p : LanePhase := { members := 0xC1, arrived := 0x80 }
       p.members &&& ~~~(p.arrived ||| (kv.sl.mask &&& p.members) ||| kv.g.exited) = 0 ∧
        p.members &&& ~~~(p.arrived ||| ((kitHalf 0x0F).mask &&& p.members) ||| kv.g.exited) ≠ 0 ∧
        (kitHalf 0x0F).mask &&& p.members ≠ 0) :=
  ⟨⟨kit_scalar _ _ _ rfl, rfl, rfl, rfl, rfl, rfl⟩, ⟨kit_scalar _ _ _ rfl, rfl, by decide, by decide⟩,
    ⟨scalarReady_of _ _ _ _ _ (kit_executes 4 _ _ rfl rfl) rfl, rfl, by decide, by decide, by decide⟩,
    ⟨rfl, by decide, by decide⟩, by decide, by decide, by decide⟩

/-- The kit with a tollgate tree for its launch. -/
def kitTree (g : Group) (arrived : List Nat) : State :=
  { kitWith g with trees := [(0, { launch := launchKey 0 1, counters := [(0, (1, 1))], arrived := arrived })]
                   launches := tblMap (fun _ l => { l with tree := some 0 }) (kitWith g).launches }

theorem witness_BarriersAndTollgates_tgate :
    (Executes 4 kit kv ∧ kv.g.cpred 7 = true ∧ kv.s.treeOf kv.g = none) ∧
      ∃ t, (kitTree kitGroup []).treeOf kitGroup = some (0, t) ∧ 0 ∉ t.arrived ∧ (performAt kv 3).2 = false :=
  ⟨⟨kv_executes, rfl, rfl⟩, _, rfl, by decide, rfl⟩

/-- The kit's crew with a queue of two words. -/
def kitQueue (occ : Nat) : Crew :=
  { placedCrew with queues := [(15, { base := 4088, depth := 2, head := 1, occ := occ, pushers := [], poppers := [] })] }

theorem witness_QueueOperations :
    (kv.s.crew? kv.g.crew = some placedCrew ∧ kv.g.remoteOut = 0 ∧ ScalarReady kit kv 7 [] [1] ∧ tblGet? placedCrew.queues 15 = none) ∧
      (let v := kitView 4 (kitScalar 1 3840) kitSplit
       ScalarReady (kitWith (kitScalar 1 3840)) v 7 [] [1] ∧ (v.g.sval 1).toNat % 4 = 0 ∧ (v.g.sval 1).toNat + 4 * 64 ≤ wbScratch v.wb) ∧
      (ScalarReady kit kv 7 [9] [] ∧ (kitQueue 1).scratchBad = []) ∧
      ∀ occ, occ ≤ 2 → ∃ x, tblGet? (kitQueue occ).queues 15 = some x ∧ x.pushers = [] ∧ x.poppers = [] ∧ x.occ = occ ∧ x.depth = 2 :=
  ⟨⟨rfl, rfl, kit_scalar _ _ _ rfl, rfl⟩, ⟨with_scalar _ _ _ _ rfl rfl rfl, by decide, by decide⟩, ⟨kit_scalar _ _ _ rfl, rfl⟩,
    fun _ _ => ⟨_, rfl, rfl, rfl, rfl, rfl⟩⟩

theorem witness_SpecialRegisters :
    (ScalarReady kit kv 7 [9] [] ∧ kv.s.loadsOut kv.gid kv.g = false ∧ kv.g.cpred 7 = true ∧
      kv.s.loadsOut kv.gid { kitGroup with arriving := [(0, [])] } = true) ∧
      (ScalarReady kit kv 7 [] [1] ∧ (kv.g.sval 1).toNat < 8 ∧ (kv.g.sval 1).getLsbD 2 = true ∧ wbDebug kv.wb = false) ∧
      (ScalarReady kit kv 7 [] [5] ∧ (kv.g.sval 5).toNat < 8 ∧ (kv.g.sval 5).getLsbD 2 = false ∧ (kv.g.sval 5).toNat < 2 ^ 23 ∧
        (kv.g.sval 5).getLsbD 13 = false) ∧
      (∀ x ∈ [(8 : DWord), 0x2000, 0x800000],
        ScalarReady (kitWith (kitScalar 1 x)) (kitView 4 (kitScalar 1 x) kitSplit) 7 [] [1] ∧ 8 ≤ ((kitScalar 1 x).sval 1).toNat) ∧
      ((kitScalar 1 0x2000).sval 1).getLsbD 13 = true ∧ 2 ^ 23 ≤ ((kitScalar 1 0x800000).sval 1).toNat := by
  refine ⟨⟨kit_scalar _ _ _ rfl, rfl, rfl, rfl⟩, ⟨kit_scalar _ _ _ rfl, by decide, rfl, rfl⟩,
    ⟨kit_scalar _ _ _ rfl, by decide, rfl, by decide, rfl⟩, ?_, rfl, by decide⟩
  intro x hx
  simp only [List.mem_cons, List.not_mem_nil, or_false] at hx
  rcases hx with rfl | rfl | rfl <;> exact ⟨with_scalar _ _ _ _ rfl rfl rfl, by decide⟩

/-- The kit under another waybill. -/
def kitUnder (w : List Byte) (g : Group) : State :=
  { kitWith g with launches := tblMap (fun _ l => { l with wb := w }) (kitWith g).launches }

theorem witness_SystemFunctions :
    (Executes 4 kit kv ∧ Named kv [] [9] ∧ Named kv [1] [] ∧ kv.g.slot (!kv.slotB) = none ∧ kv.g.records = [] ∧ kv.g.spilled = []) ∧
      (let g := { kitGroup with slotB := some (kitHalf 0) }
       Executes 4 (kitWith g) (kitView 4 g kitSplit) ∧ g.slot true ≠ none) ∧
      (kv.s.crew? kv.g.crew = some placedCrew ∧ LaneReady 4 kit kv 7 [4] [] []) ∧
      (let s := kitUnder (kitWaybill 0x2F [2]) kitGroup
       let v := { kv with s := { s with cur := none } }
       Executes 4 s v ∧ wbDebug v.wb = true) ∧
      (wbDebug kv.wb = false ∧ kv.g.gc.getLsbD 2 = false ∧ Named kv [] [9, 2]) ∧
      (let g := { kitGroup with gc := 4 }
       Executes 4 (kitWith g) (kitView 4 g kitSplit) ∧ g.gc.getLsbD 2 = true ∧ ScalarsFull (kitView 4 g kitSplit) [2]) ∧
      (ScalarReady kit kv 7 [] [2] ∧ ∃ l pa, (kv.s.fateOf kv.core kv.ctx (kv.g.sval 2).toNat 1 .load []).2 = .mem l pa ∧
        ((kv.s.fateOf kv.core kv.ctx (kv.g.sval 2).toNat 1 .load []).1.regionOf kv.ctx (kv.g.sval 2).toNat l).1 ≠ regionWeir) ∧
      ∃ p, (kv.s.fateOf kv.core kv.ctx (kv.g.sval 1).toNat 1 .load []).2 = .held p :=
  ⟨⟨kv_executes, named_of _ _ _ rfl, named_of _ _ _ rfl, rfl, rfl, rfl⟩, ⟨kit_executes 4 _ _ rfl rfl, by simp [Group.slot]⟩,
    ⟨rfl, kit_lane _ _ _ _ rfl⟩, ⟨⟨rfl, rfl⟩, rfl⟩, ⟨rfl, rfl, named_of _ _ _ rfl⟩,
    ⟨kit_executes 4 _ _ rfl rfl, rfl, scalarsFull_of _ _ rfl⟩, ⟨kit_scalar _ _ _ rfl, _, _, rfl, by decide⟩, _, rfl⟩

/-- The template of a launch that the kit's page holds, read piece by piece. -/
def kitTemplate : State × List (Nat × Nat × Route) :=
  templateFates kv.core kv.ctx kv.sl.verdicts kv.s (templateSpans 0x10000)

theorem witness_LaunchAndEvents :
    (ScalarReady kit kv 7 [9] [1, 2] ∧ (kv.g.sval 1).toNat % 8 ≠ 0) ∧
      (let x : DWord := 0x00FFFFFFFFFFFF88
       ScalarReady (kitWith (kitScalar 1 x)) (kitView 4 (kitScalar 1 x) kitSplit) 7 [9] [1] ∧ x.toNat % 8 = 0 ∧
        2 ^ 56 < x.toNat + 128) ∧
      (ScalarReady kit kv 7 [9] [2, 5] ∧ (kv.g.sval 2).toNat % 8 = 0 ∧ (kv.g.sval 2).toNat + 128 ≤ 2 ^ 56 ∧
        accessStop kv.sl.mask kitTemplate.2 = none ∧ (performAt { kv with s := kitTemplate.1 } 3).2 = false ∧
        ((performAt { kv with s := kitTemplate.1 } 3).1.context? kv.ctx).map Context.st = some .running ∧
        (kitTemplate.1.openBatch kv.ctx (kv.g.sval 2)).isNone = true) ∧
      (ScalarReady kit kv 7 [] [2] ∧ (performAt kv 4).2 = false ∧
        ∃ x, (performAt kv 4).1.context? kv.ctx = some x ∧ x.unacked.length < 256) ∧
      (let r : EventRec := { seq := 0, bytes := [], msgSeq := 0, sentAt := 0 }
       (((kitWith kitGroup).modContext 0 fun c => { c with unacked := List.replicate 256 r }).context? 0).map
        (fun x => decide (256 ≤ x.unacked.length)) = some true) :=
  ⟨⟨kit_scalar _ _ _ rfl, by decide⟩, ⟨with_scalar _ _ _ _ rfl rfl rfl, by decide, by decide⟩,
    ⟨kit_scalar _ _ _ rfl, by decide, by decide, by decide +kernel, by decide +kernel, by decide +kernel, by decide +kernel⟩,
    ⟨kit_scalar _ _ _ rfl, rfl, _, rfl, by decide⟩, by decide +kernel⟩

theorem kit_template : ∀ x ∈ kitTemplate.2, ∃ l pa, x.2.2 = .mem l pa := by
  intro x hx
  have h : (kitTemplate.2.all fun x => match x.2.2 with | .mem _ _ => true | _ => false) = true := rfl
  have := List.all_eq_true.mp h x hx
  split at this
  · exact ⟨_, _, by assumption⟩
  · exact absurd this (by decide)

/-- A group whose s8 to s11 name two scratch operands, with a `%fm` and an arrival word. -/
def kitEngine (word : DWord) : Group :=
  { kitGroup with scalars := [(8, { val := 0, st := .full }), (9, { val := 0x8000000000000000, st := .full }),
      (10, { val := 0, st := .full }), (11, { val := word, st := .full })] }

theorem witness_EngineIssueAndBatches_copy :
    (∀ w ∈ [(0 : DWord), 0x0000000800000000, 0x0000100000000000, 0x00000FF000000000],
      ScalarReady (kitWith (kitEngine w)) (kitView 4 (kitEngine w) kitSplit) 7 [] [8, 9, 10, 11]) ∧
      ((kitEngine 0x0000000800000000).sval 11).toNat / 2 ^ 32 % 16 ≠ 0 ∧
      (let w := ((kitEngine 0x0000100000000000).sval 11).toNat / 2 ^ 32
       w % 16 = 0 ∧ w ≠ 0 ∧ wbScratch kv.wb < w + 16) ∧
      (let w := ((kitEngine 0x00000FF000000000).sval 11).toNat / 2 ^ 32
       w % 16 = 0 ∧ w + 16 ≤ wbScratch kv.wb) ∧
      ((kitEngine 0).sval 11).toNat / 2 ^ 32 = 0 ∧ (kv.s.coreSt kv.core).copyQ.length < 64 ∧
      64 ≤ ((kitQueues kitGroup (List.replicate 64 (kitOp false 1)) []).coreSt 0).copyQ.length := by
  refine ⟨?_, by decide, by decide, by decide, by decide, by decide, by decide⟩
  intro w hw
  simp only [List.mem_cons, List.not_mem_nil, or_false] at hw
  rcases hw with rfl | rfl | rfl | rfl <;> exact with_scalar _ _ _ _ rfl rfl rfl

/-- Whether the kit's engine may issue an operation: the checks of the fields and of the descriptors. -/
def kitMatrix (code rep : Nat) (fm : Word) : Bool × Option (Nat × Nat × Nat) :=
  let g := kitEngine 0x8000000000000000
  let descs := [descOf (g.sval 8) (g.sval 9), descOf (g.sval 10) (g.sval 11)]
  (matrixLegal code rep fm (wbTiles kv.wb) 0 (g.sval 10),
   descStop (wbScratch kv.wb) (octetsOf kv.width kv.sl.mask) (descs.zip (needsOf code rep fm)))

theorem witness_EngineIssueAndBatches_matrix :
    (let g := kitEngine 0x8000000000000000
     Executes 4 (kitWith g) (kitView 4 g kitSplit) ∧ Named (kitView 4 g kitSplit) [] [8, 9, 10, 11] ∧
      ScalarsFull (kitView 4 g kitSplit) [8, 9, 10, 11] ∧ g.damage = [] ∧ g.cpred 7 = true) ∧
      (∀ x ∈ [(0, 0), (1, 0), (2, 0), (5, 0), (6, 0), (7, 0), (8, 0), (9, 0)], kitMatrix x.1 x.2 0 = (true, none)) ∧
      (∀ x ∈ [(3, 0), (4, 0)], kitMatrix x.1 x.2 0x70 = (true, none)) ∧
      (kitMatrix 0 0 0xF).1 = false ∧
      (kv.s.coreSt kv.core).matQ.length + (octetsOf kv.width kv.sl.mask).length ≤ 64 ∧
      64 < ((kitQueues kitGroup [] (List.replicate 64 (kitOp true 1))).coreSt 0).matQ.length + (octetsOf kv.width kv.sl.mask).length :=
  ⟨⟨kit_executes 4 _ _ rfl rfl, named_of _ _ _ rfl, scalarsFull_of _ _ rfl, rfl, rfl⟩, by decide, by decide, by decide, by decide,
    by decide⟩

/-- A plain copy of 128 bytes inside scratch, taken up. -/
def kitCopy : EngOp := { kv.newOp false 0 0 3 [0x800, 0, 0, 128] 0 0 with begun := true }

/-- How an access of a unit or of the dispatcher ends: 0 done, 1 failed, 2 held, 3 not yet. -/
def gotEnd {α : Type} : Got α → Nat
  | .ok _ _ => 0
  | .fail _ _ _ => 1
  | .held _ _ _ => 2
  | _ => 3

/-- How the next step of a command ends: that of its reads, and, where they are done, that of its writes, with the remote ones of it. -/
def stepEnds (s : State) (op : EngOp) : Nat × Nat × Nat :=
  let n := op.stepEnd op.counted - op.counted
  let cuts := (List.range ((n + op.unitBytes - 1) / op.unitBytes)).map fun i =>
    (op.counted + op.unitBytes * i, min (op.stepEnd op.counted) (op.counted + op.unitBytes * (i + 1)))
  match readAll 0 op false s (cuts.map fun c => op.unitReads c.1 c.2).flatten with
  | .ok s1 got =>
    match engineWrites 0 op false s1 (op.unitsWrites cuts got) with
    | .ok _ k => (0, 0, k)
    | w => (0, gotEnd w, 0)
  | r => (gotEnd r, 9, 0)

/-- A plain copy of 128 bytes in a direction, with its two bases, taken up. -/
def kitCopyOp (mode : Nat) (dst src : DWord) : EngOp := { kv.newOp false 0 0 mode [dst, src, 0, 128] 0 0 with begun := true }

/-- The turns of a copy: units that are done, held, denied and sent to a peer; a command that is over and one that is not; the start of
commands that pass, fail and are held. -/
theorem witness_CopyTurns :
    (let s := kitQueues kitGroup [kitCopy] []
     CopyTurn s 0 kitCopy ∧ kitCopy.Running ∧ kitCopy.code = 0 ∧ kitCopy.mode = 3 ∧ kitCopy.record = [] ∧ kitCopy.word = 0 ∧
      s.group? kitCopy.group = some kitGroup ∧ s.crew? kitGroup.crew = some placedCrew ∧ placedCrew.scratchBad = [] ∧
      CopyTurn s 0 { kitCopy with lost := none } ∧ kitCopy.stepEnd 0 = kitCopy.bytes) ∧
      (let ends (e mode : Nat) (dst src : DWord) : Nat × Nat × Nat := stepEnds (kitPte e) (kitCopyOp mode dst src)
       [ends 0x2802F 3 0x800 0, ends 0x2802F 0 0x800 0x10000, ends 0x2802E 0 0x800 0x10000, ends 0x2802D 0 0x800 0x10000,
        ends 0x2802F 1 0x10000 0, ends 0x2802E 1 0x10000 0, ends 0x2802B 1 0x10000 0, ends 0x280A7 1 0x10000 0] =
        [(0, 0, 0), (0, 0, 0), (2, 9, 0), (1, 9, 0), (0, 0, 0), (0, 2, 0), (0, 1, 0), (0, 0, 1)]) ∧
      (({ kitCopy with counted := 128 } : EngOp).over = true ∧
        ({ kitCopy with regs := [0x800, 0, 0, 256], counted := 128 } : EngOp).over = false) ∧
      ([kitCopyOp 3 0x800 0, kitCopyOp 3 0xFF0 0, { kitCopyOp 3 0x800 0 with code := 1, regs := [0x800, 0, 0x18000, 128] }].map
        (fun op => gotEnd (beginCopy 0 (kitPte 0x2802F) op)) = [0, 1, 2]) ∧
      (∃ op : EngOp, op.lost = some (true, 5) ∧ CopyTurn (kitQueues kitGroup [op] []) 0 op) ∧
      (∃ op : EngOp, op.lost = none ∧ op.bytes = 0 ∧ CopyTurn (kitQueues kitGroup [op] []) 0 op) :=
  ⟨⟨rfl, ⟨rfl, by decide, rfl, rfl, rfl⟩, rfl, rfl, rfl, rfl, rfl, rfl, rfl, rfl, by decide⟩, by decide +kernel, by decide +kernel,
    by decide +kernel, ⟨{ kitCopy with lost := some (true, 5) }, rfl, rfl⟩, { kitCopy with regs := [0x800, 0, 0, 0] }, rfl, by decide, rfl⟩

/-- What an engine reads and writes: scratch bytes intact and damaged; global bytes on each kind of page, intact and damaged, and one that
the core's own L1 holds dirty. -/
theorem witness_CopyTurns_access :
    ((kitPte 0x2802F).crew? ((kitPte 0x2802F).opCrew kitCopy) = some placedCrew ∧
      ({ placedCrew with scratchBad := [5] } : Crew).scratchBad.contains (swizzle 1 5) = true) ∧
      (let at_ (s : State) (x : Bool) (va : Nat) : Nat := gotEnd (s.enginePiece 0 kitCopy x va 16)
       [at_ (kitPte 0x2802F) false 0x10000, at_ { kitPte 0x2802F with bad := [0x28003] } false 0x10000, at_ (kitPte 0x2802E) true 0x10000,
        at_ (kitPte 0x2802D) false 0x10000, at_ (kitPte 0x280A7) true 0x10000, at_ (kitPte 0x280A7) false 0x10000] = [0, 1, 2, 1, 1, 3]) ∧
      ({ kitCopy with cache := [(0x10000, [1, 2])] } : EngOp).kept 0x10000 2 = some [1, 2] ∧
      (let s := (kitPte 0x2802F).l1Store 0 0 0x10000 0x28000 hintNorm 0 { pte := 0x2802F, lvl := 4 } [7] tagNone
       ∃ y b, (s.coreSt 0).l1.find? (fun y => y.pline == 0x28000 / 128) = some y ∧ tblGet? y.bytes 0 = some b ∧ b.dirty = true) ∧
      (tblGet? (kitPte 0x2802F).replicas (replicaKey 1280 0) = none) ∧
      (let op : EngOp := { kitCopy with regs := [0x800, 0, 0, 0x10000000080] }
       op.word = 256 ∧ (kitPte 0x2802F).opCrew op = kitGroup.crew ∧ (kitPte 0x2802F).group? op.group = some kitGroup) ∧
      (0 < codeLENGTH ∧ codeLENGTH < 16 ∧ 0 < codeUCE ∧ codeUCE < 16 ∧ codeUCE ≠ codeLENGTH) ∧
      (List.replicate 16 (1 : Byte)).length = 16 ∧ fieldAt (List.replicate 16 (1 : Byte)) 0 4 ≠ 0 ∧
      fieldAt (List.replicate 16 (0 : Byte)) 0 4 = 0 :=
  ⟨⟨rfl, by decide⟩, by decide +kernel, by decide, ⟨_, _, rfl, rfl, rfl⟩, rfl, ⟨by decide, rfl, rfl⟩, by decide, rfl, by decide, by decide⟩

/-- A command of a transform with n and a record: rank, element size, modes, index width, block length, format, two extents, source
strides, destination stride, table. -/
def kitTransform (code n : Nat) (r : List Nat) : EngOp :=
  let f (i : Nat) : Nat := r.getD i 0
  { kv.newOp false 0 code 3 [0x800, 0, 0x10000, BitVec.ofNat 64 n] 0 0 with
    begun := true
    record := leBytes (f 0) 1 ++ leBytes (f 1) 1 ++ leBytes (f 2) 1 ++ leBytes (f 3) 1 ++ leBytes (f 4) 2 ++ leBytes (f 5) 1 ++ [0] ++
      leBytes (f 6) 4 ++ leBytes (f 7) 4 ++ leBytes 0 8 ++ leBytes (f 8) 4 ++ leBytes (f 9) 4 ++ leBytes 0 8 ++ leBytes (f 10) 4 ++
      leBytes (f 11) 4 ++ leBytes 0 8 ++ leBytes (f 12) 8 ++ leBytes 0 8 }

/-- A unit of each transform whose record is in order. -/
theorem witness_Transforms :
    ([kitTransform 0 200 [], kitTransform 1 32 [2, 4, 0, 0, 0, 0, 4, 2, 4, 64, 4, 32], kitTransform 2 128 [0, 0, 1],
      kitTransform 3 100 [0, 0, 0, 3, 32, 0, 0, 0, 0, 0, 0, 0, 0x11000], kitTransform 4 36 [], kitTransform 5 128 [0, 0, 0, 0, 0, 0],
      kitTransform 6 4 [0, 0, 0, 0, 0, 0, 29], kitTransform 7 64 [0, 0, 0, 0, 0, 0, 16],
      kitTransform 10 32 [0, 0, 0, 0, 0, 0, 16, 2, 64, 0, 32, 0, 0x11000], kitTransform 11 200 []].all
        (fun op => !op.badRecord && decide (0 < min op.total op.unitBytes))) = true ∧
      (List.replicate 32 (unpack fp32 0x3F800000)).length = 32 ∧ (unpack fp32 0x7FC00000).special = true ∧
      (∀ x ∈ List.replicate 32 (unpack fp32 0x3F800000), x.special = false) ∧
      maxLog2 (List.replicate 32 (unpack fp32 0x3F800000)) = some 0 ∧
      (List.replicate 256 (9 : Byte)).length = 256 ∧ (List.replicate 256 (9 : Byte)).any (fun x => x != 0) = true := by
  decide +kernel

/-- The turns of the sheaf transforms: blocks that fit and that leave the space, the store to `tab`; a decoded block, a short one and a
damaged one, at the end of a step and inside one. -/
theorem witness_Transforms_sheaf :
    (let op := kitTransform 8 256 [0, 0, 0, 0, 0, 0, 0, 0, 0, 0, 0, 0, 0x10100]
     let s := kitPte 0x2802F
     CopyTurn (kitQueues kitGroup [op] []) 0 op ∧ op.code = 8 ∧ op.lost = none ∧ op.bytes ≠ 0 ∧ op.owed = 0 ∧ op.begun = true ∧
      op.over = false ∧ op.counted < op.bytes ∧ ({ op with counted := 256 } : EngOp).over = false ∧
      gotEnd (readAll 0 op false s [op.rd 0 256]) = 0 ∧ s.outside op op.dstGlobal op.dstBase 4 = false ∧
      s.outside op op.dstGlobal op.dstBase 260 = false ∧
      ({ op with regs := [0xFF0, 0, 0x10000, 256] } : EngOp).dstBase = 0xFF0 ∧ s.outside op false 0xFF0 260 = true ∧
      gotEnd (engineWrites 0 op false s [{ global := true, mode := 0, addr := op.tab, bytes := leBytes 4 8 }]) = 0) ∧
      (let op (n : Nat) : EngOp := kitTransform 9 n [0, 0, 0, 0, 0, 0, 256]
       let s (b : List Byte) : State := (kitPte 0x2802F).setCrew 0 { placedCrew with scratch := memWriteBytes [] 0 b }
       (op 4).code = 9 ∧ gotEnd (decodeBlocks 0 2 (s [1, 0, 4, 0]) (op 4) []) = 0 ∧ gotEnd (decodeBlocks 0 2 (s [1, 0, 4, 0]) (op 3) []) = 1 ∧
        gotEnd (decodeBlocks 0 2 (s [9, 0, 4, 0]) (op 4) []) = 1 ∧ sheafDecode [9, 0, 4, 0] = none ∧
        (sheafDecode (sheafEncode 0 (List.replicate 256 0))).isSome = true ∧
        gotEnd ((s [1, 0, 4, 0]).engineRead 0 (op 8) false ((op 8).rd 0 4)) = 0 ∧ fieldAt [1, 0, 4, 0] 2 2 = 4 ∧
        ¬ ((op 8).bytes ≤ 0 + 4 ∨ ((0 + 4) % 16 = 0 ∧ (op 8).dstBase % 16 = 0))) := by
  refine ⟨⟨rfl, rfl, rfl, by decide, rfl, rfl, by decide +kernel, by decide, by decide +kernel, by decide +kernel, by decide +kernel,
    by decide +kernel, by decide, by decide +kernel, by decide +kernel⟩, rfl, by decide +kernel, by decide +kernel, by decide +kernel,
    by decide +kernel, by decide +kernel, by decide +kernel, by decide, by decide⟩

/-- A matrix operation of the kit's group: s8 to s11 name scratch operands at 0 and 0x400, rows 128 bytes apart. -/
def kitMat (code fm : Nat) : EngOp :=
  { kv.newOp true 0 code 0 [0, 0x8000000000000080, 0x400, 0x8000000000000080] 0 0 with fm := BitVec.ofNat 32 fm }

theorem witness_MatrixTurns :
    (∀ code ∈ [0, 1, 2, 6, 7, 8, 9], gotEnd (matrixUnit 0 (kitPte 0x2802F) (kitMat code 0) kitGroup) = 0) ∧
      (∀ code ∈ [3, 4], gotEnd (matrixUnit 0 (kitPte 0x2802F) (kitMat code 0x70) kitGroup) = 0) ∧
      (let y (x : Word) : Word := (f32Mul 0 false x 0x3F800000).1
       y 0xFF800000 = 0xFF800000 ∧ y 0 ≠ 0xFF800000) ∧
      (let op := kitMat 6 0
       let s := kitQueues kitGroup [] [op]
       MatrixTurn s 0 op ∧ s.group? op.group = some kitGroup ∧ op.unitCount = 16 ∧
        ({ op with units := 15 } : EngOp).unitCount ≤ 15 + 1 ∧ op.units + 1 < op.unitCount) := by
  refine ⟨by decide +kernel, by decide +kernel, by decide +kernel, ?_, rfl, rfl, by decide, by decide⟩
  simp only [MatrixTurn, nextMatrix]
  cases Config.differenceTurn _ <;> rfl

/-! ### Messages. Which keys are provisioned, which areas are reserved and where a firmware image holds its signature are free values
of Config: a witness names the value that it needs. -/

/-- The kit without a cursor, owned by the host at address 1 under key 0. -/
def kitOwned : State :=
  { State.reset.placeWord [] with owner := some { ip := 1, key := 0, lease := 30000000000 }
                                  ports := [(0, { Port.fresh with up := true })] }

/-- A message of that host. -/
def kitMsg (kind ctx : Byte) (length : BitVec 32) (address operand : DWord) (payload : List Byte) : Msg :=
  { peer := 1, kind := kind, flags := 0, context := ctx, status := 0, length := length, seq := 0, address := address,
    operand := operand, payload := payload }

/-- A signature: r is the first coordinate of the base point, s is 1. -/
def kitSignature : List Byte := (leBytes curveBase.1 66).reverse ++ List.replicate 65 0 ++ [1]

/-- A signed command of that host (R183). -/
def kitCommand (code : Nat) (ctx : Byte) (args : List Byte) : Msg :=
  kitMsg 7 ctx (BitVec.ofNat 32 (140 + args.length)) 0 0
    (leBytes code 2 ++ leBytes 0 2 ++ leBytes args.length 4 ++ args ++ kitSignature)

/-- A command without a signature. -/
def kitPlain (code : Nat) (ctx : Byte) (args : List Byte) : Msg :=
  kitMsg 7 ctx (BitVec.ofNat 32 (8 + args.length)) 0 0 (leBytes code 2 ++ leBytes 0 2 ++ leBytes args.length 4 ++ args)

/-- The keys of the part hold key 0, and a message's signature verifies under it. -/
def Signed (m : Msg) : Prop :=
  0 < Config.keyCount ∧ ecdsaVerify (Config.hostKey 0) (signedBytes m (8 + argLen m)) (m.payload.drop (8 + argLen m)) = true

/-- What `Performed` asks. -/
def performedB (s : State) (m : Msg) : Bool :=
  decide (m.payload.length + packetHeaders ≤ packetLimit) && (s.broughtUp || m.kind == 7) && !s.duplicate m && s.inOrder m

theorem performed_of (s : State) (m : Msg) (h : performedB s m = true) : Performed s m := by
  simpa [performedB, Performed, and_assoc] using h

theorem commanded_of (s : State) (m : Msg) (n : Nat) (per : Bool) (c : Signed m)
    (h : (performedB s m && s.fromOwner m.peer && (s.owner.map fun o => o.key) == some 0 &&
      m.payload.length == 8 + argLen m + signatureBytes && formOk m (fun k => k == n) per true) = true) : Commanded s m n per := by
  simp only [Bool.and_eq_true] at h
  refine ⟨performed_of _ _ h.1.1.1.1, h.1.1.1.2, ?_, h.2⟩
  have o := h.1.1.2
  cases e : s.owner with
  | none => simp [e] at o
  | some x =>
    have k : x.key = 0 := by simpa [e] using o
    simp only [State.ownerSigned, e, signedBy, k, Bool.and_eq_true, decide_eq_true_eq]
    exact ⟨⟨h.1.2, c.1⟩, c.2⟩

/-- What `Commanded` asks of a state and a message, whose signature verifies under the key that the part holds. -/
def Ready (s : State) (m : Msg) (n : Nat) (per : Bool) : Prop := Signed m → Commanded s m n per

theorem ready_of (s : State) (m : Msg) (n : Nat) (per : Bool)
    (h : (performedB s m && s.fromOwner m.peer && (s.owner.map fun o => o.key) == some 0 &&
      m.payload.length == 8 + argLen m + signatureBytes && formOk m (fun k => k == n) per true) = true) : Ready s m n per :=
  fun c => commanded_of s m n per c h

theorem witness_MessageReception :
    Performed kitOwned (kitMsg 9 0 0 0 0 []) ∧
      packetLimit < (kitMsg 2 0 4200 0 0 (List.replicate 4200 0)).payload.length + packetHeaders ∧
      (let m := kitMsg 1 0 4 0 0 []
       (kitOwned.noteSeen m).duplicate m = true ∧ m.payload.length + packetHeaders ≤ packetLimit) ∧
      (State.reset.broughtUp = false ∧ (kitMsg 1 0 4 0 0 []).kind ≠ 7) ∧
      kitOwned.fromOwner 2 = false ∧ kitOwned.ownerSigned (kitPlain 0x15 0 [1]) = false :=
  ⟨performed_of _ _ rfl, by decide +kernel, ⟨rfl, by decide⟩, ⟨rfl, by decide⟩, rfl, rfl⟩

/-- The kit, open to the host at address 1 through a window on its page, with launch queue 0 of 16 slots. -/
def kitHosted : State :=
  { kitOwned with mem := memWriteBytes kitOwned.mem (0x20000 + 8 * tableIndex placedVa 4) (leBytes (placedPage + 0x12F) 8) }.modContext 0 fun c =>
    { c with windows := [(0, { base := 0x10000, len := 0x8000, perm := 3 })], hosts := [(1, 0)]
             queues := [(0, { base := 0x10000, k := 4, post := 2, take := 2, held := false, faulted := false, fatal := [] })] }

/-- Whether a path leads to memory, in this many pieces. -/
def pathPieces : HostPath → Option Nat
  | .mem _ l => some l.length
  | _ => none

theorem witness_HostMemory :
    (Performed kitHosted (kitMsg 1 0 8 0x10000 0 []) ∧
      (∃ s1, (kitHosted.noteSeen (kitMsg 1 0 8 0x20000 0 [])).hostPath (kitMsg 1 0 8 0x20000 0 []) 8 true true false = .deny s1 2) ∧
      pathPieces ((kitHosted.noteSeen (kitMsg 1 0 4096 0x10000 0 [])).hostPath (kitMsg 1 0 4096 0x10000 0 []) 4096 true true false) =
        some 32 ∧
      pathPieces ((kitHosted.noteSeen (kitMsg 2 0 1 0x17FFF 0 [7])).hostPath (kitMsg 2 0 1 0x17FFF 0 [7]) 1 true false true) = some 1 ∧
      (∃ (u : State) (l : Leaf), (kitHosted.noteSeen (kitMsg 3 0 8 0x10008 1 [])).hostPath (kitMsg 3 0 8 0x10008 1 []) 8 true true true =
        .mem u [(0x10008, 0x28008, 8, l)] ∧
        ((u.hostTouch 0 0x10008 0x28008 l).recallNow (0x28008 / lineBytes)).bankBad 0x28008 8 = false)) ∧
      ((hostRead 0 kitHosted [(0x10000, 0x28000, 4, { pte := 0x2802F, lvl := 4 })]).2 = some [0, 0, 0, 0]) ∧
      ((hostRead 0 { kitHosted with bad := [0x28001] } [(0x10000, 0x28000, 4, { pte := 0x2802F, lvl := 4 })]).2 = none) ∧
      (∃ c q, (kitHosted.noteSeen (kitMsg 2 0 8 0x00FFFFFFFFFFFF00 0 (leBytes 18 8))).context? 0 = some c ∧ c.st = .running ∧
        c.admits 1 = true ∧ isPostWord (kitMsg 2 0 8 0x00FFFFFFFFFFFF00 0 (leBytes 18 8)) = true ∧ tblGet? c.queues 0 = some q ∧
        q.post.toNat ≤ 18 ∧ 18 ≤ q.take.toNat + 2 ^ q.k ∧ 1 < q.post.toNat ∧ q.take.toNat + 2 ^ q.k < 19) :=
  ⟨⟨performed_of _ _ rfl, ⟨_, rfl⟩, by decide +kernel, by decide +kernel, ⟨_, _, rfl, by decide +kernel⟩⟩, by decide +kernel, by decide +kernel, _, _, rfl, rfl,
    rfl, rfl, rfl, by decide, by decide, by decide, by decide⟩

/-- A request of the wafer that has not been answered. -/
def kitTxn (again acked : Bool) : Txn := { msg := kitMsg 1 0 8 0 0 [], purpose := .notice, port := 0, again := again, acked := acked }

/-- The record of that correspondent, with losses of port 0. -/
def kitLink (lost : Nat) (since : Option DWord) : Link :=
  { ip := 1, next := 1, seen := [], removed := [], losses := [(0, lost)], recovering := since }

theorem witness_Links :
    (let s := { kitOwned with outstanding := [kitTxn false false] }
     Performed s (kitMsg 5 0 0 0 0 []) ∧
      s.outstanding.find? (fun t => t.msg.peer == 1 && t.msg.seq == 0 && t.purpose != .answer) = some (kitTxn false false)) ∧
      (∀ again ∈ [true, false], ∀ acked ∈ [true, false],
        ({ kitOwned with outstanding := [kitTxn again acked] } : State).outstanding.find?
          (fun t => t.msg.peer == 1 && t.msg.seq.toNat == 0) = some (kitTxn again acked)) ∧
      (∀ lost ∈ [0, 1, 2], ((({ kitOwned with links := [kitLink lost none] } : State).link 1).losses.find? fun p => p.1 == 0) =
        some (0, lost)) ∧
      kitOwned.openPorts [] 0 = [0] ∧ ({ kitOwned with ports := [] } : State).openPorts [] 0 = [] ∧
      (∃ m ∈ ({ kitOwned with unsent := [kitMsg 1 0 8 0 0 []] } : State).unsent, m.peer = 1 ∧ m.seq.toNat = 0) ∧
      (({ kitOwned with links := [kitLink 0 (some 5)] } : State).link 1).recovering = some 5 ∧
      tblGet? kitOwned.ports 0 = some { Port.fresh with up := true } ∧ ({ kitOwned with owner := none } : State).owner = none :=
  ⟨⟨performed_of _ _ rfl, rfl⟩, by decide, by decide, by decide, by decide, by decide, rfl, rfl, rfl⟩

theorem witness_WaferCommands (r : Config.reservedCount = 0) :
    Ready kitOwned (kitCommand 2 0xFF []) 0 false ∧ Ready kitOwned (kitCommand 4 0xFF [1, 0]) 2 false ∧
      Ready kitOwned (kitCommand 0x21 0xFF (leBytes 100000000 8)) 8 false ∧
      Ready kitOwned (kitCommand 0x21 0xFF (leBytes 60000000001 8)) 8 false ∧
      (Ready kitOwned (kitCommand 0x22 0xFF (47 :: leBytes 1 16 ++ [1])) 18 false) ∧
      (Ready kitOwned (kitCommand 0x23 0xFF (leBytes 0 8 ++ leBytes 4 8)) 16 false ∧ 0 + 4 ≤ Config.hbmBytes ∧
        kitOwned.bankBad 0 4 = false) ∧
      (Ready kitOwned (kitCommand 0x1D 0xFF (leBytes 0x28000 8 ++ leBytes 4000 4)) 12 false ∧
        physRefused 0x28000 4000 = false ∧ kitOwned.bankBad 0x28000 4000 = false) ∧
      (Ready kitOwned (kitCommand 0x1C 0xFF (leBytes 0x28000 8 ++ [5])) 9 false ∧ physRefused 0x28000 1 = false ∧
        (kitOwned.taken (kitCommand 0x1C 0xFF (leBytes 0x28000 8 ++ [5]))).askParty innkeeperParty [1280] = none) ∧
      (let m := kitCommand 1 0xFF [0, 0]
       Performed kitOwned m ∧ formOk m (fun k => k == 2) false true = true ∧ kitOwned.owner ≠ none ∧ kitOwned.successor = none ∧
        Performed { kitOwned with owner := none } m ∧ ({ kitOwned with successor := some (0, 9) } : State).successor = some (0, 9) ∧
        Performed { kitOwned with successor := some (1, 9) } m ∧ 1 ≠ fieldAt (argsOf m) 0 2) ∧
      (let m := kitPlain 0x30 0xFF [1, 0, 63, 0]
       Performed kitOwned m ∧ formOk m (fun k => k == 4) false false = true ∧ ((kitOwned.noteSeen m).stateRecord 1 63).isSome = true) ∧
      (let m := kitPlain 0x32 0xFF (leBytes 7 32)
       Performed kitOwned m ∧ formOk m (fun k => k == 32) false false = true) := by
  have p (a n : Nat) (h : a + n ≤ Config.hbmBytes) : physRefused a n = false := by
    simp [physRefused, r, Nat.not_lt.mpr h]
  exact ⟨ready_of _ _ _ _ (by decide +kernel), ready_of _ _ _ _ (by decide +kernel), ready_of _ _ _ _ (by decide +kernel),
    ready_of _ _ _ _ (by decide +kernel), ready_of _ _ _ _ (by decide +kernel), ⟨ready_of _ _ _ _ (by decide +kernel), by decide, rfl⟩,
    ⟨ready_of _ _ _ _ (by decide +kernel), p _ _ (by decide), by decide +kernel⟩,
    ⟨ready_of _ _ _ _ (by decide +kernel), p _ _ (by decide), by decide +kernel⟩,
    ⟨performed_of _ _ (by decide +kernel), by decide +kernel, by decide, rfl, performed_of _ _ (by decide +kernel), rfl,
      performed_of _ _ (by decide +kernel), by decide +kernel⟩, ⟨performed_of _ _ rfl, rfl, rfl⟩,
    performed_of _ _ rfl, rfl⟩

/-- The kit's context in another state. -/
def kitCtx (f : Context → Context) : State := kitOwned.modContext 0 f

/-- What a command to the kit's context finds. -/
theorem kit_taken (m : Msg) : ((kitCtx id).taken m).context? 0 = some (placedContext 0) := rfl

theorem witness_ContextCommands :
    (∀ x ∈ [(0x15, 1, [(1 : Byte)]), (0x10, 21, leBytes 0x8000 8 ++ [1] ++ leBytes 0 8 ++ leBytes (16 * 2 ^ 12) 4)],
      Ready kitOwned (kitCommand x.1 63 x.2.2) x.2.1 true) ∧
      (kitOwned.taken (kitCommand 0x15 63 [1])).context? 63 = none ∧
      (∀ x ∈ [(0x10, 21, leBytes 0x8000 8 ++ [1] ++ leBytes 0 8 ++ leBytes 16 4), (0x15, 1, [(1 : Byte)]), (0x15, 1, [(0 : Byte)]),
          (0x16, 18, [(31 : Byte)] ++ leBytes (2 ^ 56 - 1) 8 ++ leBytes 1 8 ++ [3]), (0x16, 18, [(0 : Byte)] ++ leBytes 0 16 ++ [0]),
          (0x1A, 18, [(127 : Byte)] ++ leBytes 1 16 ++ [0]), (0x17, 19, leBytes 2 16 ++ [0, 0, 1]), (0x17, 19, leBytes 2 16 ++ [0, 0, 0]),
          (0x18, 10, [(7 : Byte)] ++ leBytes 128 8 ++ [12]), (0x20, 16, leBytes 10000000 8 ++ leBytes 1000000000 8), (0x20, 16, leBytes 0 16),
          (0x19, 25, [(15 : Byte)] ++ leBytes (2 ^ 56 - 128) 8 ++ leBytes 128 8 ++ leBytes 1 4 ++ leBytes 1 4),
          (0x13, 0, []), (0x14, 3, [0, 0, 0])],
        Ready (kitCtx id) (kitCommand x.1 0 x.2.2) x.2.1 true) ∧
      (placedContext 0).st = .running ∧ regionOk (2 ^ 56 - 128) 128 1 1 = true ∧ tblGet? (placedContext 0).regions 15 = none ∧
      (∃ c, ((kitCtx fun c => { c with st := .faulted }).taken (kitCommand 0x13 0 [])).context? 0 = some c ∧ c.st ≠ .running ∧
        c.st ≠ .resetting ∧ c.channelHalted = false) ∧
      (let s := kitLaunched { kitGroup with halt := .debug true false 0 [] } placedWaybill
       ∃ g, s.groupAt 0 0 0 = some (0, g) ∧ g.halt = .debug true false 0 []) := by
  refine ⟨?_, rfl, ?_, rfl, by decide +kernel, rfl, ⟨_, rfl, by decide, by decide, rfl⟩, _, rfl, rfl⟩ <;> intro x hx <;>
    simp only [List.mem_cons, List.not_mem_nil, or_false] at hx
  · rcases hx with rfl | rfl <;> exact ready_of _ _ _ _ (by decide +kernel)
  · rcases hx with rfl | rfl | rfl | rfl | rfl | rfl | rfl | rfl | rfl | rfl | rfl | rfl | rfl | rfl <;>
      exact ready_of _ _ _ _ (by decide +kernel)

/-- An image with a version note and nothing to map: the header, the headers of three sections, the note and the section names
(R149, R150, R152; the places of ELF64's fields are those of the ELF standard, log 25). -/
def kitImage : List Byte :=
  [0x7F, 0x45, 0x4C, 0x46, 2, 1, 1, 0] ++ leBytes 0 8 ++ leBytes 3 2 ++ leBytes 0x4858 2 ++ leBytes 1 4 ++ leBytes 0 8 ++ leBytes 0 8 ++
    leBytes 64 8 ++ leBytes 0 4 ++ leBytes 64 2 ++ leBytes 0 4 ++ leBytes 64 2 ++ leBytes 3 2 ++ leBytes 2 2 ++
  leBytes 0 64 ++
  (leBytes 1 4 ++ leBytes 7 4 ++ leBytes 0 16 ++ leBytes 256 8 ++ leBytes 36 8 ++ leBytes 0 24) ++
  (leBytes 0 4 ++ leBytes 3 4 ++ leBytes 0 16 ++ leBytes 292 8 ++ leBytes 14 8 ++ leBytes 0 24) ++
  (leBytes 7 4 ++ leBytes 16 4 ++ leBytes 1 4 ++ nameBytes "Hexrov" ++ [0, 0] ++ leBytes 0x100 4 ++ leBytes 0 12) ++
  (0 :: nameBytes ".note.hexrov" ++ [0])

/-- The arguments that load it: nothing is mapped. -/
def kitLoad : LoadArgs := { image := 0x10000, length := 306, base := 0, limit := 0, phys := 0, physLen := 0, result := 0, override := false }

theorem kit_image : kitImage.length = 306 ∧ refusing false (kit.refusalMask 0x8000 kitLoad kitImage) = 0 := by decide +kernel


theorem witness_MappingCommands :
    ((kitCtx id).taken (kitCommand 0x1B 0 [])).context? 0 = some (placedContext 0) ∧ (placedContext 0).st ≠ .resetting ∧
      Ready (kitCtx id) (kitCommand 0x1B 0 (leBytes 0x10000 8 ++ leBytes 128 8)) 16 true ∧
      (let m := kitCommand 0x1E 0 (leBytes 0x10000 8 ++ leBytes 306 8 ++ leBytes 0 40 ++ leBytes 0 4)
       Ready (kitCtx id) m 60 true ∧ fieldAt (argsOf m) 56 4 ≤ 1) ∧
      (∃ s1, (kitCtx id).readImage 0 { kitLoad with length := 2 ^ 56 } = .fail s1 2 0x10000) ∧
      ((kitCtx id).oldAccesses 0 512 513 = false ∧ ((kitCtx id).setDelta 0 (Delta.new 0 1280 512)).weirMessages 0 = false ∧
        kit.crestLines 0 kitLoad 0 = [] ∧ kit.askParty innkeeperParty [] = none) ∧
      (let m := kitPlain 0x33 0 (leBytes 0 8)
       Performed (kitCtx id) m ∧ formOk m (fun k => k == 8) true false = true) ∧
      (let m := kitPlain 0x1F 0 (leBytes 0x10000 8 ++ [2])
       Performed (kitCtx id) m ∧ formOk m (fun k => k == 9) true false = true ∧ (kitCtx id).fromOwner m.peer = true ∧
        fieldAt (argsOf m) 8 1 ≤ 2) :=
  ⟨rfl, by decide, ready_of _ _ _ _ (by decide +kernel), ⟨ready_of _ _ _ _ (by decide +kernel), by decide +kernel⟩, ⟨_, if_pos (by decide)⟩,
    ⟨by decide +kernel, by decide +kernel, by decide +kernel, rfl⟩, ⟨performed_of _ _ rfl, by decide +kernel⟩, ⟨performed_of _ _ rfl, by decide +kernel, rfl, by decide +kernel⟩⟩

theorem witness_WaferEvents :
    (∃ o, kitOwned.owner = some o) ∧ ({ kitOwned with successor := some (0, 9) } : State).successor = some (0, 9) ∧
      State.reset.broughtUp = false ∧ (∀ mhz ∈ [1, 2499], 0 < mhz ∧ mhz ≤ 2500 ∧ mhz ≠ State.reset.mhz) :=
  ⟨⟨_, rfl⟩, rfl, rfl, by decide⟩

/-! ### The dispatcher. How many bytes the pool of private areas holds is a free value of Config. -/

/-- A waybill of one crew on core 0, with other bytes from an offset on. -/
def kitBill (at_ : Nat) (b : List Byte) : List Byte :=
  let w := kitWaybill 0x70 [2, 0, 0, 0]
  w.take at_ ++ b ++ w.drop (at_ + b.length)

/-- The kit without group and crew, with a waybill in memory, its object loaded, and launch queue 0 at an address. -/
def kitPostedAt (base : DWord) (w : List Byte) : State :=
  let s := (State.reset.placeWord (List.replicate 128 0 ++ w)).modContext 0 fun c =>
    { c with share := 1
             objects := [{ textBase := 0x10000, textLen := 64, handler := none, overridden := false }]
             queues := [(0, { base := base, k := 4, post := 1, take := 0, held := false, faulted := false, fatal := [] })] }
  { s with groups := [], crews := [], launches := [], mem := memWriteBytes s.mem (0x20000 + 8 * tableIndex placedVa 4) (leBytes (placedPage + 0x12F) 8) }

/-- The same where the queue holds the waybill. -/
def kitPosted (w : List Byte) : State := kitPostedAt 0x10080 w

/-- The same queue with its launch, in a state, at the head. -/
def kitTaken (w : List Byte) (st : LaunchSt) : State :=
  { kitPosted w with launches := [(launchKey 0 1, Launch.new 0 1 0 0 w st false 0)] }

/-- Whether the route of the take count is held, how the read of the slot ends, and whether the count that is taken could be written. -/
def takeEnds (s : State) (base : DWord) : Bool × Nat × Bool :=
  let q : LaunchQueue := { base := base, k := 4, post := 1, take := 1, held := false, faulted := false, fatal := [] }
  let r := s.sysRoute 0 q.takeAddr 8 true []
  let read := sysRead 0 [] r.1 (piecesOf base.toNat 128)
  let s1 := match read with
    | .ok s1 _ => s1
    | .fail s1 _ _ => s1
    | _ => s
  (match r.2 with
    | .held _ => true
    | _ => false, gotEnd read, (s1.putTake 0 0 q).2)

/-- An entry of a line in the directory. -/
def kitEntry (weir : Tbl WeirRec) : DirEntry :=
  { ret := 0, bank := 3, moving := none, due := none, leaving := false, pin := false, strm := false, replicas := [], requesters := [],
    timer := 0, releasers := [], tags := [], weir := weir, excl := none, used := 0, expanded := false }

/-- A weir record with a holder. -/
def kitWeir : WeirRec :=
  { WeirRec.new 0x3F800000 with holders := [(0, 0, 0x3E800000, true)] }

/-- A queue with an entry of a line, and an invalidation that core 5 has caused. -/
def kitPostedLine (line : Nat) (e : DirEntry) (inval : Bool) (w : List Byte) : State :=
  { kitTaken w .taken with dir := [(line, e)], invals := if inval then [(line, 7, 5)] else [] }

/-- An entry of a line that core 5 has released. -/
def kitReleased : DirEntry := { kitEntry [] with releasers := [(5, 0)] }

theorem witness_TakingWaybills (h : crewPrivate (kitBill 0 []) ≤ Config.poolBytes) :
    (∃ c q, (kitPosted (kitBill 0 [])).context? 0 = some c ∧ c.st = .running ∧ tblGet? c.queues 0 = some q ∧ q.base = 0x10080 ∧
      q.take.toNat < q.post.toNat) ∧
      takeEnds (kitPosted (kitBill 0 [])) 0x10080 = (false, 0, true) ∧
      (takeEnds (kitPostedAt 0x10000 []) 0x10000).1 = true ∧
      takeEnds (kitPostedAt 0x00FFFFFFFFFFFF00 []) 0x00FFFFFFFFFFFF00 = (false, 1, true) ∧
      takeEnds (kitPostedLine 1280 (kitEntry [(1280, kitWeir)]) false []) 0x10080 = (false, 0, false) ∧
      (takeEnds (kitPostedLine 1281 kitReleased true []) 0x10080).2.1 = 3 ∧
      ((takeEnds (kitPostedAt 0x18000 []) 0x18000).1 = false ∧ (takeEnds (kitPostedAt 0x18000 []) 0x18000).2.1 = 2) ∧
      ((kitPosted (kitBill 0 [])).checkTake 0 (kitBill 0 []) false 0 1 = none) ∧
      ((kitPosted (kitBill 0 [])).checkTake 0 (kitBill 0x74 [1]) false 0 1 = some 9) ∧
      (let s := kitTaken (kitBill 0x08 (leBytes 0x10000 8)) .taken
       ∃ l, s.launch? (launchKey 0 1) = some l ∧ s.queueHead 0 0 = some (launchKey 0 1) ∧ s.running 0 = true ∧
        s.ticketState 0 (fieldAt l.wb 0x50 8) = some true ∧ gotEnd (s.readParams l) = 0) ∧
      (∀ x ∈ [(kitTaken (kitBill 0x68 (leBytes 0x00FFFFFFFFFFFFF8 8)) .taken, 1), (kitTaken (kitBill 0x68 (leBytes 0x18000 8)) .taken, 2),
          (kitPostedLine 1280 kitReleased true (kitBill 0x68 (leBytes 0x10000 8)), 3)],
        ((x.1.launch? (launchKey 0 1)).map fun l => gotEnd (x.1.readParams l)) = some x.2) ∧
      (kitTaken (kitBill 0 []) .rejected).ticketState 0 (2 ^ 63 + 1) = some false := by
  refine ⟨⟨_, _, rfl, rfl, rfl, rfl, by decide⟩, by decide +kernel, by decide +kernel, by decide +kernel, by decide +kernel, by decide +kernel,
    ⟨by decide +kernel, by decide +kernel⟩, ?_, by decide +kernel, ⟨_, rfl, by decide +kernel, rfl, by decide +kernel, by decide +kernel⟩,
    by decide +kernel, by decide +kernel⟩
  have d : decide (crewPrivate (kitBill 0 []) ≤ Config.poolBytes) = true := decide_eq_true h
  simp only [State.checkTake, d]
  decide +kernel


/-! ### Cores, caches and errors. -/

/-- The kit between steps. -/
def kitIdle (g : Group) : State := { kitWith g with cur := none }

/-- The kit with a delta line that asks for a share. -/
def kitWeirPending : State := (kitIdle kitGroup).setDelta 0 (Delta.new 0 1280 512)

theorem witness_EndOfLaunches :
    (let g := { kitGroup with exited := 0xFF }
     (kitIdle g).group? 0 = some g ∧ g.present = 0 ∧
      (let left := (kitIdle g).leaveTollgate 0 g
       ({ left with groups := tblErase left.groups 0 } : State).crew? g.crew = some placedCrew) ∧
      ({ placedCrew with ended := placedCrew.ended ++ [0] } : Crew).live = [] ∧
      ({ placedCrew with groups := [0, 1], ended := [0] } : Crew).live ≠ []) ∧
      (let s := kitTaken (kitBill 0x40 (leBytes 0x10008 8)) .ended
       ∃ l, s.launch? (launchKey 0 1) = some l ∧ l.st = .ended ∧ l.draining = [] ∧
        s.weirPending l.ctx 0 = false ∧ s.sysPending = false ∧ fieldAt l.wb 0x40 8 ≠ 0 ∧
        gotEnd (s.sysWrite l.ctx 0x10008 (bytesAt l.wb 0x48 8) [] completionTag) = 0) ∧
      (let s := kitTaken (kitBill 0 []) .ended
       ∃ l, s.launch? (launchKey 0 1) = some l ∧ fieldAt l.wb 0x40 8 = 0 ∧
        gotEnd (s.sysWrite l.ctx 0x00FFFFFFFFFFFFF8 (bytesAt l.wb 0x48 8) [] completionTag) = 1 ∧
        gotEnd (s.sysWrite l.ctx 0x18000 (bytesAt l.wb 0x48 8) [] completionTag) = 2) ∧
      (let s := kitWeirPending
       s.weirPending 0 0 = true) ∧
      ({ kitIdle kitGroup with invals := [(1280, 0, sysCore)] } : State).sysPending = true ∧ ∃ l : Launch, l.st = .written :=
  ⟨⟨rfl, by decide, rfl, rfl, by decide⟩, ⟨_, rfl, rfl, rfl, by decide +kernel, by decide +kernel, by decide +kernel, by decide +kernel⟩,
    ⟨_, rfl, by decide +kernel, by decide +kernel, by decide +kernel⟩,
    by decide +kernel, rfl, Launch.new 0 1 0 0 [] .written false 0, rfl⟩

/-- A crew that fills the register file: 64 groups hold their registers and sleep since cycle 0, another stalls. -/
def kitCrowd : State :=
  let full : Tbl (Tbl LaneCell) := (List.range 64).map fun r => (r, [])
  let sleeper (k : Nat) : Nat × Group :=
    (k, { kitGroup with index := k, w0 := 6, vregs := full, slotA := some { kitSplit with wait := .batch, since := some (1, 0) } })
  let stalls : Group := { kitGroup with index := 64, w0 := 6, vregs := [], slotA := some { kitSplit with wait := .alloc 8, since := some (2, 4000) } }
  let s := kitIdle kitGroup
  State.modCore { s with groups := (List.range 64).map sleeper ++ [(64, stalls)]
                         crews := tblMap (fun _ c => { c with groups := List.range 65 }) s.crews } 0
    fun c => { c with cycle := 4096 }


/-- The kit with one line in the directory. -/
def kitLine (e : DirEntry) : State := { kitIdle kitGroup with dir := [(1280, e)] }

theorem witness_CoherenceTurns :
    (∃ x ∈ [((0 : Nat), (0 : Nat), (5 : Nat))], x.2.2 = 5) ∧ (∀ x ∈ (kitIdle kitGroup).invals, x.2.2 ≠ 5) ∧
      (∃ e, (kitLine { kitEntry [] with releasers := [(5, 0)] }).entry? 1280 = some e) ∧
      (let s := { kitIdle kitGroup with invals := [(1280, 7, 5)] }
       ∃ x ∈ (s.recallNow 1280).invals, x.1 = (s.recallNow 1280).dirLine 1280) ∧
      (∀ x ∈ ((kitIdle kitGroup).recallNow 1280).invals, x.1 ≠ ((kitIdle kitGroup).recallNow 1280).dirLine 1280) ∧
      (let g := { kitGroup with slotA := some { kitSplit with wait := .monitor (some 9) 4 }, watch := some (kitWatch false false) }
       (kitIdle g).group? 0 = some g ∧ g.monitorDst = some 4 ∧
        g.allSplits.findSome? (fun x => match x.wait with | .monitor d _ => d | _ => none) = some 9) ∧
      (let s := kitTree kitGroup []
       ∃ t, tblGet? s.trees 0 = some t ∧ t.raised = false ∧ ({ t with counters := [(0, (0, 1))] } : Tree).raised = true ∧
        ∀ x ∈ s.launchGroups t.launch, x.2.1.endPhase.2 = false) := by
  refine ⟨by decide, by simp [kitIdle, kitWith, State.placeWord], ⟨_, rfl⟩, ⟨(1280, 7, 5), by decide +kernel, by decide +kernel⟩, ?_,
    ⟨rfl, rfl, rfl⟩, _, rfl, rfl, rfl, ?_⟩
  · have e : ((kitIdle kitGroup).recallNow 1280).invals = [] := rfl
    simp [e]
  · intro x hx
    have e : (kitTree kitGroup []).launchGroups (launchKey 0 1) = [(0, kitGroup, 0)] := rfl
    rw [show ({ launch := launchKey 0 1, counters := [(0, (1, 1))], arrived := [] } : Tree).launch = launchKey 0 1 from rfl, e] at hx
    simp only [List.mem_cons, List.not_mem_nil, or_false] at hx
    subst hx
    rfl

/-- A watch of a remote line, on a page of the peer of slot 0. -/
theorem witness_CoherenceTurns_remote :
    let w : Watch := { kitWatch false false with vline := 512, remote := true }
    let g := { kitGroup with slotA := some { kitSplit with wait := .monitor none 4 }, watch := some w }
    let s0 := (kitIdle g).modContext 0 fun c => { c with peers := [(0, { ip := 7, tag := 0 })] }
    let s := { s0 with mem := memWriteBytes s0.mem (0x20000 + 8 * tableIndex placedVa 4) (leBytes 0x280A7 8) }
    s.group? 0 = some g ∧ g.watch = some w ∧ g.monitorDst = some 4 ∧ w.remote = true ∧
      ∃ s1 p a, s.fateOf (s.coreOf g) (s.ctxOf g) (w.vline * 128) 1 .load [] = (s1, .remote p a) :=
  ⟨rfl, rfl, rfl, rfl, _, _, _, rfl⟩

/-- The kit with a delta line of its one page. -/
def kitDelta (f : Delta → Delta) : State := (kitLine (kitEntry [(1280, kitWeir)])).setDelta 0 (f (Delta.new 0 1280 512))

theorem witness_WeirTurns :
    (let s := (kitIdle kitGroup).lodge 1280 (some 0) none
     ∃ e, s.entry? 1280 = some e) ∧
      (let w := WeirRec.new 0x3F800000
       shareOf (min w.free (magUnits w.crest)) ≠ 0 ∧ w.service = none ∧ w.holders.length < 8) ∧
      (∃ w : WeirRec, w.service ≠ none) ∧
      (∃ d, (kitDelta id).delta? 0 0 1280 = some d ∧ d.st = .asking) ∧
      ((kitIdle kitGroup).bankBad (1280 * 128) 128 = false) ∧
      (∃ d, (kitDelta fun d => { d with spilling := true }).delta? 0 0 1280 = some d ∧ d.spilling = true ∧ d.leaving = false) ∧
      (∀ m ∈ [(0 : Word), 1], ∃ d, (kitDelta fun d => { d with st := .holding, touched := m }).delta? 0 0 1280 = some d ∧
        d.st = .holding ∧ d.spilling = false ∧ d.touched = m ∧ d.waiting = [] ∧
        (kitDelta fun d => { d with st := .holding, touched := m }).runsOut 0 0 1280 = false) ∧
      (kitIdle kitGroup).delta? 0 0 1280 = none ∧
      (∃ w, (kitDelta id).weirRec? 1280 = some w) :=
  ⟨⟨_, rfl⟩, ⟨by decide +kernel, rfl, by decide⟩, ⟨{ kitWeir with service := some (0, 0) }, by simp⟩, ⟨_, rfl, rfl⟩,
    by decide +kernel, ⟨_, rfl, rfl, rfl⟩, fun m hm => by
      simp only [List.mem_cons, List.not_mem_nil, or_false] at hm
      rcases hm with rfl | rfl <;> exact ⟨_, rfl, rfl, rfl, rfl, rfl, rfl⟩, rfl, _, rfl⟩

theorem witness_DroverTurns :
    (let e := { kitEntry [] with moving := some (5, 9) }
     (kitLine e).entry? 1280 = some e) ∧
      (let e := { kitEntry [] with due := some (5, 1) }
       (kitLine e).entry? 1280 = some e ∧ e.moving = none ∧ e.pin = false ∧ e.strm = false ∧ e.leaving = false ∧
        (kitLine e).anchorMoving ((kitLine e).dirLine 1280) = false ∧ (kitLine e).dueBefore ((kitLine e).dirLine 1280) 1 = false ∧
        ({ e with pin := true } : DirEntry).pin = true) ∧
      (let s := kitLine (kitEntry [])
       s.setOfLines [1280] = some (1280, 0, 3)) ∧
      ((kitLine (kitEntry [])).victim [(1280, false)] = some (1280, false) ∧
        (kitLine (kitEntry [])).victim [(1280, false), (1408, true)] = some (1408, true) ∧ (kitLine (kitEntry [])).victim [] = none) ∧
      ((kitIdle kitGroup).part.inMap 4095 = true ∧ (kitIdle kitGroup).retired.contains 4095 = false ∧ (kitIdle kitGroup).owner = none ∧
        State.substitute { kitIdle kitGroup with retired := [4095] } (4095 / 64) (4095 % 64) ≠ 4095 % 64) :=
  ⟨rfl, ⟨rfl, rfl, rfl, rfl, rfl, by decide +kernel, by decide +kernel, rfl⟩, by decide +kernel,
    ⟨by decide +kernel, by decide +kernel, by decide +kernel⟩, ⟨by decide +kernel, rfl, rfl, by decide +kernel⟩⟩

theorem witness_SettlingErrors :
    (let r : Region := { mask := 0xFF, fm := 0, restarts := 0, firstOp := 0 }
     let g := { kitGroup with region := some r, restart := true }
     (kitIdle g).group? 0 = some g ∧ (kitIdle g).opsOf 0 g (fun o => decide (r.firstOp ≤ o.num)) = false ∧
      (kitQueues g [kitOp false 1] []).opsOf 0 g (fun o => decide (r.firstOp ≤ o.num)) = true) ∧
      (let g := { kitGroup with halt := .debug false true 0 [(true, 3, 0)] }
       (kitIdle g).group? 0 = some g ∧ (kitIdle g).opsOf 0 g (fun _ => true) = false) ∧
      (let s := (kitIdle kitGroup).modContext 0 fun c => { c with st := .faulted, fault := some (0, 0, 3) }
       ∃ c, s.context? 0 = some c ∧ c.fault = some (0, 0, 3) ∧
        (s.usedCores.foldl (fun s k => s.drain k 0 true 0 lineEnd) s).spillsDue 0 [0] = [] ∧
        (s.usedCores.foldl (fun s k => s.drain k 0 true 0 lineEnd) s).storesOut 0 = false) ∧
      (let s := (kitIdle { kitGroup with remoteOut := 1 }).modContext 0 fun c => { c with fault := some (0, 0, 3) }
       (s.usedCores.foldl (fun s k => s.drain k 0 true 0 lineEnd) s).storesOut 0 = true) ∧
      (let r : EventRec := { seq := 0, bytes := [], msgSeq := 0, sentAt := 0 }
       let limits (c : Context) : Context := { c with unacked := [r], watchdog := 10000000, park := 1000000000, parkedSince := some 4 }
       ∃ c, ((kitIdle kitGroup).modContext 0 limits).context? 0 = some c ∧ c.unacked = [r] ∧ c.channelHalted = false ∧ c.st = .running ∧ c.watchdog ≠ 0 ∧
        c.park ≠ 0 ∧ c.parkedSince = some 4) ∧
      ((∃ x ∈ (kitIdle kitGroup).residentGroups 0, (kitIdle kitGroup).groupParked x.1 x.2 = false) ∧
        ¬ (∃ x ∈ (kitIdle kitGroup).groups, (kitIdle kitGroup).ctxOf x.2 = 0 ∧ x.2.active = true)) ∧
      ((kitIdle { kitGroup with active := true }).groups.any (fun x => x.2.active) = true) ∧
      ((kitIdle { kitGroup with slotA := some { kitSplit with wait := .hold false } }).allParked 0 = true) ∧
      (let m := kitPlain 0x11 0 []
       let s := (kitIdle kitGroup).modContext 0 fun c => { c with st := .resetting, resetMsg := some m }
       ∃ c, s.context? 0 = some c ∧ c.st = .resetting ∧ c.resetMsg = some m ∧
        ((s.usedCores.foldl (fun s k => s.settleWrites 0 k) s).invals.any fun x =>
          (s.usedCores.foldl (fun s k => s.settleWrites 0 k) s).usedCores.contains x.2.2) = false) ∧
      (let s := kitIdle kitGroup
       s.dressTurn = 0 ∧ s.testing < 4 ∧ (s.coreSt 0).testing = false ∧ (s.physOf 0).isSome = true ∧ s.holdsGated 0 = false ∧
        (kitLaunched kitGroup (kitWaybill 0x2F [1])).holdsGated 0 = true) ∧
      (let s := (kitIdle kitGroup).modCore 0 fun c => { c with testing := true }
       (s.coreSt 0).testing = true ∧ s.residents 0 ≠ [] ∧ ({ s with crews := [] } : State).residents 0 = [] ∧ s.awaiting 0 = []) := by
  refine ⟨⟨rfl, by decide +kernel, by decide +kernel⟩, ⟨rfl, by decide +kernel⟩, ⟨_, rfl, rfl, rfl, by decide +kernel⟩, by decide +kernel,
    ⟨_, rfl, rfl, rfl, rfl, by decide, by decide, rfl⟩, ⟨⟨(0, kitGroup), by decide +kernel, by decide +kernel⟩, ?_⟩, by decide +kernel,
    by decide +kernel, ⟨_, rfl, rfl, rfl, by decide +kernel⟩,
    ⟨by decide +kernel, by decide +kernel, by decide +kernel, by decide +kernel, by decide +kernel, by decide +kernel⟩,
    ⟨rfl, by decide +kernel, rfl, rfl⟩⟩
  rintro ⟨x, hx, -, ha⟩
  have e : (kitIdle kitGroup).groups = [(0, kitGroup)] := rfl
  rw [e] at hx
  simp only [List.mem_cons, List.not_mem_nil, or_false] at hx
  subst hx
  exact absurd ha (by decide)

/-! ### Steps. -/

/-- The bytes of the second instruction of the worked stream of section 1, a guarded `fadd.f32`. -/
def faddBytes : List Byte := [0xC7, 0x18, 0x82, 0x0A]

/-- Whether the next move is that a core issues a split. -/
def issues (s : State) : Bool :=
  match s.nextMove.2 with
  | .issue 0 e => (s.nextMove.1.group? e.group).isSome
  | _ => false

/-- The first halfword that the kit's split fetches, and the second. -/
def halves (s : State) : Option (BitVec 16 × BitVec 16) :=
  match s.fetchHalf 0 0 0 false (BitVec.ofNat 64 placedVa) placedVa [] with
  | .half u h0 =>
    match u.fetchHalf 0 0 0 false (BitVec.ofNat 64 placedVa) (placedVa + 2) [] with
    | .half _ h1 => some (h0, h1)
    | _ => none
  | _ => none

theorem witness_StepRunsDecoded :
    issues (State.reset.placeWord faddBytes) = true ∧ halves (State.reset.placeWord faddBytes) = some (0x18C7, 0x0A82) ∧
      decodeLong (0x0A82#16 ++ 0x18C7#16).toNat = some (.faddF32 3 12 4 20 1 0) ∧
      halves (State.reset.placeWord [0x0B, 0, 0xA0, 0x05]) = some (0x000B, 0x05A0) ∧
      decodeLong (0x05A0#16 ++ 0x000B#16).toNat = none ∧
      (halves (State.reset.placeWord [0xA2, 0x48])).map (fun x => x.1) = some 0x48A2 := by
  refine ⟨by decide +kernel, by decide +kernel, rfl, by decide +kernel, rfl, by decide +kernel⟩

/-- The next move of the machine right after reset runs the bring-up. -/
theorem witness_StepRunsDecoded_run : (match State.reset.nextMove.2 with | .run _ .bringUp => true | _ => false) = true := rfl

theorem witness_StepKeepsRest : (State.reset.placeWord faddBytes).AtRest := by
  refine ⟨rfl, fun i c h p => absurd ?_ p⟩
  have e : (State.reset.placeWord faddBytes).contexts = [(0, placedContext 0)] := rfl
  rw [e] at h
  simp only [tblGet?] at h
  split at h
  · have : placedContext 0 = c := by simpa using h
    rw [← this]
    rfl
  · exact absurd h (by simp)

/-- The group after a step, where the step answers a next state. -/
def after {α : Type} (o : Host.Outcome State Fault Refusal) (f : Group → α) : Option α :=
  match o with
  | .next t => (t.group? 0).map f
  | _ => none

theorem test_step_runs :
    after (step (State.reset.placeWord [0xA2, 0x48])) (fun g => (g.slotA.map Split.pc, (g.lane 5 0).toNat, g.gstat)) =
      some (some 0x10002, 0, bitVAC) := by
  decide +kernel

/-! ### Further clauses of the statements. -/

/-- The view of the kit's split in a state that executes it. -/
def kitIn (s : State) (g : Group) : View := { kitView 4 g kitSplit with s := { s with cur := none } }

/-- The kit where its page is one of the peer of slot 0. -/
def kitRemote (g : Group) : State :=
  let s := (kitWith g).modContext 0 fun c => { c with peers := [(0, { ip := 7, tag := 0 })] }
  { s with mem := memWriteBytes s.mem (0x20000 + 8 * tableIndex placedVa 4) (leBytes 0x280A7 8) }

theorem witness_Monitors_elsewhere :
    (ScalarReady (kitRemote kitGroup) (kitIn (kitRemote kitGroup) kitGroup) 7 [] [2] ∧
      ∃ p x, ((kitIn (kitRemote kitGroup) kitGroup).s.fateOf 0 0 0x10000 1 .load []).2 = .remote p x) ∧
      (let g := kitScalar 2 (BitVec.ofNat 64 privateLow)
       ScalarReady (kitWith g) (kitView 4 g kitSplit) 7 [] [2] ∧
        ∃ k, ((kitView 4 g kitSplit).s.fateOf 0 0 (g.sval 2).toNat 1 .load []).2 = .area k) :=
  ⟨⟨scalarReady_of _ _ _ _ _ ⟨rfl, rfl⟩ rfl, _, _, rfl⟩, with_scalar _ _ _ _ rfl rfl rfl, _, rfl⟩

/-- Remote stores of the group that are not answered: its releases, barriers, pushes and reads of `%gstat` wait. -/
theorem witness_remote_stores_out :
    let g := { kitScalar 1 0x81 with remoteOut := 1 }
    let v := kitView 4 g kitSplit
    ScalarReady (kitWith g) v 7 [] [1] ∧ v.unperformed v.s = true ∧ v.g.cpred 7 = true ∧ v.s.crew? v.g.crew = some placedCrew ∧
      v.sl.mask &&& (v.g.lanePhase.elim (v.g.sval 1 &&& fullMask v.width) fun p => p.members) ≠ 0 ∧ v.s.loadsOut v.gid v.g = false :=
  ⟨with_scalar _ _ _ _ rfl rfl rfl, rfl, rfl, rfl, by decide, rfl⟩

theorem witness_LaunchAndEvents_resetting :
    let s := (kitWith kitGroup).modContext 0 fun c => { c with st := .resetting }
    let v := kitIn s kitGroup
    let c := templateFates v.core v.ctx v.sl.verdicts v.s (templateSpans 0x10000)
    let pieces := ((templateSpans 0x10000).zip c.2).map fun x => (x.1.2, x.1.1, x.2.2.2)
    ScalarReady s v 7 [9] [2, 5] ∧ accessStop v.sl.mask c.2 = none ∧ templateWants v.g pieces = [] ∧
      pieces.findSome? (templateFailed v.g) = none ∧ (performAt { v with s := c.1 } 3).2 = false ∧
      ((performAt { v with s := c.1 } 3).1.context? v.ctx).map Context.st = some .resetting :=
  ⟨scalarReady_of _ _ _ _ _ ⟨rfl, rfl⟩ rfl, by decide +kernel, by decide +kernel, by decide +kernel, by decide +kernel, by decide +kernel⟩

theorem witness_SlotsAndCrews_stalled :
    let g := { kitGroup with index := 64, w0 := 6, vregs := [(1, [])], swapped := true }
    let s := kitCrowd.setGroup 64 g
    s.group? 64 = some g ∧ (s.crew? g.crew).map Crew.res = some .resident ∧ s.allocServed (s.coreOf g) g.crew g.swappedRegs = false := by
  decide +kernel

theorem witness_MessageReception_order :
    (let m := { kitMsg 2 0 1 0x10000 0 [7] with flags := 1, seq := 1 }
     kitOwned.duplicate m = false ∧ kitOwned.inOrder m = false) ∧ isNotice (kitCommand 0x50 0 [1, 0]) = true ∧
      isNotice (kitMsg 9 0 0 0 0 []) = false := by
  decide +kernel

/-! ### More of the conditions that statements divide their cases by. -/

/-- The leaf of the kit's page. -/
def kitLeaf : Leaf := { pte := 0x2802F, lvl := 4 }

/-- A lane's load that finds the line in the L1, and one that finds it nowhere; a store, and an atomic that stores, one that only reads
and one at a damaged byte. -/
theorem witness_GlobalLoads_bytes :
    (let s := (kitIdle kitGroup).l1Store 0 0 0x10000 0x28000 hintNorm 0 kitLeaf [7, 8, 9, 10] tagNone
     ∃ x, s.l1Hit 0 0 0x10000 4 .load = some x ∧ x.pline = 0x28000 / 128) ∧
      ((kitIdle kitGroup).coreSt 0).find 0 (0x10000 / 128) = none ∧
      (tblGet? (kitIdle kitGroup).replicas (replicaKey 1280 0) = none ∧ ((kitIdle kitGroup).cores.map fun c => c.2.l1.length).sum = 0) ∧
      0x10000 % 16 = 0 ∧ 0x10000 % 128 = 0x28000 % 128 ∧ pteR kitLeaf.pte = true ∧
      ((kitIdle kitGroup).regionOf 0 0x10000 kitLeaf).1 ≠ regionWeir := by
  refine ⟨⟨_, rfl, rfl⟩, rfl, ⟨rfl, rfl⟩, by decide, by decide, rfl, by decide⟩

theorem witness_GlobalAtomics_bytes :
    (let f := atomForm .add 4 6 0 3 true false
     let r := (kitIdle kitGroup).atomLane 0 0 f kitGroup tagNone 0 0x10000 0x28000 kitLeaf
     (f.n = 4 ∨ f.n = 8) ∧ r.2.2.2 = false ∧ (f.op.apply f.n r.2.1 (f.x kitGroup 0) (f.cmp kitGroup 0)).isSome = true) ∧
      (let f := atomForm .ld 4 6 0 3 false false
       let r := (kitIdle kitGroup).atomLane 0 0 f kitGroup tagNone 0 0x10000 0x28000 kitLeaf
       r.2.2.2 = false ∧ f.op.apply f.n r.2.1 (f.x kitGroup 0) (f.cmp kitGroup 0) = none) ∧
      (let f := atomForm .add 4 6 0 3 true false
       (State.atomLane { kitIdle kitGroup with bad := [0x28001] } 0 0 f kitGroup tagNone 0 0x10000 0x28000 kitLeaf).2.2.2 = true) :=
  ⟨⟨by decide, by decide +kernel, by decide +kernel⟩, ⟨by decide +kernel, by decide +kernel⟩, by decide +kernel⟩

/-- Failed remote stores that are still to report, with `%gc.asynctrap` set and clear: fences, releases and batch waits. -/
theorem witness_pending_failures :
    (let g := { kitGroup with dzwDue := [64, 128], gc := 2 }
     ScalarReady (kitWith g) (kitView 4 g kitSplit) 7 [] [2, 1] ∧ g.dzwDue = 64 :: [128] ∧ g.asynctrap = true) ∧
      (let g := { kitGroup with dzwDue := [64] }
       ScalarReady (kitWith g) (kitView 4 g kitSplit) 7 [] [4] ∧ g.asynctrap = false ∧
        (kitView 4 g kitSplit).s.opsOut 0 0 false (fun o => decide (o.batch ≤ 0)) = false) :=
  ⟨⟨with_scalar _ _ _ _ rfl rfl rfl, rfl, rfl⟩, with_scalar _ _ _ _ rfl rfl rfl, rfl, rfl⟩

/-- `lodge` and `pfg` of a private and of a remote page. -/
theorem witness_SystemFunctions_elsewhere :
    (let g := { kitScalar 2 (BitVec.ofNat 64 privateLow) with gc := 4 }
     ScalarsFull (kitView 4 g kitSplit) [2] ∧
      ∃ k, ((kitView 4 g kitSplit).s.fateOf 0 0 (g.sval 2).toNat 1 .load []).2 = .area k) ∧
      (let g := { kitGroup with gc := 4 }
       Executes 4 (kitRemote g) (kitIn (kitRemote g) g) ∧
        ∃ p x, ((kitIn (kitRemote g) g).s.fateOf 0 0 (g.sval 2).toNat 1 .load []).2 = .remote p x) ∧
      (let s := (kitIdle kitGroup).modContext 0 fun c =>
        { c with regions := [(0, { base := 0x10000, len := 128, kind := regionWeir, crest := 0x3F800000 })] }
       (s.regionOf 0 0x10000 { kitLeaf with pte := 0x2806F }).1 = regionWeir ∨ (s.regionOf 0 0x10000 kitLeaf).1 = regionWeir) :=
  ⟨⟨scalarsFull_of _ _ rfl, _, rfl⟩, ⟨⟨rfl, rfl⟩, _, _, rfl⟩, by decide +kernel⟩

/-- Requests that are not in form, or to a context that is not there or is being reset, and a page reply of a stranger. -/
theorem witness_MessageReception_refused :
    (let m := kitCommand 0x15 0 [1, 2]
     Performed kitOwned m ∧ kitOwned.fromOwner m.peer = true ∧ (Signed m → kitOwned.ownerSigned m = true) ∧
      formOk m (fun n => n == 1) true true = false) ∧
      (Ready kitOwned (kitCommand 0x15 63 [1]) 1 true ∧ kitOwned.context? 63 = none) ∧
      (let s := kitCtx fun c => { c with st := .resetting }
       Ready s (kitCommand 0x15 0 [1]) 1 true ∧ ∃ c, s.context? 0 = some c ∧ c.st = .resetting) ∧
      (let m := { kitPlain 0x1F 0 (leBytes 0x10000 8 ++ [2]) with peer := 9 }
       Performed kitOwned m ∧ kitOwned.fromOwner m.peer = false ∧ (kitOwned.context? 0).map (fun c => c.admits m.peer) = some false) := by
  refine ⟨⟨performed_of _ _ (by decide +kernel), by decide +kernel, ?_, by decide +kernel⟩, ⟨ready_of _ _ _ _ (by decide +kernel), rfl⟩,
    ⟨ready_of _ _ _ _ (by decide +kernel), _, rfl, rfl⟩, performed_of _ _ (by decide +kernel), by decide +kernel, by decide +kernel⟩
  intro s
  have o : kitOwned.owner = some { ip := 1, key := 0, lease := 30000000000 } := rfl
  simp only [State.ownerSigned, o, signedBy, Bool.and_eq_true, decide_eq_true_eq]
  exact ⟨⟨by decide +kernel, s.1⟩, s.2⟩

/-- A completion that names no request, one of a request that was sent again, and a long message. -/
theorem witness_Links_more :
    (let m := kitMsg 5 0 0 0 0 []
     Performed kitOwned m ∧ kitOwned.outstanding.find? (fun t => t.msg.peer == m.peer && t.msg.seq == m.operand && t.purpose != .answer) = none) ∧
      (kitTxn true false).again = true ∧ tooLong (kitMsg 2 0 4200 0 0 (List.replicate 4200 0)) = true ∧
      tooLong (kitMsg 1 0 8 0 0 []) = false ∧
      (let l := { kitLink 2 none with removed := [0] }
       (State.livePorts { kitOwned with links := [l] } (State.link { kitOwned with links := [l] } 1).removed).isEmpty = true) :=
  ⟨⟨performed_of _ _ rfl, rfl⟩, rfl, by decide +kernel, by decide +kernel, by decide +kernel⟩

/-- A line with a move due that has become a weir line, and one that is to leave while it moves. -/
theorem witness_DroverTurns_more :
    (let e := { kitEntry [(1280, kitWeir)] with due := some (5, 1) }
     (kitLine e).entry? 1280 = some e ∧ e.moving = none ∧ e.weir ≠ []) ∧
      (let e := { kitEntry [] with moving := some (5, 9), leaving := true }
       (kitLine e).entry? 1280 = some e ∧ e.leaving = true ∧ e.moving.isSome = true) :=
  ⟨⟨rfl, rfl, by decide⟩, rfl, rfl, rfl⟩

/-- A physical write and a load whose line's shares are held by a core: they are tried again. -/
theorem witness_shares_held :
    ((kitLine (kitEntry [(1280, kitWeir)])).askParty innkeeperParty [1280]).isSome = true ∧
      ((kitLine (kitEntry [(1281, kitWeir)])).askParty innkeeperParty [1280]).isNone = true := by
  decide +kernel


/-- A reset whose token must wait: a drain demand names the context. -/
theorem witness_SettlingErrors_more :
    State.demandsOut { kitIdle kitGroup with agenda := [.drainDemand 3 0 1280 0] } 0 = true ∧ (kitIdle kitGroup).demandsOut 0 = false ∧
      ((kitIdle kitGroup).putTakes 0 []).2 = true ∧
      (kitIdle kitGroup).context? 0 = some (placedContext 0) ∧ (placedContext 0).log.length + 17 * [(true, 3, 0)].length = 17 := by
  decide +kernel

/-! ### The dispatcher's plan. -/

/-- What waits has the seats that the cores give it, where the pool and the trees suffice. -/
theorem places_of (s : State) (rooms : List Room) (p : Pending)
    (h : ∀ r ∈ rooms, s.poolUsed + r.pool + s.poolNeed p ≤ Config.poolBytes)
    (b : (s.allOut p && rooms.all fun r => decide (r.trees + s.treeNeed p ≤ s.freeTrees.length)) = true) :
    s.places rooms p = s.seat rooms (s.needs p) := by
  simp only [Bool.and_eq_true, List.all_eq_true, decide_eq_true_eq] at b
  have c : (s.allOut p && rooms.all fun r =>
      decide (s.poolUsed + r.pool + s.poolNeed p ≤ Config.poolBytes) && decide (r.trees + s.treeNeed p ≤ s.freeTrees.length)) = true := by
    simp only [Bool.and_eq_true, List.all_eq_true, decide_eq_true_eq]
    exact ⟨b.1, fun r hr => ⟨h r hr, b.2 r hr⟩⟩
  rw [State.places, if_pos c]

/-- The machine with an opened launch of a waybill and room for it. -/
theorem places_opened (w : List Byte) (p : Pending) (rooms : List Room)
    (h : ∀ r ∈ rooms, r.pool + (kitTaken w .opened).poolNeed p ≤ Config.poolBytes) (b : ((kitTaken w .opened).allOut p &&
      rooms.all fun r => decide (r.trees + (kitTaken w .opened).treeNeed p ≤ (kitTaken w .opened).freeTrees.length)) = true) :
    (kitTaken w .opened).places rooms p = (kitTaken w .opened).seat rooms ((kitTaken w .opened).needs p) := by
  refine places_of _ rooms p (fun r hr => ?_) b
  have e : (kitTaken w .opened).poolUsed = 0 := rfl
  have := h r hr
  omega

/-- A launch of one crew on core 0, and a gated one: each waits alone, has a seat on core 0 and is seated there by name. -/
theorem witness_OpeningLaunches (h : crewPrivate (kitBill 0 []) ≤ Config.poolBytes) :
    (let s := kitTaken (kitBill 0 []) .ready
     (s.choose.map fun x => (x.1, (x.2.launch? x.1).isSome, x.2.placementSet (x.2.wbOf x.1))) = some (launchKey 0 1, true, [0])) ∧
      (let s := kitTaken (kitBill 0x72 [132, 3]) .ready
       (s.choose.map fun x => (x.1, (x.2.launch? x.1).isSome, x.2.placementSet (x.2.wbOf x.1))) = some (launchKey 0 1, true, [])) ∧
      (let w := kitBill 0x2F [1]
       wbGated w = true ∧ crewTotal w ≤ (((kitTaken w .ready).placementSet w).map fun _ => roomFor (0, 0, 0) w).sum) ∧
      (∀ w ∈ [kitBill 0 [], kitBill 0x2F [1]],
        let s := kitTaken w .opened
        let p := Pending.launch (launchKey 0 1)
        s.pending = [p] ∧ s.halting = [] ∧ s.needs p = [([0], 1, 4096, 16)] ∧ s.coreOpen 0 = true ∧
          s.places [.asIs, .asIs] p = some [(0, 1, 4096, 16)] ∧ s.plan.1 = some (p, [(0, 1, 4096, 16)]) ∧
          s.seatsFor p = some [(0, 1, 4096, 16)] ∧ s.seatsOn p 0 = some [(0, 1, 4096, 16)] ∧
          loadFits (addLoad (s.coreLoad 0 []) (1, 4096, 16)) = true) ∧
      (wbGated ((kitTaken (kitBill 0 []) .opened).wbOf (launchKey 0 1)) = false ∧
        wbGated ((kitTaken (kitBill 0x2F [1]) .opened).wbOf (launchKey 0 1)) = true ∧
        (kitTaken (kitBill 0x2F [1]) .opened).freeTrees = 0 :: (List.range 16).drop 1) ∧
      (let b : Batch := { template := 0, id := 2, wb := kitBill 0 [], table := [0], openedAt := 0 }
       ∃ c, ((kitPosted (kitBill 0 [])).modContext 0 fun c => { c with batches := [b] }).context? 0 = some c ∧ c.batches = [b] ∧
        c.st = .running) := by
  refine ⟨by decide +kernel, by decide +kernel, ⟨rfl, by decide +kernel⟩, ?_, ⟨rfl, rfl, rfl⟩, _, rfl, rfl, rfl⟩
  intro w hw s p
  have fit : ∀ r ∈ [Room.asIs, Room.asIs], r.pool + s.poolNeed p ≤ Config.poolBytes := by
    intro r hr
    simp only [List.mem_cons, List.not_mem_nil, or_false, or_self] at hr hw
    subst hr
    have e : s.poolNeed p = crewPrivate (kitBill 0 []) := by
      rcases hw with rfl | rfl <;> decide +kernel
    rw [e, show Room.asIs.pool = 0 from rfl]
    omega
  simp only [List.mem_cons, List.not_mem_nil, or_false] at hw
  have q : s.pending = [p] ∧ s.halting = [] ∧ s.needs p = [([0], 1, 4096, 16)] ∧ s.coreOpen 0 = true ∧
      s.seat [.asIs, .asIs] [([0], 1, 4096, 16)] = some [(0, 1, 4096, 16)] ∧
      s.seat [.asIs, .asIs] [([0, 0], 1, 4096, 16)] = some [(0, 1, 4096, 16)] ∧ (s.allOut p &&
        [Room.asIs, Room.asIs].all fun r => decide (r.trees + s.treeNeed p ≤ s.freeTrees.length)) = true ∧
      loadFits (addLoad (s.coreLoad 0 []) (1, 4096, 16)) = true := by
    rcases hw with rfl | rfl <;> decide +kernel
  have pl : s.places [.asIs, .asIs] p = some [(0, 1, 4096, 16)] := by
    rw [places_opened w p _ fit q.2.2.2.2.2.2.1, q.2.2.1, q.2.2.2.2.1]
  have pg : s.planning = (some (p, [(0, 1, 4096, 16)], Room.asIs), []) := by
    simp only [State.planning, q.1, q.2.1, State.planFor]
    rw [show ({ Room.asIs with gone := [] } : Room) = .asIs from rfl, pl]
  refine ⟨q.1, q.2.1, q.2.2.1, q.2.2.2.1, pl, by simp [State.plan, pg], by simp [State.seatsFor, State.plan, pg], ?_, q.2.2.2.2.2.2.2⟩
  simp [State.seatsOn, pg, q.2.2.1, preferring, q.2.2.2.2.2.1]

/-- A crew of low priority that fills the scratch memory of core 0, and a launch of a higher one that waits for it. -/
def kitLower : State :=
  let s := kitLaunched kitGroup (kitWaybill 0x30 (leBytes 0x100000 4))
  { s with launches := s.launches ++ [(launchKey 0 2, Launch.new 0 2 0 0 (kitBill 0x3C [9]) .opened false 1)] }

theorem witness_OpeningLaunches_victim (h : kitLower.poolUsed + crewPrivate (kitBill 0x3C [9]) ≤ Config.poolBytes) :
    let s := kitLower
    let p := Pending.launch (launchKey 0 2)
    s.pending = [p] ∧ s.victims p = [(0, placedCrew)] ∧ s.plan.2 = [0] := by
  intro s p
  have q : s.pending = [p] ∧ s.victims p = [(0, placedCrew)] ∧ s.halting = [] ∧ s.poolNeed p = crewPrivate (kitBill 0x3C [9]) ∧
      s.needs p = [([0], 1, 4096, 16)] ∧ s.allOut p = true ∧ s.treeNeed p = 0 ∧ s.withGate (0, placedCrew) = [0] ∧
      s.seat [.asIs, .asIs] [([0], 1, 4096, 16)] = none ∧ s.seat [.asIs] [([0], 1, 4096, 16)] = none ∧
      s.seat [{ Room.asIs with gone := [0] }] [([0], 1, 4096, 16)] = some [(0, 1, 4096, 16)] := by
    decide +kernel
  obtain ⟨q1, q2, q3, q4, q5, q6, q7, q8, q9, q10, q11⟩ := q
  have pl : ∀ rooms : List Room, (∀ r ∈ rooms, r.pool = 0 ∧ r.trees = 0) → s.places rooms p = s.seat rooms [([0], 1, 4096, 16)] := by
    intro rooms hr
    rw [places_of s rooms p, q5]
    · intro r m
      rw [(hr r m).1, q4, Nat.add_zero]
      exact h
    · simp only [q6, q7, Bool.true_and, List.all_eq_true, decide_eq_true_eq]
      intro r m
      rw [(hr r m).2]
      exact Nat.zero_le _
  have c0 : s.places [.asIs, .asIs] p = none := by rw [pl _ (by simp [Room.asIs]), q9]
  have c1 : s.places [.asIs] p = none := by rw [pl _ (by simp [Room.asIs]), q10]
  have c2 : s.places [{ Room.asIs with gone := [0] }] p = some [(0, 1, 4096, 16)] := by rw [pl _ (by simp [Room.asIs]), q11]
  have cv : s.chooseVictims p .asIs [] [(0, placedCrew)] = some ([0], [(0, 1, 4096, 16)]) := by
    change (match s.places [.asIs] p with
      | some l => some ([], l)
      | none => s.chooseVictims p .asIs ([] ++ (s.withGate (0, placedCrew)).filter fun x =>
          !List.contains [] x && !List.contains Room.asIs.gone x) []) = _
    rw [c1, q8]
    exact congrArg (Option.map fun l => ([0], l)) c2
  have pg : s.planning.2 = [0] := by
    simp only [State.planning, q1, q3, State.planFor, q2]
    rw [show ({ Room.asIs with gone := [] } : Room) = .asIs from rfl, c0, cv]
    rfl
  exact ⟨q1, q2, by rw [State.plan, pg]⟩

/-- Crews and groups that stay, leave and have left. -/
theorem witness_SlotsAndCrews :
    (∀ run ∈ [1023, 1024], let g := { kitGroup with slotA := some { kitSplit with run := run }, spilled := [kitHalf 0xF0] }
      (kitIdle g).group? 0 = some g ∧ g.slot false = some { kitSplit with run := run } ∧
        takePending g.spilled = some (kitHalf 0xF0, [])) ∧
      (kitCrowd.swapChoice 0 = some 0 ∧ kitCrowd.pool 0 = 0) ∧
      ((kitIdle kitGroup).loadsOut 0 kitGroup = false ∧ (kitIdle kitGroup).loadsOut 0 { kitGroup with arriving := [(0, [])] } = true) ∧
      (let g := { kitGroup with swapped := true }
       (kitIdle g).group? 0 = some g ∧ (kitIdle g).allocServed 0 g.crew g.swappedRegs = true ∧ kitCrowd.allocServed 0 0 g.swappedRegs = false) ∧
      ((kitIdle kitGroup).crew? 0 = some placedCrew ∧ placedCrew.res = .resident ∧ (kitIdle kitGroup).toLeave 0 placedCrew = false ∧
        ((kitIdle kitGroup).modCore 0 fun c => { c with testing := true }).toLeave 0 placedCrew = true ∧
        (kitIdle kitGroup).mates 0 placedCrew = [(0, placedCrew)]) ∧
      (let s := (kitLaunched kitGroup (kitWaybill 0x2F [1])).setCrew 1 { placedCrew with core := 1 }
       wbGated (s.wbOf placedCrew.launch) = true ∧ (s.mates 0 placedCrew).map (fun x => x.1) = [0, 1]) ∧
      (let c := { placedCrew with res := .halting }
       let s := (kitIdle kitGroup).setCrew 0 c
       s.crew? 0 = some c ∧ wbGated (s.wbOf c.launch) = false ∧ s.crewSettled c = true ∧
        ((kitIdle { kitGroup with arriving := [(0, [])] }).setCrew 0 c).crewSettled c = false) := by
  refine ⟨?_, by decide +kernel, ⟨rfl, rfl⟩, ⟨rfl, by decide +kernel, by decide +kernel⟩,
    ⟨rfl, rfl, by decide +kernel, by decide +kernel, by decide +kernel⟩, ⟨by decide +kernel, by decide +kernel⟩, rfl, by decide +kernel, rfl, rfl⟩
  intro run hr
  simp only [List.mem_cons, List.not_mem_nil, or_false] at hr
  rcases hr with rfl | rfl <;> exact ⟨rfl, rfl, rfl⟩

/-- A saved crew whose seat is its core; crews of one core of which one is halting; a rotation that must not be: the split waits at its
instruction, or its slot is frozen; and a halt that a fault ends. -/
theorem witness_SlotsAndCrews_saved (h : (kitIdle kitGroup).poolUsed ≤ Config.poolBytes) :
    (let c := { placedCrew with res := .shadow }
     let s := (kitIdle kitGroup).setCrew 0 c
     let p := Pending.crew 0
     s.crew? 0 = some c ∧ s.pending = [p] ∧ s.seatsFor p = some [(0, 1, 4096, 16)] ∧ s.plan.1 = some (p, [(0, 1, 4096, 16)]) ∧
       s.returning 0 c = [(0, c)] ∧ (s.physOf c.core).isSome = true) ∧
      ({ kitSplit with run := 1024, since := some (0, 3) } : Split).since ≠ none ∧
      ({ kitGroup with handler := some { slotB := true, other := true, lanes := 1 } } : Group).frozen false = true ∧
      (let s := (kitIdle kitGroup).setCrew 1 { placedCrew with res := .halting }
       s.preempting [0] = true ∧ (kitIdle kitGroup).preempting [0] = false) ∧
      ({ placedCrew with res := .ending } : Crew).res = .ending := by
  refine ⟨?_, by decide, by decide, ⟨by decide +kernel, by decide +kernel⟩, rfl⟩
  intro c s p
  have q : s.pending = [p] ∧ s.halting = [] ∧ s.poolUsed = (kitIdle kitGroup).poolUsed ∧ s.poolNeed p = 0 ∧ s.needs p = [([0], 1, 4096, 16)] ∧
      s.seat [.asIs, .asIs] [([0], 1, 4096, 16)] = some [(0, 1, 4096, 16)] ∧ (s.allOut p &&
        [Room.asIs, Room.asIs].all fun r => decide (r.trees + s.treeNeed p ≤ s.freeTrees.length)) = true := by
    decide +kernel
  obtain ⟨q1, q2, q3, q4, q5, q6, q7⟩ := q
  have pl : s.places [.asIs, .asIs] p = some [(0, 1, 4096, 16)] := by
    rw [places_of s _ p (by
      intro r m
      simp only [List.mem_cons, List.not_mem_nil, or_false, or_self] at m
      rw [m, q3, q4]
      exact h) q7, q5, q6]
  have pg : s.plan.1 = some (p, [(0, 1, 4096, 16)]) := by
    simp only [State.plan, State.planning, q1, q2, State.planFor]
    rw [show ({ Room.asIs with gone := [] } : Room) = .asIs from rfl, pl]
    rfl
  exact ⟨rfl, q1, by simp [State.seatsFor, pg], pg, by decide +kernel, by decide +kernel⟩

/-! ### Values of FP32. -/

/-- 1 and −1, toward −∞ and to nearest: sums, products and fused forms that are zero and that are not; a denormal and its zero. -/
theorem witness_FloatRounding :
    (2 < 4 ∧ Fin32 0x3F800000 ∧ Fin32 0xBF800000 ∧ Fin32 0) ∧
      (units32 0x3F800000 + units32 0x3F800000 ≠ 0 ∧ units32 0x3F800000 + units32 0xBF800000 = 0 ∧ units32 0 + units32 0 = 0) ∧
      (units32 0x3F800000 * units32 0xBF800000 ≠ 0 ∧ units32 0x3F800000 * units32 0 = 0) ∧
      (units32 0x3F800000 * units32 0xBF800000 + units32 0xBF800000 * 2 ^ 149 ≠ 0 ∧
        units32 0x3F800000 * units32 0xBF800000 + units32 0x3F800000 * 2 ^ 149 = 0) ∧
      flush32 0x00000001 ≠ 0x00000001 ∧ flush32 (f32Mul 0 false (flush32 0x00800000) (flush32 0x3F000000)).1 ≠
        (f32Mul 0 false (flush32 0x00800000) (flush32 0x3F000000)).1 ∧ flush32 0x3F800000 = 0x3F800000 := by
  simp only [Fin32]
  decide +kernel

/-- NaNs, quiet and signalling, infinities, and invalid products; magnitudes in both orders; 2.5, a tie; and words of the narrow
formats of each kind. -/
theorem witness_FloatValues :
    (Nan32 0x7FC00000 ∧ ¬ Sig32 0x7FC00000 ∧ Nan32 0x7F800001 ∧ Sig32 0x7F800001 ∧ ¬ Sig32 0) ∧
      (¬ Fin32 0x7F800000 ∧ ¬ Nan32 0x7F800000 ∧ ¬ Fin32 0xFF800000 ∧ ¬ Nan32 0xFF800000 ∧ Fin32 0 ∧ mag32 0 = 0 ∧ Fin32 0x3F800000 ∧
        mag32 0x3F800000 ≠ 0) ∧
      (order32 0x80000000 < order32 0 ∧ natBits (0x80000000 : Word).toNat 30 0 = 0 ∧ order32 0xBF800000 < order32 0x3F800000) ∧
      (let u := units32 0x40200000
       2 * (u - 2 * 2 ^ 149).natAbs = 2 ^ 149 ∧ 2 * (units32 0x40400000 - 3 * 2 ^ 149).natAbs < 2 ^ 149) ∧
      (let lo : Int := -2147483648
       let hi : Int := 2147483647
       3000000000 > hi ∧ (-3000000000 : Int) < lo ∧ (5 : Int).natAbs < 2 ^ 32) ∧
      (natBits 0x7F80 14 7 = 2 ^ 8 - 1 ∧ 0x7F80 % 2 ^ 7 = 0 ∧ natBits 0x7F81 14 7 = 2 ^ 8 - 1 ∧ 0x7F81 % 2 ^ 7 ≠ 0 ∧
        natBits 0x3F80 14 7 ≠ 2 ^ 8 - 1 ∧ natBits 0x7F 6 3 = 2 ^ 4 - 1 ∧ 0x7F % 2 ^ 3 = 2 ^ 3 - 1 ∧ 0x7E % 2 ^ 3 ≠ 2 ^ 3 - 1) ∧
      (f32Narrow bf16 false 0x3F818000).2.getLsbD 3 = true ∧ (f32Narrow bf16 false 0x3F800000).2.getLsbD 3 = false := by
  simp only [Nan32, Sig32, Fin32]
  decide +kernel

/-- A tree of sums that starts from a register's lanes. -/
theorem witness_Reductions_tree (v : View) (a : Nat) :
    ∃ sum : Nat → Nat → Word × Flags, (∀ l, sum 0 l = (if v.sl.mask.getLsbD l then v.lane a l else 0, 0)) ∧
      ∀ k i, sum (k + 1) i =
        let x := sum k (2 * i)
        let y := sum k (2 * i + 1)
        ((f32Add 0 v.ftz x.1 y.1).1, (f32Add 0 v.ftz x.1 y.1).2 ||| x.2 ||| y.2) :=
  ⟨fun k => Nat.rec (fun l => (if v.sl.mask.getLsbD l then v.lane a l else 0, 0)) (fun _ f i =>
    ((f32Add 0 v.ftz (f (2 * i)).1 (f (2 * i + 1)).1).1,
      (f32Add 0 v.ftz (f (2 * i)).1 (f (2 * i + 1)).1).2 ||| (f (2 * i)).2 ||| (f (2 * i + 1)).2)) k, fun _ => rfl, fun _ _ => rfl⟩

/-! ### Control flow. -/

/-- `brxr` at a target that is odd, or beyond the address space, and at a good target with such a rejoin register. -/
theorem witness_Branches_targets :
    (Executes 4 kit kv ∧ Named kv [] [1, 2] ∧ ScalarsFull kv [1, 2] ∧ (kv.g.sval 1).toNat % 2 = 1) ∧
      (Named kv [] [2, 1] ∧ ScalarsFull kv [2, 1] ∧ (kv.g.sval 2).toNat % 2 = 0 ∧ (kv.g.sval 2).toNat < 2 ^ 56) ∧
      ∃ g, Executes 4 (kitWith g) (kitView 4 g kitSplit) ∧ Named (kitView 4 g kitSplit) [] [1, 2] ∧
        ScalarsFull (kitView 4 g kitSplit) [1, 2] ∧ (g.sval 1).toNat % 2 = 0 ∧ 2 ^ 56 ≤ (g.sval 1).toNat :=
  ⟨⟨kv_executes, named_of _ _ _ rfl, scalarsFull_of _ _ rfl, rfl⟩,
    ⟨named_of _ _ _ rfl, scalarsFull_of _ _ rfl, rfl, by decide⟩, kitScalar 1 0x0100000000000000, kit_executes 4 _ _ rfl rfl,
    named_of _ _ _ rfl, scalarsFull_of _ _ rfl, rfl, by decide⟩

/-- Traps that restart an idempotent region and that do not; a group that must fault its context, and contexts that are running and
faulted. -/
theorem witness_HandlersAndFaults_faults :
    (let g := { kitGroup with region := some { mask := 0xFF, fm := 0, restarts := 2, firstOp := 0 } }
     restarts g causeUCE = true ∧ restarts g causeALIGN = false ∧
       restarts { g with region := some { mask := 0xFF, fm := 0, restarts := 3, firstOp := 0 } } causeSOFT = false) ∧
      (wbHandler ((kitIdle kitGroup).groupWb kitGroup) = false) ∧
      (∃ c, (kitIdle kitGroup).context? ((kitIdle kitGroup).ctxOf kitGroup) = some c ∧ c.st = .running) ∧
      (let s := (kitIdle kitGroup).modContext 0 fun c => { c with st := .faulted, unhalted := [0] }
       ∃ c, s.context? (s.ctxOf kitGroup) = some c ∧ c.st ≠ .running ∧ s.goesOn 0 0 = true ∧ s.goesOn 0 1 = false) :=
  ⟨⟨rfl, rfl, rfl⟩, rfl, ⟨_, rfl, rfl⟩, _, rfl, by decide, rfl, rfl⟩

/-- `exit` with a lane phase open; as the last split of a record's half, the other having arrived or not; with engine operations out;
and with a batch that failed. -/
theorem witness_TrapYieldExit_open :
    (let g := { kitGroup with lanePhase := some { members := 0xFC, arrived := 0xF0 } }
     let v := kitView 4 g kitSplit
     Executes 4 (kitWith g) v ∧ v.acting 0 ≠ 0 ∧ (performAt v 4).2 = false ∧ v.sl.mask &&& ~~~(v.acting 0) ≠ 0 ∧
       ¬ fullMask v.width &&& ~~~(v.g.exited ||| v.acting 0) = 0) ∧
      (∀ arrived ∈ [(0xF0 : DWord), 0], let g := kitSplitGroup 0x0F 0x10040 arrived none []
       let v := kitView 4 g (kitHalf 0x0F)
       let left := exitRecords (v.acting 7) g.records
       Executes 4 (kitWith g) v ∧ v.acting 7 ≠ 0 ∧ (performAt v 4).2 = false ∧ v.sl.mask &&& ~~~(v.acting 7) = 0 ∧
         ¬ fullMask v.width &&& ~~~(v.g.exited ||| v.acting 7) = 0 ∧
         standing g.records left (g.records.length + 1) v.sl.link = some 0 ∧
         ∃ r, tblGet? left 0 = some r ∧ r.union &&& ~~~r.arrived = 0xF0 &&& ~~~arrived) ∧
      (let v := kitView 4 kitGroup kitSplit
       let s := { kitQueues kitGroup [kitOp false 1] [] with cur := none }
       State.opsOut s v.core v.gid false (fun _ => true) = true) ∧
      (let f : Failure := { matrix := false, num := 0, batch := 0, code := 5, addr := 64 }
       let g := { kitGroup with failures := [f], gc := 2 }
       Executes 4 (kitWith g) (kitView 4 g kitSplit) ∧ g.asynctrap = true ∧ earliest g.failures = some f) := by
  refine ⟨⟨kit_executes 4 _ _ rfl rfl, by decide, rfl, by decide, by decide⟩, ?_, rfl, kit_executes 4 _ _ rfl rfl, rfl, rfl⟩
  intro a ha
  simp only [List.mem_cons, List.not_mem_nil, or_false] at ha
  rcases ha with rfl | rfl <;>
    exact ⟨kit_executes 4 _ _ rfl rfl, by decide, rfl, by decide, by decide, rfl, _, rfl, by decide⟩

/-! ### Queues, watches and weir lines. -/

/-- The kit's crew with a queue at whose ends splits sleep. -/
def kitSleepers (occ : Nat) (pushers poppers : List (Nat × Bool)) : State :=
  kit.setCrew 0 { placedCrew with queues := [(15, { base := 4088, depth := 2, head := 1, occ := occ, pushers := pushers, poppers := poppers })] }

/-- Operations on a queue that is not there, `qinit` at a bad base and on a queue with a sleeper, a split that sleeps with a guard
that has become false, that is served and that is not, and the try forms behind a sleeper. -/
theorem witness_QueueOperations_sleepers :
    (kv.s.crew? kv.g.crew = some placedCrew ∧ tblGet? placedCrew.queues 15 = none ∧ ScalarReady kit kv 7 [] [1] ∧
      ScalarReady kit kv 7 [1] []) ∧
      ((kv.g.sval 1).toNat % 4 ≠ 0 ∧
        (let g := kitScalar 1 4096
         ScalarReady (kitWith g) (kitView 4 g kitSplit) 7 [] [1] ∧ (g.sval 1).toNat % 4 = 0 ∧
           ¬ (g.sval 1).toNat + 4 * 64 ≤ wbScratch (kitView 4 g kitSplit).wb) ∧
        (let g := kitScalar 1 3840
         (g.sval 1).toNat % 4 = 0 ∧ (g.sval 1).toNat + 4 * 64 ≤ wbScratch (kitView 4 g kitSplit).wb)) ∧
      (∀ x ∈ [(kitSleepers 1 [(0, false)] [], true), (kitSleepers 1 [] [(0, false)], true), (kitSleepers 1 [(1, false)] [], false),
          (kitSleepers 0 [] [], false)],
        let v := kitIn x.1 kitGroup
        Executes 4 x.1 v ∧ Named v [] [1] ∧ ScalarsFull v [1] ∧ v.unperformed v.s = false ∧ v.sleepsOn 15 = x.2) ∧
      (kv.g.cpred 6 = false ∧ [((0 : Nat), false)].head? = some (kv.gid, kv.slotB) ∧
        [((1 : Nat), false)].head? ≠ some (kv.gid, kv.slotB) ∧ 2 ≤ 1 + [((1 : Nat), false)].length ∧ 1 ≤ [((1 : Nat), false)].length) := by
  refine ⟨⟨rfl, rfl, kit_scalar _ _ _ rfl, kit_scalar _ _ _ rfl⟩, ⟨by decide, ⟨with_scalar _ _ _ _ rfl rfl rfl, by decide, by decide⟩,
    by decide, by decide⟩, ?_, by decide⟩
  intro x hx
  simp only [List.mem_cons, List.not_mem_nil, or_false] at hx
  rcases hx with rfl | rfl | rfl | rfl <;>
    exact ⟨⟨rfl, rfl⟩, named_of _ _ _ rfl, scalarsFull_of _ _ rfl, rfl, rfl⟩

/-- `marm` and `lodge` of an address that is not mapped, of one beyond the address space, and of a page that may not be read. -/
theorem witness_Monitors_denied :
    (∃ q, (kv.s.fateOf kv.core kv.ctx (kv.g.sval 1).toNat 1 .load kv.sl.verdicts).2 = .held q) ∧ ScalarReady kit kv 7 [] [1] ∧
      (let g := { kitScalar 1 0x0100000000000000 with gc := 4 }
       let v := kitView 4 g kitSplit
       ScalarReady (kitWith g) v 7 [] [1] ∧ v.g.gc.getLsbD 2 = true ∧ Named v [] [9, 1] ∧ ScalarsFull v [1] ∧
         (v.s.fateOf v.core v.ctx (v.g.sval 1).toNat 1 .load v.sl.verdicts).2 = .cause causeADDR) ∧
      (let g := { kitGroup with gc := 4 }
       let v := kitView 4 g kitSplit
       Executes 4 (kitWith g) v ∧ ∃ q, (v.s.fateOf v.core v.ctx (v.g.sval 1).toNat 1 .load v.sl.verdicts).2 = .held q) :=
  ⟨⟨_, rfl⟩, kit_scalar _ _ _ rfl, ⟨with_scalar _ _ _ _ rfl rfl rfl, rfl, named_of _ _ _ rfl, scalarsFull_of _ _ rfl, rfl⟩,
    kit_executes 4 _ _ rfl rfl, _, rfl⟩

/-- The kit whose page is a weir region, with an entry of its first line and a delta line of the kit's core. -/
def kitWeirPage (weir : Tbl WeirRec) (delta : Option Delta) : State :=
  let s := kit.modContext 0 fun c => { c with regions := [(0, { base := 0x10000, len := 128, kind := regionWeir, crest := 0x3F800000 })] }
  let s1 := { s with dir := [(1280, kitEntry weir)] }
  (delta.map fun d => s1.setDelta 0 d).getD s1

/-- A delta line of the kit's core that holds a share and 2.0 for the line's first element. -/
def kitHeld : Delta := { Delta.new 0 1280 512 with st := .holding, kind := 1, touched := 1, delta := [(0, 0x40000000)] }

/-- What the lines that an access of the kit's page reads, writes or adds to ask for, and whether they have to wait. -/
def weirAsks (s : State) : Nat × Bool × Bool × Bool :=
  let v := kitIn s kitGroup
  let c := Fates v 4 .load (v.acting 7) fun l => 0x10000 + 16 * l
  let weirs := weirLines c.1 v.ctx c.2
  (weirs.length, (accessStop (v.acting 7) c.2).isNone,
    (c.1.askLines v.core v.ctx v.party (fun u x => u.weirRead v.core x v.party (some 0)) weirs).isSome,
    (c.1.askLines v.core v.ctx v.party (fun u x => u.weirWrite x v.party) weirs).isSome)

/-- A weir line with no record, with a record of no holder, with a holder on another core, and with an addition of the own core that
waits: a load under no tolerance at all goes on where no share is dirty, a store where there is no holder. -/
theorem witness_WeirAccesses_asked :
    [kitWeirPage [] none, kitWeirPage [(1280, WeirRec.new 0x3F800000)] (some kitHeld),
      kitWeirPage [(1280, { WeirRec.new 0x3F800000 with holders := [(5, 0, 0x3E800000, true)] })] none,
      kitWeirPage [(1280, WeirRec.new 0x3F800000)] (some { kitHeld with waiting := [(0, 1, true)] })].map weirAsks =
    [(1, true, false, false), (1, true, false, false), (1, true, true, true), (1, true, true, true)] := by
  decide +kernel

/-- The instructions that read, write and add to that line are ready; an addition that must wait for its order, and one that need not. -/
theorem witness_WeirAccesses :
    (let s := kitWeirPage [] none
     let v := kitIn s kitGroup
     LaneReady 4 s v 7 [9] [2] [4] ∧ LaneReady 4 s v 7 [9] [6, 7] [4] ∧ v.acting 7 ≠ 0 ∧ ScalarReady s v 7 [9] [2] ∧
       v.g.cpred 7 = true ∧ Named v [2, 9] [4] ∧ LanesFull v (v.acting 7) [1, 2] ∧ ScalarsFull v [4]) ∧
      (let f := atomForm .fadd 1 6 0 3 true false
       let s := kitWeirPage [] none
       let v := kitIn s kitGroup
       let c := Fates v f.n f.op.need (v.acting 7) fun l => (v.lane (f.a + 1) l).toNat * 2 ^ 32 + (v.lane f.a l).toNat
       Executes 4 s v ∧ Named v (f.resultRegs ++ ([f.a, f.a + 1] ++ f.valueRegs)) [] ∧
         LanesFull v (v.acting 7) ([f.a, f.a + 1] ++ f.valueRegs) ∧ Served v (v.acting 7) f.resultRegs ∧ f.result = false ∧
         accessStop (v.acting 7) c.2 = none ∧ v.g.dzwDue = [] ∧
         (orderWait v c.1 f.ord f.scope [] (weirLines c.1 v.ctx c.2) false).2 = false) ∧
      (let v := kitIn (kitWeirPage [(1280, WeirRec.new 0x3F800000)] (some { kitHeld with waiting := [(0, 1, true)] })) kitGroup
       (orderWait { v with g := { v.g with remoteOut := 1 } } v.s 2 3 [] [] false).2 = true) := by
  refine ⟨⟨laneReady_of _ _ _ _ _ _ _ ⟨rfl, rfl⟩ rfl, laneReady_of _ _ _ _ _ _ _ ⟨rfl, rfl⟩ rfl, by decide,
    scalarReady_of _ _ _ _ _ ⟨rfl, rfl⟩ rfl, rfl, named_of _ _ _ rfl, lanesFull_of _ _ _ rfl, scalarsFull_of _ _ rfl⟩,
    ⟨⟨rfl, rfl⟩, named_of _ _ _ rfl, lanesFull_of _ _ _ rfl, by unfold Served; decide +kernel, rfl, by decide +kernel, rfl, by decide +kernel⟩, ?_⟩
  decide +kernel

/-- Lanes of a weir line with and without a delta line, of each kind; records whose service is another's, the party's own, and free;
holders of which one has the largest share; and the tolerances. -/
theorem witness_WeirAccesses_lanes :
    (let s := { kitWeirPage [] none with cur := none }
     (s.regionOf 0 0x10000 kitLeaf).1 = regionWeir ∧
       (((s.noteSheaf kitLeaf 1280).unalias 0 0 lineEnd 1280).lodge 1280 (some 0) (some 0)).delta? 0 0 1280 = none) ∧
      (∀ kind ∈ [1, 2], let s := { kitWeirPage [] (some { kitHeld with kind := kind }) with cur := none }
       ((((s.noteSheaf kitLeaf 1280).unalias 0 0 lineEnd 1280).lodge 1280 (some 0) (some 0)).delta? 0 0 1280).map
         (fun x => (x.kind, x.touched)) = some (kind, 1)) ∧
      ((atomForm .fadd 1 6 0 3 true false).result = false ∧ (atomForm .add 1 6 0 3 true false).n = 4) ∧
      (∀ w ∈ [WeirRec.new 0x3F800000, { WeirRec.new 0x3F800000 with service := some (0, 4) }],
        (kitWeirPage [(1280, w)] none).weirRec? 1280 = some w ∧ w.sluicing = []) ∧
      (let l : List (Nat × Nat × Nat) := [(5, 0, 8), (6, 0, 16)]
       (l.map fun h => h.2.2).sum ≤ 24 ∧ 8 < (l.map fun h => h.2.2).sum ∧
         (∀ x ∈ l, x ≠ (6, 0, 16) → x.2.2 < 16 ∨ (x.2.2 = 16 ∧ 6 < x.1)) ∧
         ∀ x ∈ [((5 : Nat), (0 : Nat), (16 : Nat)), (6, 0, 16)], x ≠ (5, 0, 16) → x.2.2 < 16 ∨ (x.2.2 = 16 ∧ 5 < x.1)) ∧
      (Nan32 0x7FC00000 ∧ (0xBF800000 : Word).getLsbD 31 = true ∧ Fin32 0x3F800000 ∧ (0x3F800000 : Word).getLsbD 31 = false) := by
  simp only [Nan32, Fin32]
  decide +kernel

/-! ### Hosts, the wafer's events and the engines. -/

/-- How a path ends: with a status, in an area, or in memory. -/
def pathEnd : HostPath → Nat
  | .deny _ st => st
  | .area _ => 100
  | .mem _ _ => 200

/-- A sender of no rights, a context that is being reset, doorbells, private bytes read and written, bytes outside the windows, a page
that is absent, one that is malformed, one that is remote, and one that the host may not write. -/
theorem witness_HostPaths :
    (let paths (s : State) (a : Nat) (n : Nat) (read write : Bool) (peer : BitVec 128) : Nat :=
       pathEnd (s.hostPath { kitMsg 1 0 8 (BitVec.ofNat 64 a) 0 [] with peer := peer } n true read write)
     let entry (x : Nat) : State :=
       { kitHosted with mem := memWriteBytes kitHosted.mem (0x20000 + 8 * tableIndex placedVa 4) (leBytes x 8) }
     let wide : State := kitHosted.modContext 0 fun c => { c with windows := [(0, { base := 0x10000, len := 0x10000, perm := 3 })] }
     [paths kitHosted 0x10000 8 true false 9, paths (kitHosted.modContext 0 fun c => { c with st := .resetting }) 0x10000 8 true false 1,
       paths kitHosted 0x00FFFFFFFFFFFF08 8 true false 1, paths kitHosted 0x00FFFFFFFFFFFF08 8 true false 9,
       paths kitHosted privateLow 8 false true 1, paths kitHosted privateLow 8 true false 1,
       paths kitHosted (privateLow + 0x10000) 8 true false 1, paths kitHosted 0x17FFC 8 true false 1,
       paths wide 0x17FFC 8 true false 1, paths (entry 0x8020) 0x10000 8 true false 1, paths (entry 0x281A7) 0x10000 8 true false 1,
       paths (entry 0x2802F) 0x10000 8 false true 1, paths (entry 0x2802F) 0x10000 8 true false 1, paths (entry 0x2822F) 0x10000 8 true false 1] =
     [3, 5, 1, 3, 3, 100, 2, 2, 3, 3, 3, 3, 200, 1]) ∧
      kitHosted.context? 63 = none ∧
      (∃ c, kitHosted.context? 0 = some c ∧ c.st ≠ .resetting ∧ c.admits 1 = true ∧ c.admits 9 = false ∧ c.violations.length < 64) ∧
      kitHosted.fromOwner 9 = false ∧ kitHosted.fromOwner 1 = true ∧
      (List.replicate 64 (0 : DWord)).length = 64 := by
  refine ⟨by decide +kernel, rfl, ⟨_, rfl, by decide, by decide, by decide, by decide⟩, by decide, by decide, rfl⟩

/-- A core that is dressed and from which all crews have gone: nothing of its additions is left, or a delta line that asks; spares that
are free, and none; and a launch that awaits the core's dressing. -/
theorem witness_WaferEvents_dressing :
    (let s : State := State.modCore { kitIdle kitGroup with crews := [] } 0 fun c => { c with testing := true }
     (s.coreSt 0).testing = true ∧ s.residents 0 = [] ∧ (s.emptyCore 0).emptied 0 = true ∧ s.awaiting 0 = [] ∧
       ((s.setDelta 0 (Delta.new 0 1280 512)).emptyCore 0).emptied 0 = false) ∧
      ((kitIdle kitGroup).physOf 0 = some 0 ∧ (kitIdle kitGroup).spareFor 0 = some 14 ∧
        State.spareFor { kitIdle kitGroup with usedSpares := (kitIdle kitGroup).part.unnumbered.map fun x => x.1 } 0 = none) ∧
      (let s : State := { kitIdle kitGroup with launches := tblMap (fun _ (l : Launch) => { l with unconfirmed := [0] }) (kitIdle kitGroup).launches }
       s.awaiting 0 = [launchKey 0 1] ∧ (s.launch? (launchKey 0 1)).isSome = true) := by
  decide +kernel

/-- Additions to a line: with no delta line, with one that asks, that holds, that is emptied and that goes directly; and additions that
go alone, that spill the delta line first, and that are held. -/
theorem witness_WeirTurns_additions :
    ((kitIdle kitGroup).delta? 0 0 1280 = none ∧
      (let u := ((kitIdle kitGroup).unalias 0 0 lineEnd 1280).makeRoom 0 512
       u.roomlessAt 0 0 1280 = false ∧ u.hasWay 0 512 = true) ∧
      (let s := (kitIdle kitGroup).modCore 0 fun c => c.roomlessAdd 0 640 1281 [(0, 1, true)]
       ((s.unalias 0 0 lineEnd 1281).makeRoom 0 640).roomlessAt 0 0 1281 = true)) ∧
      ([{ kitHeld with st := .asking }, { kitHeld with spilling := true }, kitHeld, { kitHeld with st := .direct }].map fun d =>
        (((kitIdle kitGroup).setDelta 0 d).delta? 0 0 1280).map fun x => (x.st == d.st, x.spilling, decide (kitHeld.since < x.since))) =
        [some (true, false, false), some (true, true, false), some (true, false, false), some (true, false, false)] ∧
      (kitIdle kitGroup).halvings ≤ kitHeld.since ∧ kitHeld.since < ({ kitIdle kitGroup with halvings := 1 } : State).halvings ∧
      (mag32 0x3E800000 < mag32 0x3F800000 ∧ Fin32 0x3E800000 ∧ Fin32 (up32 (mag32 0x3E000000 + mag32 0x3E000000)) ∧
        mag32 (up32 (mag32 0x3E000000 + mag32 0x3E000000)) ≤ mag32 0x3E800000 ∧
        mag32 0x3E800000 < mag32 (up32 (mag32 0x3E800000 + mag32 0x3E000000)) ∧ ¬ Fin32 (up32 (mag32 0x7F7FFFFF + mag32 0x7F7FFFFF)) ∧
        (1 : Word).toInt.natAbs * 2 ^ 149 ≤ mag32 0x40000000 ∧ kitHeld.kind ≠ 0 ∧ kitHeld.kind ≠ 2 ∧ kitHeld.touched ≠ 0 ∧
        (Delta.new 0 1280 512).touched = 0 ∧ (Delta.new 0 1280 512).kind = 0) := by
  refine ⟨by decide +kernel, by decide +kernel, by decide +kernel, by decide +kernel, ?_⟩
  simp only [Fin32]
  decide +kernel

/-- The state after reset is canonical, and goes on. -/
theorem witness_StepKeepsCanonical : State.reset.Canonical ∧ ∃ t, step State.reset = .next t := by
  refine ⟨⟨rfl, by simp [State.reset], by simp [State.reset], by simp [State.reset]⟩, ?_⟩
  have e : step State.reset = onNext State.reset.endTurn (execBringUp State.reset) := rfl
  rw [e, execBringUp]
  split <;> exact ⟨_, rfl⟩

/-! ### Signatures. -/

/-- A host key under which the signature of one message of the kit verifies: with r the first coordinate of the base point G, s = 1
and the digest e, it is ((1 − e) / r)·G. -/
def kitKey : Nat × Nat :=
  (0x55D2B5D4E084BE2CE8DAFE01F297A9DAD7FDFD82912616B881F924134FB26D79CDBA028DF8CA37BC52A6084D84CBF12299E77FBE550C8F9C51EAD437A771B01748,
   0x424BCA236FD6CF6E05F4BC834202ECA23E2EBCA2FD845137C7F4767355F55E8563D18F34739142994FFCDB737F0C00D9B5699B4C72FB73D66AF6EF3B8AF03D1EB0)

theorem kit_verifies : ecdsaVerify kitKey (signedBytes (kitCommand 2 0xFF []) (8 + argLen (kitCommand 2 0xFF [])))
    ((kitCommand 2 0xFF []).payload.drop (8 + argLen (kitCommand 2 0xFF []))) = true := by
  decide +kernel

/-- A renewal of a part that holds that key: its signature verifies, and it is commanded. -/
theorem witness_signed (c : 0 < Config.keyCount) (k : Config.hostKey 0 = kitKey) :
    Signed (kitCommand 2 0xFF []) ∧ Commanded kitOwned (kitCommand 2 0xFF []) 0 false := by
  have s : Signed (kitCommand 2 0xFF []) := ⟨c, by rw [k]; exact kit_verifies⟩
  exact ⟨s, ready_of kitOwned _ 0 false (by decide +kernel) s⟩

/-- ECDSA on P-521 with SHA-512 over "sample": the published key, digest and signature verify (R1; RFC 6979, A.2.7). -/
theorem test_ecdsa : ecdsaValid
    (0x1894550D0785932E00EAA23B694F213F8C3121F86DC97A04E5A7167DB4E5BCD371123D46E45DB6B5D5370A7F20FB633155D38FFA16D2BD761DCAC474B9A2F5023A4,
     0x493101C962CD4D2FDDF782285E64584139C2F91B47F87FF82354D6630F746A28A0DB25741B5B34A828008B22ACC23F924FAAFBD4D33F81EA66956DFEAA2BFDFCF5)
    0x39A5E04AAFF7455D9850C605364F514C11324CE64016960D23D5DC57D3FFD8F49A739468AB8049BF18EEF820CDB1AD6C9015F838556BC7FAD4138B23FDF986C7
    0xC328FAFCBD79DD77850370C46325D987CB525569FB63C5D3BC53950E6D4C5F174E25A1EE9017B5D450606ADD152B534931D7D4E8455CC91F9B15BF05EC36E377FA
    0x617CCE7CF5064806C467F678D3B4080D6F1CC50AF26CA209417308281B68AF282623EAA63E5B5C0723D8B8C37FF0777B1A20F8CCB1DCCC43997F1EE0E44DA4A67A =
      true := by
  decide +kernel

/-- SHA-512 of "sample" (R1; the digest of the same vector). -/
theorem test_sha512 : digestNat [0x73, 0x61, 0x6D, 0x70, 0x6C, 0x65] =
    0x39A5E04AAFF7455D9850C605364F514C11324CE64016960D23D5DC57D3FFD8F49A739468AB8049BF18EEF820CDB1AD6C9015F838556BC7FAD4138B23FDF986C7 := by
  decide +kernel

/-! ## Tests of values that the manual works out -/

/-- The table after R65: seven FP32 values narrowed to BF16, F16, E4M3 and E5M2, with their flags. -/
theorem test_narrow :
    [0x3F800000, 0x3F808000, 0xC0300000, 0x43960000, 0x447A0000, 0x3A800000, 0x7F800000, 0x7F800001].map (f32Narrow bf16 false) =
      [(0x3F80, 0), (0x3F80, fIX), (0xC030, 0), (0x4396, 0), (0x447A, 0), (0x3A80, 0), (0x7F80, 0), (0x7FC0, fIV)] ∧
    [0x3F800000, 0x3F808000, 0xC0300000, 0x43960000, 0x447A0000, 0x3A800000, 0x7F800000, 0x7F800001].map (f32Narrow fp16 false) =
      [(0x3C00, 0), (0x3C04, 0), (0xC180, 0), (0x5CB0, 0), (0x63D0, 0), (0x1400, 0), (0x7C00, 0), (0x7E00, fIV)] ∧
    [0x3F800000, 0x3F808000, 0xC0300000, 0x43960000, 0x447A0000, 0x3A800000, 0x7F800000, 0x7F800001].map (f32Narrow e4m3 false) =
      [(0x38, 0), (0x38, fIX), (0xC3, 0), (0x79, fIX), (0x7E, fOF ||| fIX), (0, fUF ||| fIX), (0x7E, fOF ||| fIX), (0x7F, fIV)] ∧
    [0x3F800000, 0x3F808000, 0xC0300000, 0x43960000, 0x447A0000, 0x3A800000, 0x7F800000, 0x7F800001].map (f32Narrow e5m2 false) =
      [(0x3C, 0), (0x3C, fIX), (0xC2, fIX), (0x5D, fIX), (0x64, fIX), (0x14, 0), (0x7C, 0), (0x7E, fIV)] := by
  decide +kernel

/-- The table after R67: −2.5, 0.5, 3 × 10^9, −0.0 and a NaN to integers. -/
theorem test_to_integer :
    [0xC0200000, 0x3F000000, 0x4F32D05E, 0x80000000, 0x7FC00000].map (f32ToInt 1 false (-2147483648) 2147483647) =
      [(0xFFFFFFFE, fIX), (0, fIX), (0x7FFFFFFF, fIV), (0, 0), (0, fIV)] ∧
    [0xC0200000, 0x3F000000, 0x4F32D05E, 0x80000000, 0x7FC00000].map (f32ToInt 0 false (-2147483648) 2147483647) =
      [(0xFFFFFFFE, fIX), (0, fIX), (0x7FFFFFFF, fIV), (0, 0), (0, fIV)] ∧
    [0xC0200000, 0x3F000000, 0x4F32D05E, 0x80000000, 0x7FC00000].map (f32ToInt 1 false 0 4294967295) =
      [(0, fIV), (0, fIX), (0xB2D05E00, 0), (0, 0), (0, fIV)] := by
  decide +kernel

/-- The tables after R88: the four rounding modes, and the square of 2^−70 without and with `%fm.ftz`. -/
theorem test_rounding_modes :
    (List.range 4).map (fun m => f32Add m false 0x3F800000 0x33C00000) =
      [(0x3F800001, fIX), (0x3F800000, fIX), (0x3F800000, fIX), (0x3F800001, fIX)] ∧
    (List.range 4).map (fun m => f32Add m false 0xBF800000 0xB3C00000) =
      [(0xBF800001, fIX), (0xBF800000, fIX), (0xBF800001, fIX), (0xBF800000, fIX)] ∧
    f32Mul 0 false 0x1C800000 0x1C800000 = (0x200, 0) ∧ f32Mul 0 true 0x1C800000 0x1C800000 = (0, fUF ||| fIX) := by
  decide +kernel

/-- R91: floor, ceiling, nearest, fraction and saturation of the values that the table names. -/
theorem test_exact_functions :
    f32RoundInt 2 false 0xBF000000 = (0xBF800000, 0) ∧ f32RoundInt 2 false 0x3F000000 = (0, 0) ∧
      f32RoundInt 3 false 0xBF000000 = (0x80000000, 0) ∧ f32RoundInt 0 false 0x40200000 = (0x40000000, 0) ∧
      f32Fract 0 false 0xB0800000 = (0x3F7FFFFF, fIX) ∧ f32Sat false 0x80000000 = (0, 0) ∧ f32Sat false 0x40000000 = (0x3F800000, 0) := by
  decide +kernel

/-- R92: exact and special cases. -/
theorem test_special_cases :
    f32Rcp 0 false 0x80000000 = (0xFF800000, 0) ∧ f32Rsq false 0x40800000 = (0x3F000000, 0) ∧
      f32Sqrt 0 false 0xBF800000 = (0x7FC00000, fIV) ∧ f32Exp2 false 0x40400000 = (0x41000000, 0) ∧
      f32Exp2 false 0xC3160000 = (0, fUF ||| fIX) ∧ f32Log2 false 0x41000000 = (0x40400000, 0) ∧
      f32SinCos false false 0x3E800000 = (0x3F800000, 0) ∧ f32SinCos true false 0x3F000000 = (0xBF800000, 0) ∧
      f32Tanh false 0x41100000 = (0x3F800000, fIX) := by
  decide +kernel

/-- R114: the corner cases, and the signs of quotient and remainder. -/
theorem test_division :
    divSigned 7 0 = 0xFFFFFFFFFFFFFFFF ∧ remSigned 7 0 = 7 ∧ divSigned (0x8000000000000000) (-1) = 0x8000000000000000 ∧
      remSigned (0x8000000000000000) (-1) = 0 ∧ divSigned (-7) 2 = -3 ∧ remSigned (-7) 2 = -1 := by
  decide +kernel

/-! ## Tests of one instruction -/

/-- What a group shows after an instruction that executes in it. -/
def ran {α : Type} (i : Instr) (g : Group) (f : Group → α) : Option α := after (exec i (kitWith g)) f

/-- The pc of slot A. -/
def pcA (g : Group) : Option Nat := g.slotA.map fun x => x.pc.toNat

/-- The kit with values in v2 and v3. -/
def kitPair (x y : Word) : Group := { kitGroup with vregs := [(2, kitLanes fun _ => x), (3, kitLanes fun _ => y)] }

/-- Cause and address of the trap record (R147). -/
def trapped (g : Group) : Nat × Nat := (fieldAt g.trapRec 12 2, fieldAt g.trapRec 32 8)

/-- R82: the order of the operands, and which product is signed. -/
theorem test_integer_lanes :
    ran (.subI32 7 1 2 3 0 0) (kitPair 3 5) (fun g => g.lane 1 7) = some 0xFFFFFFFE ∧
      ran (.mulhS32 7 1 2 3 0 0) (kitPair 0xFFFFFFFF 2) (fun g => g.lane 1 0) = some 0xFFFFFFFF ∧
      ran (.mulhN32 7 1 2 3 0 0) (kitPair 0xFFFFFFFF 2) (fun g => g.lane 1 0) = some 1 ∧
      ran (.shrS32 7 1 2 3 0 0) (kitPair 0x80000000 33) (fun g => g.lane 1 0) = some 0xC0000000 ∧
      ran (.subI32Ic 7 1 2 5 0) (kitPair 10 0) (fun g => g.lane 1 0) = some 7 := by
  decide +kernel

/-- R80, R79: a source whose last-read bit is set is freed, unless it is the destination; a vacant source reads 0 and sets VAC. -/
theorem test_last_read :
    ran (.addI32 7 1 2 3 1 0) (kitPair 3 5) (fun g => (g.lane 1 0, g.vacant 2, g.vacant 3, g.gstat)) = some (8, true, false, 0) ∧
      ran (.addI32 7 2 2 3 1 0) (kitPair 3 5) (fun g => (g.lane 2 0, g.vacant 2)) = some (8, false) ∧
      ran (.addI32 7 1 2 9 0 0) (kitPair 3 5) (fun g => (g.lane 1 0, g.gstat)) = some (3, bitVAC) := by
  decide +kernel

/-- R22: a lane whose guard is false is left as it was. -/
theorem test_guard : ran (.mov 0 3 2 0) (kitPair 3 5) (fun g => (g.lane 3 1, g.lane 3 2)) = some (3, 5) := by decide +kernel

/-- R95, R118: selection and moves between lanes. -/
theorem test_moves :
    ran (.sel 7 1 2 3 0 0 0) (kitPair 3 5) (fun g => (g.lane 1 1, g.lane 1 2)) = some (3, 5) ∧
      ran (.shflX 7 4 1 3 0 0) { kitGroup with vregs := tblSet kitGroup.vregs 3 (kitLanes fun _ => 1) } (fun g => (g.lane 4 0, g.lane 4 5)) =
        some (1, 4) ∧
      ran (.wrlane 7 3 1 5) (kitPair 3 9) (fun g => (g.lane 3 3, g.lane 3 4)) = some (5, 9) := by
  decide +kernel

/-- R120, R118: the lanes count 0 to 7, and p0 names the first two. -/
theorem test_reductions :
    ran (.redi 7 9 1 0) kitGroup (fun g => g.sval 9) = some 28 ∧ ran (.ballot 7 9 0) kitGroup (fun g => g.sval 9) = some 3 ∧
      ran (.ballot 7 9 7) kitGroup (fun g => g.sval 9) = some 0xFF := by
  decide +kernel

/-- R123: `unc` clears both predicates where the guard is false; `norm` leaves them. -/
theorem test_compare :
    ran (.cmps 0 1 2 1 3 1 1) { kitGroup with preds := [(0, 3), (1, 0xFF), (2, 0xFF)] } (fun g => (g.pred 1, g.pred 2)) =
        some (0, 3) ∧
      ran (.cmps 0 1 2 1 3 0 1) { kitGroup with preds := [(0, 3), (1, 0xFF), (2, 0)] } (fun g => (g.pred 1, g.pred 2)) =
        some (0xFC, 3) := by
  decide +kernel

/-- R117: the three statements of the table, on s4. -/
theorem test_constants :
    ran (.li 7 4 1) kitGroup (fun g => g.sval 4) = some 1 ∧ ran (.lis 7 4 0) kitGroup (fun g => g.sval 4) = some 0x8000 ∧
      ran (.lis 7 4 0x1000) (kitScalar 4 0x8000) (fun g => g.sval 4) = some 0x40001000 ∧
      ran (.addiSi 7 61 61 0xF0) kitGroup (fun g => g.sval 61) = some 0xFFFFFFFFFFFFFFF0 ∧
      ran (.li 7 0 5) kitGroup (fun g => g.sval 0) = some 0 := by
  decide +kernel

/-- R115: a signed field of 4 bits at bit 4 of 0xF5. -/
theorem test_bfx : ran (.bfx 7 9 1 2) { kitGroup with scalars := [(1, { val := 0xF5, st := .full }), (2, { val := 0x10304, st := .full })] }
    (fun g => g.sval 9) = some 0xFFFFFFFFFFFFFFFF := by
  decide +kernel

/-- The example after R143: clearing VAC leaves FPIX; 0x8 in `%gc` traps ILLEGAL. -/
theorem test_ssr :
    ran (.ssrGstat 7 9) { kitScalar 9 0x10 with gstat := 0x18 } (fun g => g.gstat) = some 0x08 ∧
      ran (.ssrGc 7 9) (kitScalar 9 8) (fun g => (g.gc, (trapped g).1)) = some (0, causeILLEGAL) ∧
      ran (.ssrGc 7 9) (kitScalar 9 4) (fun g => (g.gc, (trapped g).1)) = some (0, causePRIV) := by
  decide +kernel

/-- R28, R125: a call counts halfwords from itself and leaves the address behind it in s62; an odd target traps ALIGN. -/
theorem test_branches :
    ran (.call 7 0x3FFFF0) kitGroup (fun g => (pcA g, g.sval 62)) = some (some 0xFFE0, 0x10004) ∧
      ran (.braP 0 8) kitGroup (fun g => (pcA g, (trapped g).1)) = some (some 0x10000, causeBRDIV) ∧
      ran (.callr 7 1) kitGroup (fun g => (pcA g, trapped g, g.sval 62)) = some (some 0x10000, (causeALIGN, 5), 0x10008) := by
  decide +kernel

/-- R126, R128: the taken lanes go on at the target in the same slot, the others behind the branch in the other. -/
theorem test_brx :
    ran (.brx 0 0x20 0x40) kitGroup (fun g => (g.slotA.map fun x => (x.pc, x.mask), g.slotB.map fun x => (x.pc, x.mask))) =
      some (some (0x10040, 3), some (0x10004, 0xFC)) := by
  decide +kernel

/-- R131: `trap` sets bit 16 and its immediate in the detail. -/
theorem test_trap :
    ran (.trap 7 0xA7) kitGroup (fun g => ((trapped g).1, fieldAt g.trapRec 40 8)) = some (causeBRK, 0x100A7) := by decide +kernel

/-- The crew after an instruction. -/
def ranCrew {α : Type} (i : Instr) (g : Group) (c : Crew) (f : Crew → α) : Option α :=
  match exec i ((kitWith g).setCrew 0 c) with
  | .next t => (t.crew? 0).map f
  | _ => none

/-- R98, R103: bytes are stored little-endian; where lanes store to one byte the highest lane's remains. -/
theorem test_scratch_store :
    ranCrew (.stsB32 7 1 2 1) kitGroup placedCrew (fun c => memReadBytes c.scratch 20 4) = some [1, 0, 0, 0] ∧
      ranCrew (.stsB32 7 1 3 0) kitGroup placedCrew (fun c => memReadBytes c.scratch 0 4) = some [7, 0, 0, 0] ∧
      ran (.stsB32 7 1 1 0) kitGroup trapped = some (causeALIGN, 1) := by
  decide +kernel

/-- R99: a load marks its destination empty; the value arrives in a later step. -/
theorem test_load :
    ran (.ldgB32 7 0 4 2 2 0) kitGroup (fun g => (g.laneEmpty 4 0, pcA g)) = some (true, some 0x10004) ∧
      ran (.ldpB32 7 4 2 0) { kitGroup with priv := [(272, 0x80)] }
        (fun g => g.arriving.map fun t => (t.2.find? fun a => a.lane == 1).map fun a => a.val) = some [some 0x80] := by
  decide +kernel

/-- R230: lanes on one address add in ascending order: 0 + 1 + … + 7. -/
theorem test_scratch_atomic :
    ranCrew (.atomsAdd 7 1 3 0 1 1 0) kitGroup placedCrew (fun c => memReadBytes c.scratch 0 4) = some [28, 0, 0, 0] ∧
      ran (.atomsAdd 7 1 3 0 1 0 0) kitGroup
        (fun g => g.arriving.map fun t => (t.2.find? fun a => a.lane == 4).map fun a => a.val) = some [some 6] := by
  decide +kernel

/-- R249, R250: a push stores behind the newest word, a pop takes the oldest; a full queue answers false. -/
theorem test_queues :
    ranCrew (.qpush 7 15 1) kitGroup (kitQueue 1) (fun c => (memReadBytes c.scratch 4088 4, (c.queues.map fun q => (q.2.head, q.2.occ)))) =
        some ([5, 0, 0, 0], [(1, 2)]) ∧
      (match exec (.qtpush 7 15 1 0) ((kitWith kitGroup).setCrew 0 (kitQueue 2)) with
        | .next t => (t.group? 0).map fun g => g.cpred 0
        | _ => none) = some false ∧
      ran (.qpop 7 3 9) kitGroup (fun g => (trapped g).1) = some causeQUE := by
  decide +kernel

/-- R241: `mwait` without a watch answers 2 at once. -/
theorem test_mwait : ran (.mwait 7 9 0) kitGroup (fun g => (g.sval 9, pcA g)) = some (2, some 0x10004) := by decide +kernel

/-- R244: the only group of its crew passes a barrier. -/
theorem test_bar :
    ran (.bar 7 4 0) kitGroup (fun g => (pcA g, g.slotA.map fun x => x.wait)) = some (some 0x10004, some .none) := by decide +kernel

/-- R220: `tgate` without a tree sets SYNCMIS. -/
theorem test_tgate : ran (.tgateArriveWait 7) kitGroup (fun g => g.gstat) = some bitSYNCMIS := by decide +kernel

/-- R139: `%ire` is the address behind `idem`. -/
theorem test_idem : ran (.idem 7) kitGroup (fun g => g.ire) = some 0x10004 := by decide +kernel

/-- The rest of the machine after a step of another agent. -/
def left {α : Type} (i : Instr) (s : State) (f : State → α) : Option α :=
  match exec i s with
  | .next t => some (f t)
  | _ => none

/-- R130: the exit of every lane makes the group's completion due. -/
theorem test_exit : left (.exit 7 0) (kitWith kitGroup) (fun t => t.agenda) = some [.groupCompletion 0] := by decide +kernel

/-- R303, R256: an engine instruction appends its operation to the queue of its core. -/
theorem test_engine_issue :
    left (.xcpCopy 7 8 0 0 3) (kitWith (kitEngine 0)) (fun t => (t.coreSt 0).copyQ.map fun o => (o.code, o.mode)) = some [(0, 3)] ∧
      left (.mzero 7 3) (kitWith kitGroup) (fun t => (t.coreSt 0).matQ.map fun o => (o.code, o.za)) = some [(6, 3)] ∧
      ran (.xcpCopy 7 8 0 0 3) (kitEngine 0x0000000800000000) trapped = some (causeALIGN, 8) := by
  decide +kernel

/-- R305, R310: a copy inside scratch moves its bytes. -/
theorem test_copy_turn :
    left (.copyCommandExecute 0) ((kitQueues kitGroup [kitCopy] []).setCrew 0 { placedCrew with scratch := [(3, 9)] })
      (fun t => ((t.crew? 0).map fun c => c.scratch, (t.coreSt 0).copyQ.length)) = some (some [(3, 9), (0x803, 9)], 0) := by
  decide +kernel

/-- R361: a quarter of a crest of 1.0 is granted. -/
theorem test_share :
    left (.shareRequest 0 0 1280 0x3F800000) (kitIdle kitGroup) (fun t => t.agenda) = some [.shareGrant 0 0 1280 0x3E800000] := by
  decide +kernel

/-- R292: at a halving instant every count is halved. -/
theorem test_halving :
    left .countHalving (kitLine { kitEntry [] with requesters := [(0, 7), (3, 1)] }) (fun t => t.dir.map fun x => x.2.requesters) =
      some [[(0, 3), (3, 0)]] := by
  decide +kernel

/-- R181, R165: the wafer is up where the firmware verifies; it has 48 ports. -/
theorem test_bring_up (f : firmwareSigned State.reset.runningImage = true) :
    left .bringUp State.reset (fun t => (t.broughtUp, t.ports.length)) = some (true, 48) := by
  simp only [left, exec, execBringUp, f]
  rfl

/-- R168, R184: a command from a stranger is answered with status 3, a read of an absent context with status 5; with no port the
answers wait (R170). -/
theorem test_answers :
    left (.setShare (kitPlain 0x15 0 [1])) { kitOwned with owner := none, ports := [] } (fun t => t.unsent.map fun m => m.status) = some [3] ∧
      left (.dzwRead (kitMsg 1 9 8 0x10000 0 [])) { kitOwned with ports := [] } (fun t => t.unsent.map fun m => m.status) = some [5] ∧
      left (.dzwRead (kitMsg 1 0 4 0x10000 0 [])) { kitHosted with mem := memWrite kitHosted.mem 0x28000 7, ports := [] }
        (fun t => t.unsent.map fun m => (m.status, m.payload)) = some [(0, [7, 0, 0, 0])] := by
  decide +kernel

/-! ## The assembler: the manual's own encodings (02_assembly_language.md, 06_first_kernel.md; log 31) -/

/-- The bytes of `.text` that statements give, as a number. -/
noncomputable def asmWord (l : List String) : Option Nat :=
  match assemble l with
  | .ok o => some (wordOfBytes o.text)
  | .error _ => none

/-- The table of R55. -/
theorem asm_lengths :
    asmWord [" fmul.f32 v4, v6"] = some 0x309A ∧ asmWord [" fmul.f32 v4, v40"] = some 0x450209C7 ∧
      asmWord [" (p1) fmul.f32 v4, v6"] = some 0x40C20847 ∧ asmWord [" fmul.f32 v4, v6!"] = some 0x50C209C7 ∧
      asmWord [" addi v3, #-20"] = some 0xEC0187D5 ∧ asmWord [" addi v3, #-2"] = some 0xF074 ∧
      asmWord [" fmul.f32 v4, v4, v6"] = some 0x40C209C7 ∧ asmWord [" movi v1, #16"] = none := by decide +kernel

/-- Statements of R229, R260, R302 and R117 with their words. -/
theorem asm_words :
    asmWord [" atom.cas.w64.ar.sys v4:v7, [v10:v11]"] = some 0x4F2509F3 ∧ asmWord [" red.add.rlx.crew [v6], v9"] = some 0x900313F5 ∧
      asmWord [" mma.bt.x4 za3, s10, s12"] = some 0x426147FD ∧ asmWord [" (c2) xcp.fill.ss s4"] = some 0x0D6008BB ∧
      asmWord [" addi s61, s61, #-16"] = some 0xF01EFBD9 ∧ asmWord [" lq s4, [s5 + 24]"] = some 0x686289FF := by decide +kernel

/-- R50's precedence and R396's difference of labels; a shift by 64 and a place where a constant is asked for are errors (R50, R396). -/
theorem asm_values :
    (match assemble ["A: .byte 1", "B: .word B - A, 6 & 3 | 8, 1 - 2 - 3"] with
      | .ok o => o.text
      | .error _ => []) = [1, 1, 0, 0, 0, 10, 0, 0, 0, 0xFC, 0xFF, 0xFF, 0xFF] ∧
      asmWord [" .word 1 << 64"] = none ∧ asmWord ["L: .word L"] = none ∧ asmWord [" bra Nowhere"] = none ∧
      asmWord [" cmps.lt p1, p1, v2, v3"] = none ∧ asmWord ["L: bra 4 + L"] = asmWord ["L: bra L + 4"] ∧
      asmWord ["L: bra L - L + L"] = none ∧ asmWord [" .equ .x, 1"] = none := by decide +kernel

/-- R27, R54: a guard has the kind that its form asks for; `(p7) bra` is the p-guarded branch. -/
theorem asm_guards :
    asmWord ["L: (p7) bra L"] ≠ none ∧ asmWord ["L: (p7) bra L"] ≠ asmWord ["L: (c7) bra L"] ∧ asmWord [" (c7) fmul.f32 v4, v6"] = none ∧
      asmWord [" (p7) li s4, #1"] = none := by decide +kernel

/-- The kernel of 06_first_kernel.md, rebuilt without its exit field or with it. -/
def vaddSource (isa exit : String) : List String :=
  [" .isa " ++ isa, " .text", " .kernel vadd, preload=4 ; s1 A", " .width 32", " .fields 0, 25, 0, 0, 0", " .counts 1, 3, 1, 1, 1",
   " .regs v=6, s=64, za=0", " wid v1, #6", " bcast v5, s4", " cmpn.lt p1, v1, v5", " shli v1, #2",
   " (p1) ldg.b32 v2, [s1 + v1], rh=1", " (p1) ldg.b32 v3, [s2 + v1], rh=1", " (p1) fadd.f32 v4, v2!, v3!",
   " (p1) stg.b32 [s3 + v1], v4", exit, " .end"]

/-- Its words, its masks and its template's first fields; a trap-class override needs a level above 1.0 (R56). -/
theorem asm_vadd :
    (match assemble (vaddSource "1.2" " exit.sys imm8=0x08") with
      | .ok o => some (o.text, o.level, o.ignore, o.trap, (o.rodata.drop 16).take 32)
      | .error _ => none) =
      some ([0xFF, 0x03, 0x03, 0x10, 0xDD, 0x0B, 0x02, 0x00, 0xCF, 0xF3, 0xA0, 0x40, 0x36, 0x10, 0x69, 0x84, 0x20, 0x90,
             0x69, 0x86, 0x40, 0x90, 0x47, 0x08, 0x61, 0x18, 0x6B, 0x88, 0x60, 0x10, 0xE5, 0x01, 0xA0, 0x0C], 0x0102, 1, 1,
            [5, 0, 25, 0, 0, 0, 0, 0, 1, 0, 0, 0, 3, 0, 0, 0, 1, 0, 0, 0, 1, 0, 0, 0, 1, 0, 0, 0, 6, 64, 0, 0]) ∧
      (match assemble (vaddSource "1.0" " exit.sys imm8=0x08") with
        | .ok _ => []
        | .error e => e) = [(16, .override)] := by decide +kernel

/-- The image of an object, empty where there is none. -/
noncomputable def asmImage (l : List String) : List Byte :=
  match assemble l with
  | .ok o => o.image
  | .error _ => []

/-- The loader finds the kernel of the assembled file, and admits it (R149 to R153). -/
theorem asm_loads :
    (let b := asmImage [" .kernel vadd", " .width 8", " exit.sys", " .end"]
     refusing false (kit.refusalMask 0x8000 { kitLoad with length := b.length } b) &&& 0x1FF = 0 ∧
       (kernelSymbols (sectionsOf b) (symbolsOf b (sectionsOf b))).map (fun x => x.2.name) = [nameBytes "vadd"]) := by decide +kernel

end Sys2Proof.Tests
end

section
/-! Integer lane operations (R82, R90): the value of each form, and the obligation about them. -/

namespace Sys2Proof.Machine

/-! ## What the forms of integer lane instructions do where their operands are ready

Each lemma is about every operation of its form: `hi` says that the instruction is the form at `f`, `hf` that `f` computes `f'`. -/

section Forms

variable {s : State} {v : View} {g : BitVec 3} {d a b : BitVec 6} {x y : BitVec 1} {i : Instr}

theorem vrForm_laneRuns (f : Word → Word → Word) {f' : Word → Word → Word}
    (h : LaneReady 4 s v g.toNat [d.toNat] [a.toNat, b.toNat] []) (hf : f = f') (hi : exec i s = vrForm g d a b x y (plain2 f) s) :
    LaneRuns s v i g.toNat d.toNat [a.toNat, b.toNat] (lastIf x a.toNat ++ lastIf y b.toNat)
      (fun l => f' (v.lane a.toNat l) (v.lane b.toNat l)) fun _ => 0 := by
  subst hf
  unfold LaneRuns
  rw [hi]
  exact laneBody_runs _ _ h

theorem vrAccForm_laneRuns (f : Word → Word → Word → Word)
    (h : LaneReady 4 s v g.toNat [d.toNat] [a.toNat, b.toNat, d.toNat] [])
    (hi : exec i s = vrAccForm g d a b x y (plain3 f) s) :
    LaneRuns s v i g.toNat d.toNat [a.toNat, b.toNat, d.toNat] (lastIf x a.toNat ++ lastIf y b.toNat)
      (fun l => f (v.lane a.toNat l) (v.lane b.toNat l) (v.lane d.toNat l)) fun _ => 0 := by
  unfold LaneRuns
  rw [hi]
  exact laneBody_runs _ _ h

theorem viForm_laneRuns {imm : Word} (f : Word → Word → Word) {f' : Word → Word}
    (h : LaneReady 4 s v g.toNat [d.toNat] [a.toNat] []) (hf : (fun p => f p imm) = f')
    (hi : exec i s = viForm g d a imm f s) :
    LaneRuns s v i g.toNat d.toNat [a.toNat] [] (fun l => f' (v.lane a.toNat l)) fun _ => 0 := by
  subst hf
  unfold LaneRuns
  rw [hi]
  exact laneBody_runs _ _ h

theorem vuForm_laneRuns (f : Word → Word) {f' : Word → Word} (h : LaneReady 4 s v g.toNat [d.toNat] [a.toNat] [])
    (hf : f = f') (hi : exec i s = vuForm g d a x (plain1 f) s) :
    LaneRuns s v i g.toNat d.toNat [a.toNat] (lastIf x a.toNat) (fun l => f' (v.lane a.toNat l)) fun _ => 0 := by
  subst hf
  unfold LaneRuns
  rw [hi]
  exact laneBody_runs _ _ h

end Forms

/-! ## Values of the table (R82, R90) -/

theorem minSigned_eq {n : Nat} : (minSigned : BitVec n → _) = fun p q => if p.toInt < q.toInt then p else q := by
  funext p q
  simp [minSigned, BitVec.slt]

theorem maxSigned_eq {n : Nat} : (maxSigned : BitVec n → _) = fun p q => if p.toInt < q.toInt then q else p := by
  funext p q
  simp [maxSigned, BitVec.slt]

theorem minUnsigned_eq {n : Nat} : (minUnsigned : BitVec n → _) = fun p q => if p.toNat < q.toNat then p else q := by
  funext p q
  simp [minUnsigned, BitVec.ult]

theorem maxUnsigned_eq {n : Nat} : (maxUnsigned : BitVec n → _) = fun p q => if p.toNat < q.toNat then q else p := by
  funext p q
  simp [maxUnsigned, BitVec.ult]

/-- A 5-bit shift count is its own bits 4:0. -/
theorem toNat_zeroExtend_count (i : BitVec 5) : (i.zeroExtend 32).toNat % 32 = i.toNat := by
  rw [BitVec.toNat_setWidth]
  omega

theorem shiftLeft32_count (i : BitVec 5) : (fun p => shiftLeft32 p (i.zeroExtend 32)) = fun p : Word => p <<< i.toNat := by
  funext p
  rw [shiftLeft32, toNat_zeroExtend_count]

theorem shiftRight32_count (i : BitVec 5) : (fun p => shiftRight32 p (i.zeroExtend 32)) = fun p : Word => p >>> i.toNat := by
  funext p
  rw [shiftRight32, toNat_zeroExtend_count]

theorem shiftRightSigned32_count (i : BitVec 5) :
    (fun p => shiftRightSigned32 p (i.zeroExtend 32)) = fun p : Word => p.sshiftRight i.toNat := by
  funext p
  rw [shiftRightSigned32, toNat_zeroExtend_count]

theorem neg_eq_zero_sub_word : (- · : Word → Word) = fun p => 0 - p := by
  funext p
  exact (BitVec.zero_sub p).symm

theorem absWord_eq : absWord = fun p => if p.getLsbD 31 then 0 - p else p := by
  funext p
  rw [absWord, BitVec.msb_eq_getLsbD_last, ← BitVec.zero_sub]
  rfl

/-! ## Bit reversal (R90) -/

/-- The low `n` bits of `a`, bit `k` of them at place `31 - k`, as `bitReverse` sums them up. -/
def mirrorBits (a n : Nat) : Nat :=
  (List.range n).foldl (fun r k => if natBit a k then r + 2 ^ (31 - k) else r) 0

theorem bitReverse_eq_mirrorBits (p : Word) : bitReverse p = BitVec.ofNat 32 (mirrorBits p.toNat 32) := rfl

theorem mirrorBits_succ (a n : Nat) :
    mirrorBits a (n + 1) = if natBit a n then mirrorBits a n + 2 ^ (31 - n) else mirrorBits a n := by
  simp [mirrorBits, List.range_succ, List.foldl_append]

/-- The places below the bits placed so far are clear, so the next sum carries nothing. -/
theorem two_pow_dvd_mirrorBits (a : Nat) : ∀ n ≤ 32, 2 ^ (32 - n) ∣ mirrorBits a n := by
  intro n
  induction n with
  | zero => intro _; exact Nat.dvd_zero _
  | succ n ih =>
    intro hn
    have hr : 2 ^ (31 - n) ∣ mirrorBits a n := Nat.dvd_trans (Nat.pow_dvd_pow 2 (by omega)) (ih (by omega))
    rw [mirrorBits_succ, show 32 - (n + 1) = 31 - n by omega]
    split
    · exact Nat.dvd_add hr (Nat.dvd_refl _)
    · exact hr

theorem mirrorBits_add_eq_or (a n : Nat) (hn : n < 32) :
    mirrorBits a n + 2 ^ (31 - n) = mirrorBits a n ||| 2 ^ (31 - n) := by
  obtain ⟨q, hq⟩ := two_pow_dvd_mirrorBits a n (by omega)
  rw [hq]
  exact Nat.two_pow_add_eq_or_of_lt (Nat.pow_lt_pow_right (by decide) (by omega)) q

/-- Bit `j` is set once bit `31 - j` of the argument has been placed. -/
theorem testBit_mirrorBits (a j : Nat) (hj : j < 32) :
    ∀ n ≤ 32, (mirrorBits a n).testBit j = (decide (32 ≤ n + j) && a.testBit (31 - j)) := by
  intro n
  induction n with
  | zero =>
    intro _
    rw [decide_eq_false (by omega), Bool.false_and]
    exact Nat.zero_testBit j
  | succ n ih =>
    intro hn
    rw [mirrorBits_succ, mirrorBits_add_eq_or a n (by omega), natBit]
    by_cases hp : 31 - n = j
    · -- bit `n` is the one for this place, which the bits before have left clear
      have hk : 31 - j = n := by omega
      have hclear : (mirrorBits a n).testBit j = false := by
        rw [ih (by omega), decide_eq_false (by omega), Bool.false_and]
      have hdone : 32 ≤ n + 1 + j := by omega
      cases hb : a.testBit n <;> simp [hclear, hdone, hk, hb, hp]
    · -- bit `n` goes to another place
      have hd : 32 ≤ n + 1 + j ↔ 32 ≤ n + j := by omega
      cases a.testBit n <;> simp [ih (by omega), hd, hp]

theorem getLsbD_bitReverse (p : Word) (k : Nat) (hk : k < 32) : (bitReverse p).getLsbD k = p.getLsbD (31 - k) := by
  rw [bitReverse_eq_mirrorBits, BitVec.getLsbD_ofNat, testBit_mirrorBits _ k hk 32 (Nat.le_refl _)]
  simp [hk, BitVec.getLsbD]

/-! ## Leading zeros (R90) -/

theorem leadingZeros_zero (n : Nat) : leadingZeros 0 n = n := by simp [leadingZeros, bitLen]

/-- The leading zeros of a word other than 0 are the places above its highest 1. -/
theorem leadingZeros_add_log2 {p : Word} (hp : p ≠ 0) : leadingZeros p.toNat 32 + p.toNat.log2 = 31 := by
  have hn : p.toNat ≠ 0 := BitVec.toNat_ne_iff_ne.mpr hp
  have hl : p.toNat.log2 < 32 := (Nat.log2_lt hn).mpr p.isLt
  rw [leadingZeros, Nat.mod_eq_of_lt p.isLt, bitLen, if_neg hn]
  omega

/-- `clz` counts the zeros above the highest 1. -/
theorem leadingZeros_spec {p : Word} (hp : p ≠ 0) :
    leadingZeros p.toNat 32 < 32 ∧ p.getLsbD (31 - leadingZeros p.toNat 32) = true ∧
      ∀ k, 31 - leadingZeros p.toNat 32 < k → p.getLsbD k = false := by
  have hn : p.toNat ≠ 0 := BitVec.toNat_ne_iff_ne.mpr hp
  have hz := leadingZeros_add_log2 hp
  have htop : 31 - leadingZeros p.toNat 32 = p.toNat.log2 := by omega
  rw [htop]
  exact ⟨by omega, Nat.testBit_log2 hn, fun k hk => Nat.testBit_lt_two_pow ((Nat.log2_lt hn).mp hk)⟩

/-! ## The obligation -/

/-- Settles O4: every instruction is a form at an operation without flags, and the form lemmas above say what it does. -/
theorem integerLanes : Obligations.IntegerLanes := by
  unfold Obligations.IntegerLanes
  refine ⟨fun s v g d a b x y imm => ⟨fun h => ?ab, fun h => ?mad, fun h => ?imm⟩, fun s v g d a x c h => ⟨?shift, ?unary⟩,
    getLsbD_bitReverse, leadingZeros_zero 32, fun p hp => leadingZeros_spec hp⟩
  case ab =>
    exact ⟨vrForm_laneRuns (· + ·) h rfl rfl,
      vrForm_laneRuns (· - ·) h rfl rfl,
      vrForm_laneRuns (· * ·) h rfl rfl,
      vrForm_laneRuns mulhSigned h rfl rfl,
      vrForm_laneRuns mulhUnsigned h rfl rfl,
      vrForm_laneRuns minSigned h minSigned_eq rfl,
      vrForm_laneRuns maxSigned h maxSigned_eq rfl,
      vrForm_laneRuns minUnsigned h minUnsigned_eq rfl,
      vrForm_laneRuns maxUnsigned h maxUnsigned_eq rfl,
      vrForm_laneRuns (· &&& ·) h rfl rfl,
      vrForm_laneRuns (· ||| ·) h rfl rfl,
      vrForm_laneRuns (· ^^^ ·) h rfl rfl,
      vrForm_laneRuns shiftLeft32 h rfl rfl,
      vrForm_laneRuns shiftRight32 h rfl rfl,
      vrForm_laneRuns shiftRightSigned32 h rfl rfl⟩
  case mad => exact vrAccForm_laneRuns madWord h rfl
  case imm =>
    exact ⟨viForm_laneRuns (· + ·) h rfl rfl,
      viForm_laneRuns (· * ·) h rfl rfl,
      viForm_laneRuns (· &&& ·) h rfl rfl,
      viForm_laneRuns (· ||| ·) h rfl rfl,
      viForm_laneRuns (· ^^^ ·) h rfl rfl⟩
  case shift =>
    exact ⟨viForm_laneRuns shiftLeft32 h (shiftLeft32_count c) rfl,
      viForm_laneRuns shiftRight32 h (shiftRight32_count c) rfl,
      viForm_laneRuns shiftRightSigned32 h (shiftRightSigned32_count c) rfl⟩
  case unary =>
    exact ⟨vuForm_laneRuns id h rfl rfl,
      vuForm_laneRuns (~~~ ·) h rfl rfl,
      vuForm_laneRuns (- ·) h neg_eq_zero_sub_word rfl,
      vuForm_laneRuns absWord h absWord_eq rfl,
      vuForm_laneRuns (fun p => BitVec.ofNat 32 (popCount p.toNat 32)) h rfl rfl,
      vuForm_laneRuns (fun p => BitVec.ofNat 32 (leadingZeros p.toNat 32)) h rfl rfl,
      vuForm_laneRuns bitReverse h rfl rfl,
      vuForm_laneRuns (fun p => (p.truncate 8).signExtend 32) h rfl rfl,
      vuForm_laneRuns (fun p => (p.truncate 16).signExtend 32) h rfl rfl⟩

end Sys2Proof.Machine
end

section
/-! Scalar instructions (R113 to R117): the value of each form, and the obligation about them. -/

namespace Sys2Proof.Machine

/-! ## What the forms of scalar instructions do where their operands are ready

`hi` says that the instruction is the form at `f`, `hf` what `f` gives for the operands. -/

section Forms

variable {s : State} {v : View} {g : BitVec 3} {d a b : BitVec 6} {i : Instr} {r : DWord}

theorem srForm_cruns (f : DWord → DWord → DWord) (h : ScalarReady s v g.toNat [d.toNat] [a.toNat, b.toNat])
    (hf : f (v.g.sval a.toNat) (v.g.sval b.toNat) = r) (hi : exec i s = srForm g d a b f s) :
    CRuns i s v g.toNat v.s v.next (v.g.setScalar d.toNat r) := by
  subst hf
  exact scalarBody_cruns hi h

theorem siForm_cruns (f : DWord → DWord) (h : ScalarReady s v g.toNat [d.toNat] [a.toNat])
    (hf : f (v.g.sval a.toNat) = r) (hi : exec i s = siForm g d a f s) :
    CRuns i s v g.toNat v.s v.next (v.g.setScalar d.toNat r) := by
  subst hf
  exact scalarBody_cruns hi h

end Forms

/-! ## Shifts by an immediate (R116, R117) -/

/-- A 6-bit shift count is its own bits 5:0. -/
theorem toNat_zeroExtend_count64 (j : BitVec 6) : (j.zeroExtend 64).toNat % 64 = j.toNat := by
  rw [BitVec.toNat_setWidth]
  omega

theorem shiftLeft64_count (p : DWord) (j : BitVec 6) : shiftLeft64 p (j.zeroExtend 64) = p <<< j.toNat := by
  rw [shiftLeft64, toNat_zeroExtend_count64]

theorem shiftRight64_count (p : DWord) (j : BitVec 6) : shiftRight64 p (j.zeroExtend 64) = p >>> j.toNat := by
  rw [shiftRight64, toNat_zeroExtend_count64]

theorem shiftRightSigned64_count (p : DWord) (j : BitVec 6) :
    shiftRightSigned64 p (j.zeroExtend 64) = p.sshiftRight j.toNat := by
  rw [shiftRightSigned64, toNat_zeroExtend_count64]

theorem shiftLeft_fifteen_eq_mul (p : DWord) : p <<< 15 = p * 32768 := BitVec.shiftLeft_eq_mul_twoPow p 15

/-! ## Leading zeros (R113) -/

/-- `clz` counts the zeros above the highest 1. -/
theorem leadingZeros_eq_of_highest {p : DWord} {n : Nat} (hn : n ≤ 64) (hclear : ∀ k, k < 64 → 64 - n ≤ k → p.getLsbD k = false)
    (hset : n < 64 → p.getLsbD (63 - n) = true) : leadingZeros p.toNat 64 = n := by
  obtain rfl | hlt : n = 64 ∨ n < 64 := by omega
  · have hp : p = 0 := BitVec.eq_of_getLsbD_eq fun k hk => (hclear k hk (by omega)).trans BitVec.getLsbD_zero.symm
    subst hp
    exact leadingZeros_zero 64
  · have hlow : 2 ^ (63 - n) ≤ p.toNat := Nat.ge_two_pow_of_testBit (hset hlt)
    have hhigh : p.toNat < 2 ^ (63 - n + 1) := Nat.lt_pow_two_of_testBit _ fun k hk => by
      by_cases h : k < 64
      · exact hclear k h (by omega)
      · exact BitVec.getLsbD_of_ge p k (by omega)
    have hp : p.toNat ≠ 0 := fun h => by
      rw [h] at hlow
      exact absurd hlow (Nat.not_le.mpr (Nat.two_pow_pos _))
    have hlog : p.toNat.log2 = 63 - n := (Nat.log2_eq_iff hp).mpr ⟨hlow, hhigh⟩
    rw [leadingZeros, Nat.mod_eq_of_lt p.isLt, bitLen, if_neg hp, hlog]
    omega

/-! ## Bit fields (R115) -/

/-- `bfx` extends the field of `p` that `q` places, by its sign where bit 16 of `q` asks for it. -/
theorem bitField_eq (p q : DWord) :
    bitField p q =
      if q.getLsbD 16 then (p.extractLsb' (q.toNat % 64) (q.toNat / 256 % 64 + 1)).signExtend 64
      else (p.extractLsb' (q.toNat % 64) (q.toNat / 256 % 64 + 1)).setWidth 64 := by
  have hpos : natBits q.toNat 5 0 = q.toNat % 64 := by simp [natBits]
  have hlen : natBits q.toNat 13 8 = q.toNat / 256 % 64 := by simp [natBits]
  unfold bitField
  rw [hpos, hlen]
  generalize q.toNat % 64 = pos, q.toNat / 256 % 64 = top
  have hnat : (p.extractLsb' pos (top + 1)).toNat = (p.toNat >>> pos) % 2 ^ (top + 1) := BitVec.extractLsb'_toNat ..
  have hmsb : natBit ((p.toNat >>> pos) % 2 ^ (top + 1)) top = (p.extractLsb' pos (top + 1)).msb := by
    rw [BitVec.msb_eq_getLsbD_last, BitVec.getLsbD, hnat]
    rfl
  have hext : (p.extractLsb' pos (top + 1)).setWidth 64 = BitVec.ofNat 64 ((p.toNat >>> pos) % 2 ^ (top + 1)) := by
    rw [← hnat, BitVec.ofNat_toNat]
  cases q.getLsbD 16
  case false => simp [hext]
  case true =>
    simp only [Nat.add_sub_cancel, hmsb, Bool.true_and, if_true, BitVec.signExtend, BitVec.toInt_eq_msb_cond, hnat]
    split
    · rw [Int.natCast_pow, Int.cast_ofNat_Int]
    · exact (BitVec.ofInt_natCast ..).symm

/-- Bits of a field stand from its position on; above it stand copies of its sign, or zeros. -/
theorem getLsbD_bitField (p q : DWord) (k : Nat) (hk : k < 64) :
    (bitField p q).getLsbD k =
      if k ≤ q.toNat / 256 % 64 then p.getLsbD (q.toNat % 64 + k)
      else q.getLsbD 16 && p.getLsbD (q.toNat % 64 + q.toNat / 256 % 64) := by
  rw [bitField_eq]
  generalize q.toNat % 64 = pos, q.toNat / 256 % 64 = top
  cases q.getLsbD 16
  case false =>
    simp only [Bool.false_eq_true, if_false, BitVec.getLsbD_setWidth, BitVec.getLsbD_extractLsb', hk, Nat.lt_succ_iff, decide_true,
      Bool.true_and, Bool.false_and]
    by_cases hin : k ≤ top
    · simp only [hin, decide_true, Bool.true_and, if_true]
    · simp only [hin, decide_false, Bool.false_and, if_false]
  case true =>
    have hmsb : (p.extractLsb' pos (top + 1)).msb = p.getLsbD (pos + top) := by simp [BitVec.msb_eq_getLsbD_last]
    simp only [if_true, BitVec.getLsbD_signExtend, BitVec.getLsbD_extractLsb', hmsb, hk, Nat.lt_succ_iff, decide_true,
      Bool.true_and]
    by_cases hin : k ≤ top
    · simp only [hin, decide_true, Bool.true_and, if_true]
    · simp only [hin, if_false]

/-! ## Division (R114) -/

/-- No remainder overflows, so `rem.s` is the remainder of the quotient rounded toward zero. -/
theorem toInt_remSigned {p q : DWord} (hq : q ≠ 0) : (remSigned p q).toInt = p.toInt.tmod q.toInt := by
  rw [remSigned, if_neg hq, ← BitVec.toInt_srem, BitVec.ofInt_toInt]

theorem divUnsigned_mul_add_remUnsigned {p q : DWord} (hq : q ≠ 0) : divUnsigned p q * q + remUnsigned p q = p := by
  calc divUnsigned p q * q + remUnsigned p q
      = BitVec.ofNat 64 (p.toNat / q.toNat) * BitVec.ofNat 64 q.toNat + BitVec.ofNat 64 (p.toNat % q.toNat) := by
        rw [divUnsigned, remUnsigned, if_neg hq, if_neg hq, BitVec.ofNat_toNat (x := q), BitVec.setWidth_eq]
    _ = BitVec.ofNat 64 (p.toNat / q.toNat * q.toNat + p.toNat % q.toNat) := by
        rw [← BitVec.ofNat_mul, ← BitVec.ofNat_add]
    _ = p := by rw [Nat.div_add_mod', BitVec.ofNat_toNat, BitVec.setWidth_eq]

theorem toNat_remUnsigned_lt {p q : DWord} (hq : q ≠ 0) : (remUnsigned p q).toNat < q.toNat := by
  have hpos : 0 < q.toNat := Nat.pos_of_ne_zero (BitVec.toNat_ne_iff_ne.mpr hq)
  rw [remUnsigned, if_neg hq, BitVec.toNat_ofNat]
  exact Nat.lt_of_le_of_lt (Nat.mod_le _ _) (Nat.mod_lt _ hpos)

/-- Signed quotient and remainder make up the dividend, for -2^63 by -1 modulo 2^64. -/
theorem divSigned_mul_add_remSigned {p q : DWord} (hq : q ≠ 0) : divSigned p q * q + remSigned p q = p := by
  calc divSigned p q * q + remSigned p q
      = BitVec.ofInt 64 (p.toInt.tdiv q.toInt) * BitVec.ofInt 64 q.toInt + BitVec.ofInt 64 (p.toInt.tmod q.toInt) := by
        rw [divSigned, remSigned, if_neg hq, if_neg hq, BitVec.ofInt_toInt]
    _ = BitVec.ofInt 64 (p.toInt.tdiv q.toInt * q.toInt + p.toInt.tmod q.toInt) := by
        rw [← BitVec.ofInt_mul, ← BitVec.ofInt_add]
    _ = p := by rw [Int.tdiv_mul_add_tmod, BitVec.ofInt_toInt]

theorem natAbs_remSigned_lt {p q : DWord} (hq : q ≠ 0) : (remSigned p q).toInt.natAbs < q.toInt.natAbs := by
  have hq' : 0 < q.toInt.natAbs := Int.natAbs_pos.mpr fun h => hq (BitVec.toInt_inj.mp (by simpa using h))
  rw [toInt_remSigned hq, Int.natAbs_tmod]
  exact Nat.mod_lt _ hq'

/-- A remainder other than 0 has the sign of the dividend. -/
theorem remSigned_neg_iff {p q : DWord} (hq : q ≠ 0) (hr : remSigned p q ≠ 0) :
    (remSigned p q).toInt < 0 ↔ p.toInt < 0 := by
  have hr' : p.toInt.tmod q.toInt ≠ 0 := fun h => hr (BitVec.toInt_inj.mp (by rw [toInt_remSigned hq, h]; rfl))
  rw [toInt_remSigned hq]
  by_cases hp : 0 ≤ p.toInt
  · have := Int.tmod_nonneg q.toInt hp
    omega
  · have := Int.tmod_nonneg q.toInt (a := -p.toInt) (by omega)
    rw [Int.neg_tmod] at this
    omega

/-! ## The obligation -/

/-- Settles O12: every instruction is a form at an operation whose value the lemmas above give, and R114's equations hold. -/
theorem scalarOperations : Obligations.ScalarOperations := by
  unfold Obligations.ScalarOperations
  refine ⟨fun s v g d a b => ⟨fun h => ?two, fun h => ?one⟩, fun s v g d a j i k => ⟨fun h => ?imm, fun h => ?li, fun h => ?sli⟩,
    fun p => ⟨if_pos rfl, if_pos rfl, if_pos rfl, if_pos rfl⟩, by decide, by decide, fun p q hq => ⟨(divUnsigned_mul_add_remUnsigned hq).symm, toNat_remUnsigned_lt hq⟩,
    fun p q hq => ⟨(divSigned_mul_add_remSigned hq).symm, natAbs_remSigned_lt hq, remSigned_neg_iff hq⟩⟩
  case two =>
    exact ⟨srForm_cruns (· + ·) h rfl rfl,
      srForm_cruns (· - ·) h rfl rfl,
      srForm_cruns (· * ·) h rfl rfl,
      srForm_cruns mulhSigned64 h rfl rfl,
      srForm_cruns mulhUnsigned64 h rfl rfl,
      srForm_cruns (· &&& ·) h rfl rfl,
      srForm_cruns (· ||| ·) h rfl rfl,
      srForm_cruns (· ^^^ ·) h rfl rfl,
      srForm_cruns (fun p q => p &&& ~~~q) h rfl rfl,
      srForm_cruns shiftLeft64 h rfl rfl,
      srForm_cruns shiftRight64 h rfl rfl,
      srForm_cruns shiftRightSigned64 h rfl rfl,
      srForm_cruns minSigned h (by rw [minSigned_eq]) rfl,
      srForm_cruns maxSigned h (by rw [maxSigned_eq]) rfl,
      srForm_cruns minUnsigned h (by rw [minUnsigned_eq]) rfl,
      srForm_cruns maxUnsigned h (by rw [maxUnsigned_eq]) rfl,
      srForm_cruns divSigned h rfl rfl,
      srForm_cruns divUnsigned h rfl rfl,
      srForm_cruns remSigned h rfl rfl,
      srForm_cruns remUnsigned h rfl rfl,
      fun r hr => srForm_cruns bitField h
        (BitVec.eq_of_getLsbD_eq fun k hk => (getLsbD_bitField _ _ k hk).trans (hr k hk).symm) rfl⟩
  case one =>
    exact ⟨siForm_cruns id h rfl rfl,
      siForm_cruns (fun p => BitVec.ofNat 64 (popCount p.toNat 64)) h rfl rfl,
      fun n hn hclear hset => siForm_cruns (fun p => BitVec.ofNat 64 (leadingZeros p.toNat 64)) h
        (congrArg (BitVec.ofNat 64) (leadingZeros_eq_of_highest hn hclear hset)) rfl⟩
  case imm =>
    exact ⟨siForm_cruns (· + i.signExtend 64) h rfl rfl,
      siForm_cruns (· * i.signExtend 64) h rfl rfl,
      siForm_cruns (· &&& i.zeroExtend 64) h rfl rfl,
      siForm_cruns (· ||| i.zeroExtend 64) h rfl rfl,
      siForm_cruns (· ^^^ i.zeroExtend 64) h rfl rfl,
      siForm_cruns (shiftLeft64 · (j.zeroExtend 64)) h (shiftLeft64_count _ j) rfl,
      siForm_cruns (shiftRight64 · (j.zeroExtend 64)) h (shiftRight64_count _ j) rfl,
      siForm_cruns (shiftRightSigned64 · (j.zeroExtend 64)) h (shiftRightSigned64_count _ j) rfl⟩
  case li => exact scalarBody_cruns (f := fun _ => k.signExtend 64) rfl h
  case sli =>
    refine ⟨scalarBody_cruns (f := fun v => (v.g.sval d.toNat <<< 15) ||| k.zeroExtend 64) rfl h, ?_⟩
    rw [← shiftLeft_fifteen_eq_mul]
    exact scalarBody_cruns (f := fun v => v.g.sval d.toNat + (k.signExtend 64 <<< 15)) rfl h

end Sys2Proof.Machine
end
